-- ==== Sys2Proof/Word.lean ====
section
/-! DEFINITION. The word types of the FT960 and the plain-data types its instructions are made of:
registers' words, sparse maps in canonical form, operand fields (R54), instruction fields (R51, R56). -/

namespace Sys2Proof

/-- A 32-bit register value. -/
abbrev Word := BitVec 32

/-- A byte of memory. -/
abbrev Byte := BitVec 8

/-- A set of lanes of one gang, bit `i` for lane `i` (R97). -/
abbrev Lanes := BitVec 32

/-- A taint (R250): bits 15:0 are the gang's load tags, bit 16 is the saturated mark SAT. -/
abbrev Taint := BitVec 17

/-- An instruction word (R51). -/
abbrev IWord := BitVec 96

/-- A 10-bit operand field (R54): a class and an 8-bit index. Class 00 is `v`, class 01 `s` (with the
special registers at 64 to 77), class 10 `p` (predicates 0 to 6, `pt` 7, mask registers 16 to 27), class 11 `q`. -/
inductive Opnd where
  | v (i : BitVec 8)
  | s (i : BitVec 8)
  | p (i : BitVec 8)
  | q (i : BitVec 8)
  deriving DecidableEq, Repr, Inhabited

/-- The fields of an instruction word that stand beside its opcode's quad (R51, R56, R58). In format R
`imm` holds B[23:0], which must be zero; in format I `imm` is the 32-bit immediate and `b`, `c` are zero;
in formats M and E `imm` holds the 24-bit immediate. -/
structure Fields where
  guard : BitVec 4
  stall : BitVec 5
  yield : Bool
  slot  : BitVec 2
  mod   : BitVec 10
  d     : Opnd
  a     : Opnd
  b     : Opnd
  c     : Opnd
  imm   : Word
  deriving DecidableEq, Repr, Inhabited

/-- The sub-causes of illegal-instruction (R73), in the order of their codes 1 to 8. -/
inductive SubCause where
  | fetch | opcode | guard | reserved | mod | class_ | index | block
  deriving DecidableEq, Repr, Inhabited

/-- The code of a sub-cause (R73). -/
def SubCause.code : SubCause → Nat
  | .fetch => 1 | .opcode => 2 | .guard => 3 | .reserved => 4
  | .mod => 5 | .class_ => 6 | .index => 7 | .block => 8

/-- A sparse map from addresses or register numbers to words: strictly rising keys, no zero entry. An
unlisted key reads as zero, so equal maps are equal lists. -/
abbrev Sparse (w : Nat) := List (Nat × BitVec w)

/-- Byte memory (`Host.Cell` pairs) in the same canonical form. -/
abbrev Memory := List Host.Cell

/-- A map from keys to records, strictly rising keys; an unlisted key reads as the record type's default. -/
abbrev KMap (α : Type) := List (Nat × α)

/-- How many cycles each local counter moves before an event (R5, R11, R413): the arithmetic clock of each die, so that a stretched
die moves fewer, and the controllers' clock of each HBM channel, lowest channel first. -/
structure Elapse where
  d0 : Nat
  d1 : Nat
  d2 : Nat
  d3 : Nat
  mc : List Nat
  deriving DecidableEq, Repr, Inhabited

end Sys2Proof
end

