-- ==== Sys2Proof/Syntax.lean ====
section
/-! DEFINITION. The steps of the FT960: one constructor per row of spec/opcode_table.json. The rows from ADD to
QLAUNCH are instruction words and carry the word's fields; the rows from ISSUE_CHOICE on are the engines' and the
host's own steps (spec/95_what_each_step_holds.md), carry the numbers that say which part they concern, and have no word. -/

namespace Sys2Proof

/-- A step of the machine. -/
inductive Instr where
  /-- add (R127). Integer add, wrapping or saturating, for each executing thread or once in uniform form; the 64-bit uniform forms act the same way. -/
  | add (f : Fields)
  /-- sub (R127). Integer subtract, wrapping or saturating. -/
  | sub (f : Fields)
  /-- mul (R127). Integer multiply that keeps the low bits, or saturates. -/
  | mul (f : Fields)
  /-- mulh (R127). High 32 bits of a signed or unsigned 32-bit product. -/
  | mulh (f : Fields)
  /-- mad (R127). Integer multiply-add a times b plus c. -/
  | mad (f : Fields)
  /-- neg (R127). Integer negation, wrapping or saturating. -/
  | neg (f : Fields)
  /-- abs (R127). Integer absolute value, wrapping or saturating. -/
  | abs (f : Fields)
  /-- min (R127). Smaller of two integers. -/
  | min (f : Fields)
  /-- max (R127). Larger of two integers. -/
  | max (f : Fields)
  /-- and (R127). Bitwise AND. -/
  | and (f : Fields)
  /-- or (R127). Bitwise OR. -/
  | or (f : Fields)
  /-- xor (R127). Bitwise XOR. -/
  | xor (f : Fields)
  /-- andn (R127). Bitwise a AND NOT b. -/
  | andn (f : Fields)
  /-- shl (R129). Shift left by a 5-bit count, or a 6-bit count in the 64-bit form. -/
  | shl (f : Fields)
  /-- shr (R129). Logical shift right. -/
  | shr (f : Fields)
  /-- sar (R129). Arithmetic shift right. -/
  | sar (f : Fields)
  /-- clz (R127). Count of leading zero bits. -/
  | clz (f : Fields)
  /-- popc (R127). Count of one bits. -/
  | popc (f : Fields)
  /-- bfx (R130). Extracts a bit field, signed or unsigned. -/
  | bfx (f : Fields)
  /-- bfi (R130). Inserts a bit field into a base value. -/
  | bfi (f : Fields)
  /-- sel (R131). Selects a or b by a predicate. -/
  | sel (f : Fields)
  /-- setp (R132). Integer compare that writes a predicate. -/
  | setp (f : Fields)
  /-- plop (R134). Logical operation on predicates. -/
  | plop (f : Fields)
  /-- p2v (R134). Predicate to v register, 1 or 0. -/
  | p2v (f : Fields)
  /-- v2p (R134). Nonzero value to predicate. -/
  | v2p (f : Fields)
  /-- fadd (R136). fp32 add rounded under RND, setting flags. -/
  | fadd (f : Fields)
  /-- fsub (R136). fp32 subtract rounded once. -/
  | fsub (f : Fields)
  /-- fmul (R136). fp32 multiply. -/
  | fmul (f : Fields)
  /-- ffma (R136). fp32 fused multiply-add rounded once. -/
  | ffma (f : Fields)
  /-- fmin (R82). fp32 minimumNumber. -/
  | fmin (f : Fields)
  /-- fmax (R82). fp32 maximumNumber. -/
  | fmax (f : Fields)
  /-- fsetp (R137). fp32 compare that writes a predicate. -/
  | fsetp (f : Fields)
  /-- frcp (R83). Correctly rounded reciprocal. -/
  | frcp (f : Fields)
  /-- frsq (R83). Correctly rounded reciprocal square root. -/
  | frsq (f : Fields)
  /-- fsqrt (R83). Correctly rounded square root. -/
  | fsqrt (f : Fields)
  /-- fex2 (R83). Correctly rounded power of two. -/
  | fex2 (f : Fields)
  /-- flg2 (R83). Correctly rounded base-2 logarithm. -/
  | flg2 (f : Fields)
  /-- frnd (R138). Rounds an fp32 value to an integral value under RND. -/
  | frnd (f : Fields)
  /-- fclass (R139). Writes a one-hot class mask of a float. -/
  | fclass (f : Fields)
  /-- cvt (R141). Converts between integer and float types under R89. -/
  | cvt (f : Fields)
  /-- hadd2 (R140). Packed 16-bit float add. -/
  | hadd2 (f : Fields)
  /-- hmul2 (R140). Packed 16-bit float multiply. -/
  | hmul2 (f : Fields)
  /-- hfma2 (R140). Packed 16-bit fused multiply-add. -/
  | hfma2 (f : Fields)
  /-- hmax2 (R140). Packed 16-bit maximumNumber. -/
  | hmax2 (f : Fields)
  /-- pack (R142). Rounds two fp32 values into a packed 16-bit pair. -/
  | pack (f : Fields)
  /-- unpk (R142). Widens one packed 16-bit element exactly to fp32. -/
  | unpk (f : Fields)
  /-- mov (R143). Copies a register or immediate unchanged. -/
  | mov (f : Fields)
  /-- vrd (R144). Reads one thread's v register into an s register. -/
  | vrd (f : Fields)
  /-- rdsp (R145). Reads a control register by number. -/
  | rdsp (f : Fields)
  /-- wrsp (R145). Writes a control register by number under its access codes, trapping on trap-state-only registers outside trap state. -/
  | wrsp (f : Fields)
  /-- shfl (R147). Exchanges values between lanes of the bundle. -/
  | shfl (f : Fields)
  /-- vote (R148). Any, all, ballot or count over the executing threads. -/
  | vote (f : Fields)
  /-- lred (R149). Folds a value over the executing threads in ascending lane order. -/
  | lred (f : Fields)
  /-- lscan (R149). Inclusive prefix fold over the executing threads. -/
  | lscan (f : Fields)
  /-- match (R150). Writes a mask of the lanes that hold an equal value. -/
  | match_ (f : Fields)
  /-- bra (R152). Per-thread branch, relative or by register. -/
  | bra (f : Fields)
  /-- brx (R152). Branch to a label plus a register index. -/
  | brx (f : Fields)
  /-- call (R152). Branch that writes the link register. -/
  | call (f : Fields)
  /-- ret (R152). Indirect branch to a return address. -/
  | ret (f : Fields)
  /-- exit (R153). Exits the executing threads, removes them from every mask and runs the release tests. -/
  | exit (f : Fields)
  /-- pblk (R68). Opens a per-thread predicate block over the next n words. -/
  | pblk (f : Fields)
  /-- nop (R153). No effect. -/
  | nop (f : Fields)
  /-- brk (R154). With debug enabled, stops the gang and posts a BREAK record. -/
  | brk (f : Fields)
  /-- trap (R155). Raises a SOFT trap with a code. -/
  | trap (f : Fields)
  /-- mjoin (R160). Adds the executing threads to a mask's membership set. -/
  | mjoin (f : Fields)
  /-- mleave (R160). Removes the executing threads from a mask's membership set and runs the release test. -/
  | mleave (f : Fields)
  /-- mwait (R160). The executing threads wait on a mask; their arrival takes effect after the drain of R158. -/
  | mwait (f : Fields)
  /-- mpoll (R161). Tests a mask's release or membership into a predicate. -/
  | mpoll (f : Fields)
  /-- mrd (R162). Reads a mask's member, arrived or live set. -/
  | mrd (f : Fields)
  /-- reform (R164). Files the executing threads into the Sifter with their next PC. -/
  | reform (f : Fields)
  /-- bsync (R166). Arrives at a block barrier and waits for the generation to complete. -/
  | bsync (f : Fields)
  /-- barv (R166). Arrives at a block barrier without waiting. -/
  | barv (f : Fields)
  /-- bwt (R166). Waits on a block barrier generation without arriving. -/
  | bwt (f : Fields)
  /-- nbatt (R170). Attaches the gang to a named barrier, creating it if needed. -/
  | nbatt (f : Fields)
  /-- nbarv (R170). Marks the gang arrived at a named barrier. -/
  | nbarv (f : Fields)
  /-- nbwt (R170). Waits for the named barrier generation the gang arrived in. -/
  | nbwt (f : Fields)
  /-- nbdet (R170). Detaches the gang from a named barrier and runs the completion test. -/
  | nbdet (f : Fields)
  /-- twait (R174). Sleeps the executing threads for n cycles, with an optional acquire. -/
  | twait (f : Fields)
  /-- waddr (R175). Waits until a memory word satisfies a condition, then returns it. -/
  | waddr (f : Fields)
  /-- xacq (R177). Requests an extended register block from the allocator. -/
  | xacq (f : Fields)
  /-- xrel (R178). Frees or withdraws the gang's extended register block. -/
  | xrel (f : Fields)
  /-- region (R179). Sets or clears the restart entry of the executing threads. -/
  | region (f : Fields)
  /-- ppoint (R180). Records the live slab mask for a Tray switch. -/
  | ppoint (f : Fields)
  /-- tret (R182). Ends trap state and resumes each thread at its saved PC or wait. -/
  | tret (f : Fields)
  /-- ld (R255). Loads from block memory, the wide store or a host buffer, taking a load tag. -/
  | ld (f : Fields)
  /-- st (R256). Stores to a bank, into the store buffer, or as a scoped store sent at once. -/
  | st (f : Fields)
  /-- spill (R258). Writes registers to the spill stack with their taint shadow. -/
  | spill (f : Fields)
  /-- fill (R258). Reads spill-stack words into registers with their shadow taint. -/
  | fill (f : Fields)
  /-- atom (R259). Atomic read-modify-write at the scope's point of performance. -/
  | atom (f : Fields)
  /-- cas (R260). Atomic compare-and-swap. -/
  | cas (f : Fields)
  /-- red (R261). Posted reduction, appended to the crumb log on an absent tile. -/
  | red (f : Fields)
  /-- phase.rel (R263). Sends the store buffer and waits for the unacknowledged-store counter to reach zero. -/
  | phaseRel (f : Fields)
  /-- phase.acq (R263). Advances the acquire generation, opening a new phase. -/
  | phaseAcq (f : Fields)
  /-- phase.ar (R263). Release followed by acquire. -/
  | phaseAr (f : Fields)
  /-- pfence (R266). Orders writes on the writer paths before later accesses on the reader paths. -/
  | pfence (f : Fields)
  /-- sbwait (R264). Waits until the unacknowledged-store counter reaches zero. -/
  | sbwait (f : Fields)
  /-- tsync (R267). Waits for the loads in a register's taint, or for all outstanding loads, and clears SAT. -/
  | tsync (f : Fields)
  /-- untaint (R268). Clears a register's taint. -/
  | untaint (f : Fields)
  /-- tfetch (R269). Asks the named tiles to arrive. -/
  | tfetch (f : Fields)
  /-- tevict (R269). Marks the named tiles as the next eviction victims. -/
  | tevict (f : Fields)
  /-- mdld (R270). Reads a line's side-band metadata. -/
  | mdld (f : Fields)
  /-- mdst (R270). Writes a line's side-band metadata. -/
  | mdst (f : Fields)
  /-- cp (R293). Issues a bulk or strided copy, taking a copy slot and ID. -/
  | cp (f : Fields)
  /-- cpq (R297). Loads a slab through the copy engine, optionally arming a follow-on mma. -/
  | cpq (f : Fields)
  /-- cpflag (R299). Attaches a block-memory completion record to a copy. -/
  | cpflag (f : Fields)
  /-- cpcommit (R300). Closes the open copy batch. -/
  | cpcommit (f : Fields)
  /-- cpwait (R300). Closes the open batch and waits until at most n committed batches remain. -/
  | cpwait (f : Fields)
  /-- cpst (R296). Reads a held copy slot's status word. -/
  | cpst (f : Fields)
  /-- scfg (R313). Writes a slab's configuration. -/
  | scfg (f : Fields)
  /-- mma (R318). Queues C += A·B on slabs for the matrix array, or in .a form the armed follow-on. -/
  | mma (f : Fields)
  /-- szero (R313). Zeroes a whole slab. -/
  | szero (f : Fields)
  /-- smov.in (R314). Moves lane values into one segment of a slab row. -/
  | smovIn (f : Fields)
  /-- smov.out (R314). Moves one segment of a slab row into lanes. -/
  | smovOut (f : Fields)
  /-- quant (R322). Quantises lanes into one BFP block in registers or a slab. -/
  | quant (f : Fields)
  /-- bexp (R323). Computes the block exponent of an fp32 value. -/
  | bexp (f : Fields)
  /-- swb (R325). Writes a slab out through the copy engine with an optional amax update. -/
  | swb (f : Fields)
  /-- samax (R324). Returns the absolute maximum of an fp32 slab. -/
  | samax (f : Fields)
  /-- bput (R347). Puts a record into a plain bag and returns a status. -/
  | bput (f : Fields)
  /-- bputk (R350). Puts a scored record into a ranked bag, possibly displacing the lowest record. -/
  | bputk (f : Fields)
  /-- bputv (R351). Puts a provisional record under a token. -/
  | bputv (f : Fields)
  /-- bcommit (R351). Settles the records of a token as ordinary records. -/
  | bcommit (f : Fields)
  /-- bsquash (R351). Settles the records of a token by freeing them. -/
  | bsquash (f : Fields)
  /-- bcount (R352). Reads the bag's exact resident count at the home. -/
  | bcount (f : Fields)
  /-- bdrain (R354). Opens a snapshot or live cursor on the stack's share of a bag. -/
  | bdrain (f : Fields)
  /-- bnext (R355). Claims up to n records from a cursor into block memory and frees them. -/
  | bnext (f : Fields)
  /-- bclose (R358). Closes a drain cursor. -/
  | bclose (f : Fields)
  /-- bstat (R353). Reads one bag statistic by selector. -/
  | bstat (f : Fields)
  /-- xpost (R372). Sends a remote post of register data, with an optional counter add. -/
  | xpost (f : Fields)
  /-- xbcast (R373). Sends one copy of a post to every cluster of the partition. -/
  | xbcast (f : Fields)
  /-- xfence (R374). Waits until the gang's outstanding post count is at most n. -/
  | xfence (f : Fields)
  /-- qlaunch (R394). Enqueues a launch packet into a user queue from device code. -/
  | qlaunch (f : Fields)
  /-- ISSUE_CHOICE (R192). In each free cycle a slot chooses a candidate gang under GTO or RR and starts its bundle. -/
  | issueChoice (core slot : Nat)
  /-- STARVATION_FORCE (R193). A gang's starvation counter reaches 512 and the gang is forced ahead. -/
  | starvationForce (gid : Nat)
  /-- MASK_ARRIVAL (R160). A waiting thread's mwait arrival takes effect once its drain ends, and the release test runs. -/
  | maskArrival (gid lane : Nat)
  /-- BARRIER_ARRIVAL (R166). A thread's block-barrier count is applied after its drain, and CheckBar may release the generation. -/
  | barrierArrival (gid lane bar : Nat)
  /-- NAMED_BARRIER_ARRIVAL (R170). A gang's named-barrier arrival takes effect after the drain, and the completion test runs. -/
  | namedBarrierArrival (gid name : Nat)
  /-- TWAIT_EXPIRY (R174). A twait count expires, the threads become ready, and twait.acq acquires. -/
  | twaitExpiry (gid lane : Nat)
  /-- WADDR_REREAD (R176). A waddr thread with no monitor entry re-reads its word every 128 cycles. -/
  | waddrReread (gid lane : Nat)
  /-- ALLOCATOR_GRANT (R115). The buddy allocator grants the head request once granules are free. -/
  | allocatorGrant (core : Nat)
  /-- COMPACTOR_MOVE (R116). The compactor moves one allocated register block to free a buddy block. -/
  | compactorMove (core start target : Nat)
  /-- CLEAR_ENGINE_GRANULE (R118). The clear engine zeroes one granule, possibly letting a gang first issue or an xacq complete. -/
  | clearEngineGranule (core : Nat)
  /-- SIFTER_AGE_CAP_EXPIRY (R112). A bin's oldest packet reaches the age cap and the bin becomes drawable. -/
  | sifterAgeCapExpiry (core bin : Nat)
  /-- SIFTER_BIN_DRAW (R113). A drawable bin becomes a fresh gang once a gang index and its granules are free. -/
  | sifterBinDraw (core bin : Nat)
  /-- GANG_END (R109). A gang with no live thread and no outstanding work ends, draining stores and freeing resources. -/
  | gangEnd (gid : Nat)
  /-- LOAD_PERFORM (R250). A load or returned value binds, its result is written, and its tag and pending bit clear. -/
  | loadPerform (gid id : Nat)
  /-- STORE_ACK (R264). A store, reduction or mdst acknowledgement decrements the unacknowledged-store counter. -/
  | storeAck (gid : Nat)
  /-- TRANSLATION_WALK (R233). A translation walk completes for a request that missed the caches. -/
  | translationWalk (core asid space va : Nat)
  /-- MEMORY_FAULT_PARK (R205). Failed checks park the lanes, fill a replay-buffer entry and post a FAULT record. -/
  | memoryFaultPark (gid : Nat)
  /-- FAULT_RECORD_POST (R410). A record is written to the host ring once the ring is enabled and has room. -/
  | faultRecordPost (core : Nat)
  /-- FAULT_ACK_RETRY (R208). A RETRY acknowledgement reissues the replay entry for its parked lanes. -/
  | faultAckRetry (core seq : Nat)
  /-- FAULT_ACK_DELIVER (R208). A DELIVER acknowledgement readies the parked threads and raises MEMFAULT. -/
  | faultAckDeliver (core seq : Nat)
  /-- FAULT_ACK_KILL (R208). A KILL acknowledgement ends the context's block. -/
  | faultAckKill (core seq : Nat)
  /-- DBG_RESUME (R154). A write of a record's SEQ to DBG.RESUME resumes the gang stopped by that record. -/
  | dbgResume (core seq : Nat)
  /-- TRAY_SWITCH (R214). A whole-core exchange of resident contexts with the shadow bank. -/
  | traySwitch (core : Nat)
  /-- CONTEXT_LOAD (R396). The incoming context is loaded into the shadow bank before a switch. -/
  | contextLoad (core block : Nat)
  /-- BACKGROUND_SPILL (R215). After its loads and copies land, the outgoing context is spilled to the save area. -/
  | backgroundSpill (core : Nat)
  /-- SLICE_REQUEST (R235). The home slice performs a tile access, store, atomic, load or append in arrival order. -/
  | sliceRequest (slice src : Nat)
  /-- TILE_ARRIVAL (R238). A tile's read from main memory completes, its log is applied and waiting accesses are performed. -/
  | tileArrival (tile : Nat)
  /-- TILE_EVICTION (R242). A resident tile is evicted, a dirty one written back first. -/
  | tileEviction (tile : Nat)
  /-- HOT_TILE_PROMOTION (R244). A tile's tracker count reaches THRESH and its arrival is requested. -/
  | hotTilePromotion (tile : Nat)
  /-- HOT_TILE_DECAY (R244). Every 2^DECAY cycles the slice halves all tracker counts. -/
  | hotTileDecay (slice : Nat)
  /-- PHASE_CACHE_EVICTION (R254). A phase-cache line is evicted, setting OVF in the affected gangs. -/
  | phaseCacheEviction (core line : Nat)
  /-- HBM_REQUEST (R403). A channel controller serves a request first-ready first-come under the age cap. -/
  | hbmRequest (chan idx : Nat)
  /-- PAGE_REENCRYPT (R408). A minor counter overflow re-encrypts the page and then performs the held accesses. -/
  | pageReencrypt (page : Nat)
  /-- SCRUB_LINE (R406). The scrubber visits a line, correcting or poisoning it. -/
  | scrubLine (line : Nat)
  /-- COPY_CHUNK (R304). An active copy moves one 256-byte chunk in its round-robin turn. -/
  | copyChunk (core id chunk : Nat)
  /-- COPY_COMPLETE (R299). A copy reaches DONE or FAILED, its record is written, and batches may retire. -/
  | copyComplete (core id : Nat)
  /-- MMA_HANDOVER (R298). The copy engine hands an armed mma to the array once its copies have landed. -/
  | mmaHandover (core idx : Nat)
  /-- MMA_ACCEPT (R321). The free array accepts the head mma of the next requester in round-robin order. -/
  | mmaAccept (core : Nat)
  /-- MMA_COMPLETE (R318). The array finishes an mma, and C's pending bit clears. -/
  | mmaComplete (core : Nat)
  /-- BAG_ADMIT (R342). The bag home admits or refuses a put in its arrival order. -/
  | bagAdmit (bag src : Nat)
  /-- BAG_PLACE (R341). A steward places an admitted record within the balance bound and acknowledges it. -/
  | bagPlace (bag put stack bank : Nat)
  /-- BAG_SETTLE (R351). A settlement reaches a steward and commits or frees the token's records. -/
  | bagSettle (bag op steward : Nat)
  /-- BAG_CUT (R354). A bdrain arrives at a steward and records the cut of each bank. -/
  | bagCut (bag cursor bank : Nat)
  /-- BAG_CLAIM (R356). A cursor's claim takes claimable records at a steward in one indivisible step. -/
  | bagClaim (bag op rec : Nat)
  /-- BAG_FREE (R342). A free subtracts a record from the resident count at the home. -/
  | bagFree (bag idx : Nat)
  /-- EGRESS_ARBITRATION (R377). A free link's egress port chooses the next packet by age, reservation and class. -/
  | egressArbitration (port idx : Nat)
  /-- PACKET_AGE_SATURATION (R377). A packet's age counter saturates at 1,023 and it overrides class and budgets. -/
  | packetAgeSaturation (pkt : Nat)
  /-- POST_DELIVERY (R372). A post arrives on path X, stores its units and then adds to its counter. -/
  | postDelivery (pkt unit : Nat)
  /-- POST_ACK (R372). A post's acknowledgement returns and decrements OUT. -/
  | postAck (pkt : Nat)
  /-- FLIT_UNCORR (R380). An uncorrectable data flit drops its packet and ends the sending launch. -/
  | flitUncorr (pkt : Nat)
  /-- CORRUPT_HEADER (R380). A corrupt header brings the partition down. -/
  | corruptHeader (pkt : Nat)
  /-- CLUSTER_RESET (R381). A containment reset of a cluster pads and truncates its partial packet. -/
  | clusterReset (cluster : Nat)
  /-- PARTITION_RESTITCH (R368). The partition manager re-stitches a partition once no launch runs on its stack groups. -/
  | partitionRestitch (part : Nat)
  /-- QUEUE_BELL (R384). A doorbell write names a queue with new packets. -/
  | queueBell (queue : Nat)
  /-- QUEUE_SLOT_MAP (R385). A waiting queue is mapped onto a free or reclaimed hardware slot. -/
  | queueSlotMap (queue : Nat)
  /-- QUEUE_EXAMINE (R388). The scheduler examines a slot's head packet, takes it, and launches, skips or refuses it. -/
  | queueExamine (hwslot : Nat)
  /-- CLUSTER_INSTANCE_PLACE (R390). A cluster instance is placed whole on one cluster once its cores have room. -/
  | clusterInstancePlace (launch : Nat)
  /-- LAUNCH_COMPLETE (R391). After every block has ended, the completion record is written and the signal counter advanced. -/
  | launchComplete (launch : Nat)
  /-- SLICE_EXPIRY (R395). A queue's time slice on a core expires. -/
  | sliceExpiry (core queue : Nat)
  /-- BOOT (R411). At reset the boot ROM verifies and runs the firmware image, or awaits recovery. -/
  | boot
  /-- BOOT_CMD_RECOVER (R411). A write of 1 to BOOT.CMD loads and verifies the recovery image from the host. -/
  | bootCmdRecover
  /-- KEY_LOAD (R407). KEY.CMD LOAD loads the key words into a key slot. -/
  | keyLoad (keySlot : Nat)
  /-- KEY_ERASE (R407). KEY.CMD ERASE zeroes a key slot. -/
  | keyErase (keySlot : Nat)
  /-- XLAT_INV (R401). Starts the invalidation of every translation cache entry of one ASID. -/
  | xlatInv (asid : Nat)
  /-- PART_CMD (R368). A write to PART.CMD requests a re-stitch, or is refused. -/
  | partCmd (value : Nat)
  /-- ATTEST_REQUEST (R412). A write of 1 to the attestation start register produces a signed report. -/
  | attestRequest
  /-- CORE_POLICY_WRITE (R190). A write sets a core's issue policy from the next cycle, ignoring 10 and 11. -/
  | corePolicyWrite (core value : Nat)
  /-- FREC_CONFIG_WRITE (R410). A write to FREC.BASE or FREC.SIZE takes effect only on a disabled or empty ring, and resets head and tail. -/
  | frecConfigWrite (off value : Nat)
  /-- MGMT_REGISTER_WRITE (R400). A host write to a management register with no behaviour of its own. -/
  | mgmtRegisterWrite (off value : Nat)
  /-- SUPPLY_SAG (R413). A detected droop stretches the die clock and counts in PWR.STRETCH. -/
  | supplySag (die : Nat)
  /-- SUPPLY_RECOVERY (R413). The supply recovers and the clock stretch relaxes. -/
  | supplyRecovery (die : Nat)
  /-- MARGIN_REPLAN (R414). At boot and every 24 hours firmware re-plans margins and may lower the clock ceiling. -/
  | marginReplan
  /-- POSTAN_LINK_DOWN (R382). A Postan link port goes down, so that a route whose ports are all down fails each post with ROUTE. -/
  | postanLinkDown (port : Nat)
  /-- POSTAN_LINK_UP (R382). A Postan link port that was down comes back up, so that its routes carry posts again. -/
  | postanLinkUp (port : Nat)
  /-- RESERVATION_BUDGET_REFILL (R397). Every 1,024 controller cycles each channel controller refills every slot's MEM budget counter without carry, and the egress ports refill their FAB budgets. -/
  | reservationBudgetRefill
  /-- XLAT_INV_DONE (R401). A translation-cache invalidation started through XLAT.INV completes, the ASID's translations are gone, and bit 31 reads 0. -/
  | xlatInvDone (asid : Nat)
  /-- FABRIC_PORT_ACCESS (R410). The fabric port on die 0 that feeds UCIe performs a host-buffer load, store, atomic or post unit in its arrival order, and tests monitored words. -/
  | fabricPortAccess (src : Nat)
  deriving DecidableEq, Repr, Inhabited

/-- The step is an instruction word's, not an engine's or the host's own. -/
def Instr.isWord (i : Instr) : Bool :=
  match i with
  | .add _ => true
  | .sub _ => true
  | .mul _ => true
  | .mulh _ => true
  | .mad _ => true
  | .neg _ => true
  | .abs _ => true
  | .min _ => true
  | .max _ => true
  | .and _ => true
  | .or _ => true
  | .xor _ => true
  | .andn _ => true
  | .shl _ => true
  | .shr _ => true
  | .sar _ => true
  | .clz _ => true
  | .popc _ => true
  | .bfx _ => true
  | .bfi _ => true
  | .sel _ => true
  | .setp _ => true
  | .plop _ => true
  | .p2v _ => true
  | .v2p _ => true
  | .fadd _ => true
  | .fsub _ => true
  | .fmul _ => true
  | .ffma _ => true
  | .fmin _ => true
  | .fmax _ => true
  | .fsetp _ => true
  | .frcp _ => true
  | .frsq _ => true
  | .fsqrt _ => true
  | .fex2 _ => true
  | .flg2 _ => true
  | .frnd _ => true
  | .fclass _ => true
  | .cvt _ => true
  | .hadd2 _ => true
  | .hmul2 _ => true
  | .hfma2 _ => true
  | .hmax2 _ => true
  | .pack _ => true
  | .unpk _ => true
  | .mov _ => true
  | .vrd _ => true
  | .rdsp _ => true
  | .wrsp _ => true
  | .shfl _ => true
  | .vote _ => true
  | .lred _ => true
  | .lscan _ => true
  | .match_ _ => true
  | .bra _ => true
  | .brx _ => true
  | .call _ => true
  | .ret _ => true
  | .exit _ => true
  | .pblk _ => true
  | .nop _ => true
  | .brk _ => true
  | .trap _ => true
  | .mjoin _ => true
  | .mleave _ => true
  | .mwait _ => true
  | .mpoll _ => true
  | .mrd _ => true
  | .reform _ => true
  | .bsync _ => true
  | .barv _ => true
  | .bwt _ => true
  | .nbatt _ => true
  | .nbarv _ => true
  | .nbwt _ => true
  | .nbdet _ => true
  | .twait _ => true
  | .waddr _ => true
  | .xacq _ => true
  | .xrel _ => true
  | .region _ => true
  | .ppoint _ => true
  | .tret _ => true
  | .ld _ => true
  | .st _ => true
  | .spill _ => true
  | .fill _ => true
  | .atom _ => true
  | .cas _ => true
  | .red _ => true
  | .phaseRel _ => true
  | .phaseAcq _ => true
  | .phaseAr _ => true
  | .pfence _ => true
  | .sbwait _ => true
  | .tsync _ => true
  | .untaint _ => true
  | .tfetch _ => true
  | .tevict _ => true
  | .mdld _ => true
  | .mdst _ => true
  | .cp _ => true
  | .cpq _ => true
  | .cpflag _ => true
  | .cpcommit _ => true
  | .cpwait _ => true
  | .cpst _ => true
  | .scfg _ => true
  | .mma _ => true
  | .szero _ => true
  | .smovIn _ => true
  | .smovOut _ => true
  | .quant _ => true
  | .bexp _ => true
  | .swb _ => true
  | .samax _ => true
  | .bput _ => true
  | .bputk _ => true
  | .bputv _ => true
  | .bcommit _ => true
  | .bsquash _ => true
  | .bcount _ => true
  | .bdrain _ => true
  | .bnext _ => true
  | .bclose _ => true
  | .bstat _ => true
  | .xpost _ => true
  | .xbcast _ => true
  | .xfence _ => true
  | .qlaunch _ => true
  | .issueChoice _ _ => false
  | .starvationForce _ => false
  | .maskArrival _ _ => false
  | .barrierArrival _ _ _ => false
  | .namedBarrierArrival _ _ => false
  | .twaitExpiry _ _ => false
  | .waddrReread _ _ => false
  | .allocatorGrant _ => false
  | .compactorMove _ _ _ => false
  | .clearEngineGranule _ => false
  | .sifterAgeCapExpiry _ _ => false
  | .sifterBinDraw _ _ => false
  | .gangEnd _ => false
  | .loadPerform _ _ => false
  | .storeAck _ => false
  | .translationWalk _ _ _ _ => false
  | .memoryFaultPark _ => false
  | .faultRecordPost _ => false
  | .faultAckRetry _ _ => false
  | .faultAckDeliver _ _ => false
  | .faultAckKill _ _ => false
  | .dbgResume _ _ => false
  | .traySwitch _ => false
  | .contextLoad _ _ => false
  | .backgroundSpill _ => false
  | .sliceRequest _ _ => false
  | .tileArrival _ => false
  | .tileEviction _ => false
  | .hotTilePromotion _ => false
  | .hotTileDecay _ => false
  | .phaseCacheEviction _ _ => false
  | .hbmRequest _ _ => false
  | .pageReencrypt _ => false
  | .scrubLine _ => false
  | .copyChunk _ _ _ => false
  | .copyComplete _ _ => false
  | .mmaHandover _ _ => false
  | .mmaAccept _ => false
  | .mmaComplete _ => false
  | .bagAdmit _ _ => false
  | .bagPlace _ _ _ _ => false
  | .bagSettle _ _ _ => false
  | .bagCut _ _ _ => false
  | .bagClaim _ _ _ => false
  | .bagFree _ _ => false
  | .egressArbitration _ _ => false
  | .packetAgeSaturation _ => false
  | .postDelivery _ _ => false
  | .postAck _ => false
  | .flitUncorr _ => false
  | .corruptHeader _ => false
  | .clusterReset _ => false
  | .partitionRestitch _ => false
  | .queueBell _ => false
  | .queueSlotMap _ => false
  | .queueExamine _ => false
  | .clusterInstancePlace _ => false
  | .launchComplete _ => false
  | .sliceExpiry _ _ => false
  | .boot => false
  | .bootCmdRecover => false
  | .keyLoad _ => false
  | .keyErase _ => false
  | .xlatInv _ => false
  | .partCmd _ => false
  | .attestRequest => false
  | .corePolicyWrite _ _ => false
  | .frecConfigWrite _ _ => false
  | .mgmtRegisterWrite _ _ => false
  | .supplySag _ => false
  | .supplyRecovery _ => false
  | .marginReplan => false
  | .postanLinkDown _ => false
  | .postanLinkUp _ => false
  | .reservationBudgetRefill => false
  | .xlatInvDone _ => false
  | .fabricPortAccess _ => false

/-- The fields of an instruction word's step; an event has none (all zero). -/
def Instr.fields (i : Instr) : Fields :=
  match i with
  | .add f => f
  | .sub f => f
  | .mul f => f
  | .mulh f => f
  | .mad f => f
  | .neg f => f
  | .abs f => f
  | .min f => f
  | .max f => f
  | .and f => f
  | .or f => f
  | .xor f => f
  | .andn f => f
  | .shl f => f
  | .shr f => f
  | .sar f => f
  | .clz f => f
  | .popc f => f
  | .bfx f => f
  | .bfi f => f
  | .sel f => f
  | .setp f => f
  | .plop f => f
  | .p2v f => f
  | .v2p f => f
  | .fadd f => f
  | .fsub f => f
  | .fmul f => f
  | .ffma f => f
  | .fmin f => f
  | .fmax f => f
  | .fsetp f => f
  | .frcp f => f
  | .frsq f => f
  | .fsqrt f => f
  | .fex2 f => f
  | .flg2 f => f
  | .frnd f => f
  | .fclass f => f
  | .cvt f => f
  | .hadd2 f => f
  | .hmul2 f => f
  | .hfma2 f => f
  | .hmax2 f => f
  | .pack f => f
  | .unpk f => f
  | .mov f => f
  | .vrd f => f
  | .rdsp f => f
  | .wrsp f => f
  | .shfl f => f
  | .vote f => f
  | .lred f => f
  | .lscan f => f
  | .match_ f => f
  | .bra f => f
  | .brx f => f
  | .call f => f
  | .ret f => f
  | .exit f => f
  | .pblk f => f
  | .nop f => f
  | .brk f => f
  | .trap f => f
  | .mjoin f => f
  | .mleave f => f
  | .mwait f => f
  | .mpoll f => f
  | .mrd f => f
  | .reform f => f
  | .bsync f => f
  | .barv f => f
  | .bwt f => f
  | .nbatt f => f
  | .nbarv f => f
  | .nbwt f => f
  | .nbdet f => f
  | .twait f => f
  | .waddr f => f
  | .xacq f => f
  | .xrel f => f
  | .region f => f
  | .ppoint f => f
  | .tret f => f
  | .ld f => f
  | .st f => f
  | .spill f => f
  | .fill f => f
  | .atom f => f
  | .cas f => f
  | .red f => f
  | .phaseRel f => f
  | .phaseAcq f => f
  | .phaseAr f => f
  | .pfence f => f
  | .sbwait f => f
  | .tsync f => f
  | .untaint f => f
  | .tfetch f => f
  | .tevict f => f
  | .mdld f => f
  | .mdst f => f
  | .cp f => f
  | .cpq f => f
  | .cpflag f => f
  | .cpcommit f => f
  | .cpwait f => f
  | .cpst f => f
  | .scfg f => f
  | .mma f => f
  | .szero f => f
  | .smovIn f => f
  | .smovOut f => f
  | .quant f => f
  | .bexp f => f
  | .swb f => f
  | .samax f => f
  | .bput f => f
  | .bputk f => f
  | .bputv f => f
  | .bcommit f => f
  | .bsquash f => f
  | .bcount f => f
  | .bdrain f => f
  | .bnext f => f
  | .bclose f => f
  | .bstat f => f
  | .xpost f => f
  | .xbcast f => f
  | .xfence f => f
  | .qlaunch f => f
  | .issueChoice _ _ => default
  | .starvationForce _ => default
  | .maskArrival _ _ => default
  | .barrierArrival _ _ _ => default
  | .namedBarrierArrival _ _ => default
  | .twaitExpiry _ _ => default
  | .waddrReread _ _ => default
  | .allocatorGrant _ => default
  | .compactorMove _ _ _ => default
  | .clearEngineGranule _ => default
  | .sifterAgeCapExpiry _ _ => default
  | .sifterBinDraw _ _ => default
  | .gangEnd _ => default
  | .loadPerform _ _ => default
  | .storeAck _ => default
  | .translationWalk _ _ _ _ => default
  | .memoryFaultPark _ => default
  | .faultRecordPost _ => default
  | .faultAckRetry _ _ => default
  | .faultAckDeliver _ _ => default
  | .faultAckKill _ _ => default
  | .dbgResume _ _ => default
  | .traySwitch _ => default
  | .contextLoad _ _ => default
  | .backgroundSpill _ => default
  | .sliceRequest _ _ => default
  | .tileArrival _ => default
  | .tileEviction _ => default
  | .hotTilePromotion _ => default
  | .hotTileDecay _ => default
  | .phaseCacheEviction _ _ => default
  | .hbmRequest _ _ => default
  | .pageReencrypt _ => default
  | .scrubLine _ => default
  | .copyChunk _ _ _ => default
  | .copyComplete _ _ => default
  | .mmaHandover _ _ => default
  | .mmaAccept _ => default
  | .mmaComplete _ => default
  | .bagAdmit _ _ => default
  | .bagPlace _ _ _ _ => default
  | .bagSettle _ _ _ => default
  | .bagCut _ _ _ => default
  | .bagClaim _ _ _ => default
  | .bagFree _ _ => default
  | .egressArbitration _ _ => default
  | .packetAgeSaturation _ => default
  | .postDelivery _ _ => default
  | .postAck _ => default
  | .flitUncorr _ => default
  | .corruptHeader _ => default
  | .clusterReset _ => default
  | .partitionRestitch _ => default
  | .queueBell _ => default
  | .queueSlotMap _ => default
  | .queueExamine _ => default
  | .clusterInstancePlace _ => default
  | .launchComplete _ => default
  | .sliceExpiry _ _ => default
  | .boot => default
  | .bootCmdRecover => default
  | .keyLoad _ => default
  | .keyErase _ => default
  | .xlatInv _ => default
  | .partCmd _ => default
  | .attestRequest => default
  | .corePolicyWrite _ _ => default
  | .frecConfigWrite _ _ => default
  | .mgmtRegisterWrite _ _ => default
  | .supplySag _ => default
  | .supplyRecovery _ => default
  | .marginReplan => default
  | .postanLinkDown _ => default
  | .postanLinkUp _ => default
  | .reservationBudgetRefill => default
  | .xlatInvDone _ => default
  | .fabricPortAccess _ => default

end Sys2Proof
end

