-- ==== Sys2Proof/Config.lean ====
section
/-! DEFINITION. What the spec leaves open: free values with no body, so that nothing can be proved of them. They are taken at
the counter `State.free`, or at the operands they depend on. -/

namespace Sys2Proof.Config

/-- An undefined value (R7) of up to 128 bits: of an ASID's state, at the count of the undefined values that this ASID has met; ASID 1,024
stands for the device itself. -/
opaque freeBits : Nat → Nat → BitVec 128

/-- A choice among alternatives whose order is not fixed (R9), at a count. -/
opaque freeChoice : Nat → Nat

/-- The event that comes next where the agenda names none (R9), and the cycles that pass before it. -/
opaque freeEvent : Nat → Sys2Proof.Instr
opaque freeElapse : Nat → Sys2Proof.Elapse

/-- The layout of a bag's region (R341), which the spec leaves to the memory: for an entry and a descriptor, as 256-bit numbers,
the banks, each with its stack and the region offsets of its record slots. -/
opaque bagLayout : Nat → Nat → List (Nat × List Nat)

/-- The routes of a partition (R367), which the spec does not lay out: for its stack-group mask and shape, the nodes through which a packet
goes from a cluster to a cluster, to the UCIe port (48), or to one of a set of Postan ports (64 + the set). A node is a cluster 0 to 47,
the UCIe port 48, or Postan port p as 49 + p. -/
opaque fabricPath : Nat → Nat → Nat → Nat → List Nat

/-- The largest hop count of a mask and a shape, and the root cluster of a tree (R367). -/
opaque fabricHops : Nat → Nat → Nat
opaque fabricRoot : Nat → Nat → Nat

/-- A partition's stack groups can form a shape (R368). -/
opaque shapeFits : Nat → Nat → Bool

/-- A firmware image passes the verification of R411, as a number made of its bytes. -/
opaque imageOk : List Host.Cell → Bool

/-- The SHA-384 digest of a firmware image (R412). -/
opaque imageDigest : List Host.Cell → BitVec 384

/-- The device's public key on P-384; and its signature with the device key over a number of bytes, with what fills the report's 512 bytes after
it, of which the spec says nothing (R412). -/
opaque deviceKey : BitVec 768
opaque deviceSign : Nat → BitVec 2496

end Sys2Proof.Config
end

