-- ==== Sys2Proof/Decode.lean ====
section
/-! DEFINITION. The instruction word: its fields (R51, R56), the opcode grid (R72), what each instruction takes
(R53-R69, R121-R157, R246-R249, R291, R311, R343, R370, R393), the decoder that rejects by sub-cause (R73), and after
it the encoder, written from the same encoding tables. -/

namespace Sys2Proof

/-! ## Operand fields -/

/-- The operand that a 10-bit field names (R54). -/
def Opnd.ofBits (x : BitVec 10) : Opnd :=
  let i := x.extractLsb' 0 8
  if x.extractLsb' 8 2 = 0 then .v i
  else if x.extractLsb' 8 2 = 1 then .s i
  else if x.extractLsb' 8 2 = 2 then .p i
  else .q i

/-- The 10-bit field of an operand (R31, R54). -/
def Opnd.bits (o : Opnd) : BitVec 10 :=
  match o with
  | .v i => 0#2 ++ i
  | .s i => 1#2 ++ i
  | .p i => 2#2 ++ i
  | .q i => 3#2 ++ i

/-- The all-zero field, which an unused field must hold (R55). -/
abbrev Opnd.zero : Opnd := .v 0

/-- `vz`, which reads zero and discards writes (R54). -/
abbrev Opnd.vz : Opnd := .v 255

/-- The field's index. -/
def Opnd.index (o : Opnd) : Nat :=
  match o with
  | .v i => i.toNat
  | .s i => i.toNat
  | .p i => i.toNat
  | .q i => i.toNat

/-! ## Type codes (R64) and the parts of MOD (R63) -/

abbrev tyB8 : BitVec 5 := 0x00
abbrev tyB16 : BitVec 5 := 0x01
abbrev tyB32 : BitVec 5 := 0x02
abbrev tyB64 : BitVec 5 := 0x03
abbrev tyB128 : BitVec 5 := 0x04
abbrev tyI8 : BitVec 5 := 0x05
abbrev tyI16 : BitVec 5 := 0x06
abbrev tyI32 : BitVec 5 := 0x07
abbrev tyI64 : BitVec 5 := 0x08
abbrev tyN8 : BitVec 5 := 0x09
abbrev tyN16 : BitVec 5 := 0x0A
abbrev tyN32 : BitVec 5 := 0x0B
abbrev tyN64 : BitVec 5 := 0x0C
abbrev tyF32 : BitVec 5 := 0x0D
abbrev tyH16 : BitVec 5 := 0x0E
abbrev tyBF16 : BitVec 5 := 0x0F

/-- TY of the arithmetic and matrix families (R63). -/
def Fields.ty (f : Fields) : BitVec 5 := f.mod.extractLsb' 5 5
/-- RND of the arithmetic family (R65). -/
def Fields.rnd (f : Fields) : BitVec 2 := f.mod.extractLsb' 3 2
/-- SCO of the matrix family (R65). -/
def Fields.sco (f : Fields) : BitVec 2 := f.mod.extractLsb' 3 2
/-- OPX of the arithmetic, memory and matrix families (R63). -/
def Fields.opx (f : Fields) : BitVec 3 := f.mod.extractLsb' 0 3
/-- MTY of the memory family, as a type code (R64). -/
def Fields.mty (f : Fields) : BitVec 5 := (f.mod.extractLsb' 6 4).setWidth 5
/-- SS of the memory family (R65). -/
def Fields.ss (f : Fields) : BitVec 3 := f.mod.extractLsb' 3 3
/-- The 24-bit immediate of formats M and E. -/
def Fields.imm24 (f : Fields) : BitVec 24 := f.imm.setWidth 24
/-- An arithmetic word's form is uniform (slots 2 and 3, R58). -/
def Fields.uni (f : Fields) : Bool := f.slot.extractLsb' 1 1 == 1#1
/-- An arithmetic word's form takes an immediate (slots 1 and 3, R58). -/
def Fields.immForm (f : Fields) : Bool := f.slot.extractLsb' 0 1 == 1#1

/-- The `.i` types are signed (R77). -/
def tySigned (t : BitVec 5) : Bool := t == tyI8 || t == tyI16 || t == tyI32 || t == tyI64

/-- The width in bits that a type code names; 32 for codes that name no integer or raw type of their own width. -/
def tyBits (t : BitVec 5) : Nat :=
  if t = tyB8 ∨ t = tyI8 ∨ t = tyN8 then 8
  else if t = tyB16 ∨ t = tyI16 ∨ t = tyN16 ∨ t = tyH16 ∨ t = tyBF16 then 16
  else if t = tyB64 ∨ t = tyI64 ∨ t = tyN64 then 64
  else if t = tyB128 then 128
  else 32

/-- The 64-bit types of the uniform quads of R61. -/
def tyWide (t : BitVec 5) : Bool := t == tyB64 || t == tyI64 || t == tyN64

/-- The raw `.b` types. -/
def tyRaw (t : BitVec 5) : Bool := t == tyB8 || t == tyB16 || t == tyB32 || t == tyB64 || t == tyB128

/-- Set A of R127. -/
def tySetA (t : BitVec 5) : Bool :=
  t == tyI8 || t == tyI16 || t == tyI32 || t == tyN8 || t == tyN16 || t == tyN32 || t == tyB8 || t == tyB16 || t == tyB32

/-- Set N of R127. -/
def tySetN (t : BitVec 5) : Bool := tySetA t && !tyRaw t

/-- The BFP types `.m2` to `.m8` (R64, R87). -/
def tyBfp (t : BitVec 5) : Bool := decide (0x10 ≤ t.toNat ∧ t.toNat ≤ 0x16)

/-- The mantissa width of a BFP type (R87). -/
def tyBfpBits (t : BitVec 5) : Nat := t.toNat - 14

/-! ## The opcode grid (R58, R61, R72) -/

/-- The layouts of the B field (R56); formats M and E share one layout. -/
inductive Fmt where
  | r | i | me
  deriving DecidableEq, Repr

/-- The format of an opcode, from its family and form slot (R58, R71). -/
def fmtOf (op : BitVec 10) : Fmt :=
  let slot := op.extractLsb' 0 2
  if op.toNat < 0x100 then (if slot.extractLsb' 0 1 = 1#1 then .i else .r)
  else if 0x180 ≤ op.toNat ∧ op.toNat < 0x200 then
    (if slot = 0 ∨ slot = 1 then .me else if slot = 2 then .r else .i)
  else (if slot = 0 then .r else if slot = 1 then .i else .me)

/-- The quad OP[9:2] of an instruction (R72); `add`, `sub`, `mul` and `shl` of a 64-bit type hold a quad of their own
(R61). Events have none. -/
def Instr.quad (i : Instr) : BitVec 8 :=
  match i with
  | .add f => if tyWide f.ty then 55 else 0
  | .sub f => if tyWide f.ty then 56 else 1
  | .mul f => if tyWide f.ty then 57 else 2
  | .mulh _ => 3
  | .mad _ => 4
  | .neg _ => 5
  | .abs _ => 6
  | .min _ => 7
  | .max _ => 8
  | .and _ => 9
  | .or _ => 10
  | .xor _ => 11
  | .andn _ => 12
  | .shl f => if tyWide f.ty then 58 else 13
  | .shr _ => 14
  | .sar _ => 15
  | .clz _ => 16
  | .popc _ => 17
  | .bfx _ => 18
  | .bfi _ => 19
  | .sel _ => 20
  | .setp _ => 21
  | .plop _ => 22
  | .p2v _ => 23
  | .v2p _ => 24
  | .fadd _ => 25
  | .fsub _ => 26
  | .fmul _ => 27
  | .ffma _ => 28
  | .fmin _ => 29
  | .fmax _ => 30
  | .fsetp _ => 31
  | .frcp _ => 32
  | .frsq _ => 33
  | .fsqrt _ => 34
  | .fex2 _ => 35
  | .flg2 _ => 36
  | .frnd _ => 37
  | .fclass _ => 38
  | .cvt _ => 39
  | .hadd2 _ => 40
  | .hmul2 _ => 41
  | .hfma2 _ => 42
  | .hmax2 _ => 43
  | .pack _ => 44
  | .unpk _ => 45
  | .mov _ => 46
  | .vrd _ => 47
  | .rdsp _ => 48
  | .wrsp _ => 49
  | .shfl _ => 50
  | .vote _ => 51
  | .lred _ => 52
  | .lscan _ => 53
  | .match_ _ => 54
  | .bra _ => 64
  | .brx _ => 65
  | .call _ => 66
  | .ret _ => 67
  | .exit _ => 68
  | .pblk _ => 69
  | .nop _ => 70
  | .reform _ => 71
  | .mjoin _ => 72
  | .mleave _ => 73
  | .mwait _ => 74
  | .mpoll _ => 75
  | .mrd _ => 76
  | .bsync _ => 77
  | .barv _ => 78
  | .bwt _ => 79
  | .nbatt _ => 80
  | .nbarv _ => 81
  | .nbwt _ => 82
  | .nbdet _ => 83
  | .twait _ => 84
  | .waddr _ => 85
  | .xacq _ => 86
  | .xrel _ => 87
  | .region _ => 88
  | .ppoint _ => 89
  | .ld _ => 96
  | .st _ => 97
  | .spill _ => 98
  | .fill _ => 99
  | .atom _ => 100
  | .cas _ => 101
  | .red _ => 102
  | .pfence _ => 104
  | .sbwait _ => 105
  | .tsync _ => 106
  | .untaint _ => 107
  | .tfetch _ => 108
  | .tevict _ => 109
  | .mdld _ => 110
  | .mdst _ => 111
  | .cp _ => 128
  | .cpq _ => 129
  | .cpflag _ => 130
  | .cpcommit _ => 131
  | .cpwait _ => 132
  | .cpst _ => 133
  | .scfg _ => 144
  | .mma _ => 145
  | .szero _ => 146
  | .quant _ => 148
  | .bexp _ => 149
  | .swb _ => 150
  | .samax _ => 151
  | .bput _ => 160
  | .bputk _ => 161
  | .bputv _ => 162
  | .bcommit _ => 163
  | .bsquash _ => 164
  | .bcount _ => 165
  | .bdrain _ => 166
  | .bnext _ => 167
  | .bclose _ => 168
  | .bstat _ => 169
  | .xpost _ => 176
  | .xbcast _ => 177
  | .xfence _ => 178
  | .qlaunch _ => 179
  | .brk _ => 184
  | .trap _ => 185
  | .tret _ => 186
  | .phaseRel _ => 103
  | .phaseAcq _ => 103
  | .phaseAr _ => 103
  | .smovIn _ => 147
  | .smovOut _ => 147
  | .issueChoice _ _ => 255
  | .starvationForce _ => 255
  | .maskArrival _ _ => 255
  | .barrierArrival _ _ _ => 255
  | .namedBarrierArrival _ _ => 255
  | .twaitExpiry _ _ => 255
  | .waddrReread _ _ => 255
  | .allocatorGrant _ => 255
  | .compactorMove _ _ _ => 255
  | .clearEngineGranule _ => 255
  | .sifterAgeCapExpiry _ _ => 255
  | .sifterBinDraw _ _ => 255
  | .gangEnd _ => 255
  | .loadPerform _ _ => 255
  | .storeAck _ => 255
  | .translationWalk _ _ _ _ => 255
  | .memoryFaultPark _ => 255
  | .faultRecordPost _ => 255
  | .faultAckRetry _ _ => 255
  | .faultAckDeliver _ _ => 255
  | .faultAckKill _ _ => 255
  | .dbgResume _ _ => 255
  | .traySwitch _ => 255
  | .contextLoad _ _ => 255
  | .backgroundSpill _ => 255
  | .sliceRequest _ _ => 255
  | .tileArrival _ => 255
  | .tileEviction _ => 255
  | .hotTilePromotion _ => 255
  | .hotTileDecay _ => 255
  | .phaseCacheEviction _ _ => 255
  | .hbmRequest _ _ => 255
  | .pageReencrypt _ => 255
  | .scrubLine _ => 255
  | .copyChunk _ _ _ => 255
  | .copyComplete _ _ => 255
  | .mmaHandover _ _ => 255
  | .mmaAccept _ => 255
  | .mmaComplete _ => 255
  | .bagAdmit _ _ => 255
  | .bagPlace _ _ _ _ => 255
  | .bagSettle _ _ _ => 255
  | .bagCut _ _ _ => 255
  | .bagClaim _ _ _ => 255
  | .bagFree _ _ => 255
  | .egressArbitration _ _ => 255
  | .packetAgeSaturation _ => 255
  | .postDelivery _ _ => 255
  | .postAck _ => 255
  | .flitUncorr _ => 255
  | .corruptHeader _ => 255
  | .clusterReset _ => 255
  | .partitionRestitch _ => 255
  | .queueBell _ => 255
  | .queueSlotMap _ => 255
  | .queueExamine _ => 255
  | .clusterInstancePlace _ => 255
  | .launchComplete _ => 255
  | .sliceExpiry _ _ => 255
  | .boot => 255
  | .bootCmdRecover => 255
  | .keyLoad _ => 255
  | .keyErase _ => 255
  | .xlatInv _ => 255
  | .partCmd _ => 255
  | .attestRequest => 255
  | .corePolicyWrite _ _ => 255
  | .frecConfigWrite _ _ => 255
  | .mgmtRegisterWrite _ _ => 255
  | .supplySag _ => 255
  | .supplyRecovery _ => 255
  | .marginReplan => 255
  | .postanLinkDown _ => 255
  | .postanLinkUp _ => 255
  | .reservationBudgetRefill => 255
  | .xlatInvDone _ => 255
  | .fabricPortAccess _ => 255

/-- The form slots of an instruction's quad that the grid assigns (R72), bit `k` for slot `k`; the 64-bit quads hold
slots 2 and 3 alone. -/
def Instr.slots (i : Instr) : BitVec 4 :=
  match i with
  | .add f => if tyWide f.ty then 12 else 15
  | .sub f => if tyWide f.ty then 12 else 15
  | .mul f => if tyWide f.ty then 12 else 15
  | .mulh _ => 15
  | .mad _ => 15
  | .neg _ => 5
  | .abs _ => 5
  | .min _ => 15
  | .max _ => 15
  | .and _ => 15
  | .or _ => 15
  | .xor _ => 15
  | .andn _ => 15
  | .shl f => if tyWide f.ty then 12 else 15
  | .shr _ => 15
  | .sar _ => 15
  | .clz _ => 5
  | .popc _ => 5
  | .bfx _ => 15
  | .bfi _ => 15
  | .sel _ => 15
  | .setp _ => 15
  | .plop _ => 1
  | .p2v _ => 1
  | .v2p _ => 1
  | .fadd _ => 15
  | .fsub _ => 15
  | .fmul _ => 15
  | .ffma _ => 15
  | .fmin _ => 15
  | .fmax _ => 15
  | .fsetp _ => 15
  | .frcp _ => 5
  | .frsq _ => 5
  | .fsqrt _ => 5
  | .fex2 _ => 5
  | .flg2 _ => 5
  | .frnd _ => 5
  | .fclass _ => 5
  | .cvt _ => 5
  | .hadd2 _ => 15
  | .hmul2 _ => 15
  | .hfma2 _ => 15
  | .hmax2 _ => 15
  | .pack _ => 5
  | .unpk _ => 5
  | .mov _ => 15
  | .vrd _ => 12
  | .rdsp _ => 10
  | .wrsp _ => 10
  | .shfl _ => 3
  | .vote _ => 5
  | .lred _ => 5
  | .lscan _ => 1
  | .match_ _ => 1
  | .bra _ => 3
  | .brx _ => 2
  | .call _ => 3
  | .ret _ => 1
  | .exit _ => 1
  | .pblk _ => 2
  | .nop _ => 1
  | .reform _ => 2
  | .mjoin _ => 1
  | .mleave _ => 1
  | .mwait _ => 1
  | .mpoll _ => 1
  | .mrd _ => 1
  | .bsync _ => 3
  | .barv _ => 3
  | .bwt _ => 3
  | .nbatt _ => 3
  | .nbarv _ => 3
  | .nbwt _ => 3
  | .nbdet _ => 3
  | .twait _ => 3
  | .waddr _ => 4
  | .xacq _ => 3
  | .xrel _ => 1
  | .region _ => 1
  | .ppoint _ => 3
  | .ld _ => 3
  | .st _ => 3
  | .spill _ => 3
  | .fill _ => 3
  | .atom _ => 3
  | .cas _ => 3
  | .red _ => 3
  | .pfence _ => 4
  | .sbwait _ => 4
  | .tsync _ => 4
  | .untaint _ => 4
  | .tfetch _ => 3
  | .tevict _ => 3
  | .mdld _ => 3
  | .mdst _ => 3
  | .cp _ => 9
  | .cpq _ => 9
  | .cpflag _ => 3
  | .cpcommit _ => 1
  | .cpwait _ => 3
  | .cpst _ => 1
  | .scfg _ => 3
  | .mma _ => 8
  | .szero _ => 1
  | .quant _ => 3
  | .bexp _ => 1
  | .swb _ => 8
  | .samax _ => 1
  | .bput _ => 12
  | .bputk _ => 12
  | .bputv _ => 12
  | .bcommit _ => 3
  | .bsquash _ => 3
  | .bcount _ => 1
  | .bdrain _ => 1
  | .bnext _ => 3
  | .bclose _ => 1
  | .bstat _ => 3
  | .xpost _ => 12
  | .xbcast _ => 12
  | .xfence _ => 3
  | .qlaunch _ => 9
  | .brk _ => 2
  | .trap _ => 3
  | .tret _ => 1
  | .phaseRel _ => 4
  | .phaseAcq _ => 4
  | .phaseAr _ => 4
  | .smovIn _ => 5
  | .smovOut _ => 5
  | .issueChoice _ _ => 0
  | .starvationForce _ => 0
  | .maskArrival _ _ => 0
  | .barrierArrival _ _ _ => 0
  | .namedBarrierArrival _ _ => 0
  | .twaitExpiry _ _ => 0
  | .waddrReread _ _ => 0
  | .allocatorGrant _ => 0
  | .compactorMove _ _ _ => 0
  | .clearEngineGranule _ => 0
  | .sifterAgeCapExpiry _ _ => 0
  | .sifterBinDraw _ _ => 0
  | .gangEnd _ => 0
  | .loadPerform _ _ => 0
  | .storeAck _ => 0
  | .translationWalk _ _ _ _ => 0
  | .memoryFaultPark _ => 0
  | .faultRecordPost _ => 0
  | .faultAckRetry _ _ => 0
  | .faultAckDeliver _ _ => 0
  | .faultAckKill _ _ => 0
  | .dbgResume _ _ => 0
  | .traySwitch _ => 0
  | .contextLoad _ _ => 0
  | .backgroundSpill _ => 0
  | .sliceRequest _ _ => 0
  | .tileArrival _ => 0
  | .tileEviction _ => 0
  | .hotTilePromotion _ => 0
  | .hotTileDecay _ => 0
  | .phaseCacheEviction _ _ => 0
  | .hbmRequest _ _ => 0
  | .pageReencrypt _ => 0
  | .scrubLine _ => 0
  | .copyChunk _ _ _ => 0
  | .copyComplete _ _ => 0
  | .mmaHandover _ _ => 0
  | .mmaAccept _ => 0
  | .mmaComplete _ => 0
  | .bagAdmit _ _ => 0
  | .bagPlace _ _ _ _ => 0
  | .bagSettle _ _ _ => 0
  | .bagCut _ _ _ => 0
  | .bagClaim _ _ _ => 0
  | .bagFree _ _ => 0
  | .egressArbitration _ _ => 0
  | .packetAgeSaturation _ => 0
  | .postDelivery _ _ => 0
  | .postAck _ => 0
  | .flitUncorr _ => 0
  | .corruptHeader _ => 0
  | .clusterReset _ => 0
  | .partitionRestitch _ => 0
  | .queueBell _ => 0
  | .queueSlotMap _ => 0
  | .queueExamine _ => 0
  | .clusterInstancePlace _ => 0
  | .launchComplete _ => 0
  | .sliceExpiry _ _ => 0
  | .boot => 0
  | .bootCmdRecover => 0
  | .keyLoad _ => 0
  | .keyErase _ => 0
  | .xlatInv _ => 0
  | .partCmd _ => 0
  | .attestRequest => 0
  | .corePolicyWrite _ _ => 0
  | .frecConfigWrite _ _ => 0
  | .mgmtRegisterWrite _ _ => 0
  | .supplySag _ => 0
  | .supplyRecovery _ => 0
  | .marginReplan => 0
  | .postanLinkDown _ => 0
  | .postanLinkUp _ => 0
  | .reservationBudgetRefill => 0
  | .xlatInvDone _ => 0
  | .fabricPortAccess _ => 0

/-- The instruction that a quad and the fields beside it name. The `phase` and `smov` quads are told apart by OPX
(R246, R311). -/
def Instr.ofQuad (q : BitVec 8) (f : Fields) : Option Instr :=
  match q.toNat with
  | 0 => some (.add f)
  | 1 => some (.sub f)
  | 2 => some (.mul f)
  | 3 => some (.mulh f)
  | 4 => some (.mad f)
  | 5 => some (.neg f)
  | 6 => some (.abs f)
  | 7 => some (.min f)
  | 8 => some (.max f)
  | 9 => some (.and f)
  | 10 => some (.or f)
  | 11 => some (.xor f)
  | 12 => some (.andn f)
  | 13 => some (.shl f)
  | 14 => some (.shr f)
  | 15 => some (.sar f)
  | 16 => some (.clz f)
  | 17 => some (.popc f)
  | 18 => some (.bfx f)
  | 19 => some (.bfi f)
  | 20 => some (.sel f)
  | 21 => some (.setp f)
  | 22 => some (.plop f)
  | 23 => some (.p2v f)
  | 24 => some (.v2p f)
  | 25 => some (.fadd f)
  | 26 => some (.fsub f)
  | 27 => some (.fmul f)
  | 28 => some (.ffma f)
  | 29 => some (.fmin f)
  | 30 => some (.fmax f)
  | 31 => some (.fsetp f)
  | 32 => some (.frcp f)
  | 33 => some (.frsq f)
  | 34 => some (.fsqrt f)
  | 35 => some (.fex2 f)
  | 36 => some (.flg2 f)
  | 37 => some (.frnd f)
  | 38 => some (.fclass f)
  | 39 => some (.cvt f)
  | 40 => some (.hadd2 f)
  | 41 => some (.hmul2 f)
  | 42 => some (.hfma2 f)
  | 43 => some (.hmax2 f)
  | 44 => some (.pack f)
  | 45 => some (.unpk f)
  | 46 => some (.mov f)
  | 47 => some (.vrd f)
  | 48 => some (.rdsp f)
  | 49 => some (.wrsp f)
  | 50 => some (.shfl f)
  | 51 => some (.vote f)
  | 52 => some (.lred f)
  | 53 => some (.lscan f)
  | 54 => some (.match_ f)
  | 55 => some (.add f)
  | 56 => some (.sub f)
  | 57 => some (.mul f)
  | 58 => some (.shl f)
  | 64 => some (.bra f)
  | 65 => some (.brx f)
  | 66 => some (.call f)
  | 67 => some (.ret f)
  | 68 => some (.exit f)
  | 69 => some (.pblk f)
  | 70 => some (.nop f)
  | 71 => some (.reform f)
  | 72 => some (.mjoin f)
  | 73 => some (.mleave f)
  | 74 => some (.mwait f)
  | 75 => some (.mpoll f)
  | 76 => some (.mrd f)
  | 77 => some (.bsync f)
  | 78 => some (.barv f)
  | 79 => some (.bwt f)
  | 80 => some (.nbatt f)
  | 81 => some (.nbarv f)
  | 82 => some (.nbwt f)
  | 83 => some (.nbdet f)
  | 84 => some (.twait f)
  | 85 => some (.waddr f)
  | 86 => some (.xacq f)
  | 87 => some (.xrel f)
  | 88 => some (.region f)
  | 89 => some (.ppoint f)
  | 96 => some (.ld f)
  | 97 => some (.st f)
  | 98 => some (.spill f)
  | 99 => some (.fill f)
  | 100 => some (.atom f)
  | 101 => some (.cas f)
  | 102 => some (.red f)
  | 103 => if f.opx = 1 then some (.phaseAcq f) else if f.opx = 2 then some (.phaseAr f) else some (.phaseRel f)
  | 104 => some (.pfence f)
  | 105 => some (.sbwait f)
  | 106 => some (.tsync f)
  | 107 => some (.untaint f)
  | 108 => some (.tfetch f)
  | 109 => some (.tevict f)
  | 110 => some (.mdld f)
  | 111 => some (.mdst f)
  | 128 => some (.cp f)
  | 129 => some (.cpq f)
  | 130 => some (.cpflag f)
  | 131 => some (.cpcommit f)
  | 132 => some (.cpwait f)
  | 133 => some (.cpst f)
  | 144 => some (.scfg f)
  | 145 => some (.mma f)
  | 146 => some (.szero f)
  | 147 => if f.opx.extractLsb' 0 1 = 1#1 then some (.smovOut f) else some (.smovIn f)
  | 148 => some (.quant f)
  | 149 => some (.bexp f)
  | 150 => some (.swb f)
  | 151 => some (.samax f)
  | 160 => some (.bput f)
  | 161 => some (.bputk f)
  | 162 => some (.bputv f)
  | 163 => some (.bcommit f)
  | 164 => some (.bsquash f)
  | 165 => some (.bcount f)
  | 166 => some (.bdrain f)
  | 167 => some (.bnext f)
  | 168 => some (.bclose f)
  | 169 => some (.bstat f)
  | 176 => some (.xpost f)
  | 177 => some (.xbcast f)
  | 178 => some (.xfence f)
  | 179 => some (.qlaunch f)
  | 184 => some (.brk f)
  | 185 => some (.trap f)
  | 186 => some (.tret f)
  | _ => none

/-- The quads of the 64-bit uniform forms (R61). -/
def quadWide (q : BitVec 8) : Bool := q == 55 || q == 56 || q == 57 || q == 58

/-- The slots that a quad assigns whatever its fields hold (R72). -/
def quadSlots (q : BitVec 8) (f : Fields) : BitVec 4 :=
  if quadWide q then 12
  else match Instr.ofQuad q f with
    | some i => match i with
      | .add _ | .sub _ | .mul _ | .shl _ => 15
      | _ => i.slots
    | none => 0


/-! ## What each instruction takes -/

/-- What one operand field may hold, and what the instruction does with it. -/
structure Role where
  /-- An unused field, or one whose content is prescribed, must hold exactly this operand (R55, R249). -/
  fixed : Option Opnd := none
  /-- Classes taken (R59): v registers, `vz` alone, s registers, predicates, mask registers, slabs. -/
  v  : Bool := false
  vz : Bool := false
  s  : Bool := false
  p  : Bool := false
  m  : Bool := false
  q  : Bool := false
  /-- A special register may stand here (R32). -/
  sp : Bool := false
  /-- `pt` may stand here (R54). -/
  pt : Bool := false
  rd : Bool := false
  wr : Bool := false
  /-- How many consecutive registers the field names, and the multiple its index must be (R33, R247). -/
  regs  : Nat := 1
  align : Nat := 1
  /-- The group reads only the registers that exist (R345). -/
  clip : Bool := false
  /-- `vz` is no register of the group (a group that would run past it). -/
  noVz : Bool := false
  deriving DecidableEq, Repr

/-- An unused field (R55). -/
def Role.none : Role := { fixed := some .zero }

/-- What the decode of a word may depend on beside the word (R54, R69, R75, R110): the v registers the gang holds, the
block's slab count, the gang's base registers, and whether a block state of the bundle covers the word. -/
structure DecodeCtx where
  nv      : Nat
  slabs   : Nat
  base    : Nat
  covered : Bool
  deriving DecidableEq, Repr

/-- The context that rejects the least: every register and slab there is, no block state. -/
def DecodeCtx.widest : DecodeCtx := { nv := 255, slabs := 16, base := 64, covered := false }

/-- What an instruction's fields may hold. -/
structure Shape where
  d : Role := Role.none
  a : Role := Role.none
  b : Role := Role.none
  c : Role := Role.none
  /-- Immediate bits that must be zero (R55, R123). -/
  immZero : Word := 0xFFFFFFFF
  /-- Further reserved bits are nonzero. -/
  resBad : Bool := false
  /-- MOD holds only codes the instruction lists (R66). -/
  modOk : Bool
  /-- A class that the fields' own roles do not exclude is wrong. -/
  classBad : Bool := false
  /-- An index that stands in the immediate names no usable register (R54, R73). -/
  idxBad : DecodeCtx → Bool := fun _ => false

/-- The field holds what it must hold. -/
def Role.reservedBad (r : Role) (o : Opnd) : Bool :=
  match r.fixed with
  | some x => o != x
  | .none => false

/-- The field's class is one the form does not take (R59). A mask register and a predicate are told apart by index. -/
def Role.classBad (r : Role) (o : Opnd) : Bool :=
  match r.fixed with
  | some _ => false
  | .none =>
    match o with
    | .v i => !(r.v || (r.vz && i == 255))
    | .s _ => !r.s
    | .p i =>
      if i.toNat ≤ 7 then !r.p
      else if 16 ≤ i.toNat ∧ i.toNat ≤ 27 then !r.m
      else !(r.p || r.m)
    | .q _ => !r.q

/-- The field's index names no register the instruction may use (R54, R247). -/
def Role.indexBad (r : Role) (ctx : DecodeCtx) (o : Opnd) : Bool :=
  match r.fixed with
  | some _ => false
  | .none =>
    match o with
    | .v i =>
      if i = 255 then r.noVz
      else decide (ctx.nv < i.toNat + (if r.clip then 1 else r.regs)) || decide (i.toNat % r.align ≠ 0)
    | .s i =>
      if i.toNat < 64 then
        decide (64 < i.toNat + (if r.clip then 1 else r.regs)) || decide (i.toNat % r.align ≠ 0)
      else !r.sp || r.wr || decide (78 < i.toNat + r.regs) || decide (i.toNat % r.align ≠ 0)
    | .p i =>
      if i.toNat ≤ 6 then false
      else if i.toNat = 7 then !r.pt
      else !(decide (16 ≤ i.toNat ∧ i.toNat ≤ 27))
    | .q i => decide (16 ≤ i.toNat) || decide (ctx.slabs ≤ i.toNat)

/-- The destination of an arithmetic form (R59), `n` registers wide. -/
def roleDst (uni : Bool) (n : Nat) : Role :=
  if uni then { s := true, vz := true, wr := true, regs := n, align := n } else { v := true, wr := true, regs := n, align := n }

/-- A source of an arithmetic form (R59), `n` registers wide. The tables of R147, R149 and R150 write `va` for A of their vector forms;
like every vector form's source it may be an s or a special register here (DESIGN CHOICE, log 103). -/
def roleSrc (uni : Bool) (n : Nat) : Role :=
  if uni then { s := true, vz := true, sp := true, rd := true, regs := n, align := n }
  else { v := true, s := true, sp := true, rd := true, regs := n, align := n }

/-- A predicate destination, p0 to p6. -/
def rolePd : Role := { p := true, wr := true }

/-- A predicate source, p0 to p6 or `pt`. -/
def rolePs : Role := { p := true, pt := true, rd := true }

/-- A mask register (R157). -/
def roleM : Role := { m := true }

/-- A source of class 00 or 01 ("v/s"). -/
def roleVS : Role := { v := true, s := true, sp := true, rd := true }

/-- A source of class 01 with the special registers ("s" in R157). -/
def roleS : Role := { s := true, sp := true, rd := true }

/-- A group of `n` registers of class 01 from a multiple of `n`, where a special register may stand too (R32, R311, R393). -/
def roleSp (n : Nat) : Role := { s := true, sp := true, rd := true, regs := n, align := n }

/-- A source of class 01 without the special registers (R291, R343, R370), `n` registers from a multiple of `al`. -/
def roleSx (n al : Nat) : Role := { s := true, rd := true, regs := n, align := al }

/-- A result of the engines' instructions: an s register or `vz`. -/
def roleSd (n : Nat) : Role := { s := true, vz := true, wr := true, regs := n, align := n }

/-- A result that is an s register and never `vz`. -/
def roleSdx (n : Nat) : Role := { s := true, wr := true, regs := n, align := n }

/-- The shape of layout 1R (R121). -/
def shape1 (f : Fields) (ok : Bool) : Shape :=
  { d := roleDst f.uni 1, a := roleSrc f.uni 1, modOk := ok }

/-- The shape of layouts 2R and 2I (R121); `z` are the immediate bits that must be zero. -/
def shape2 (f : Fields) (n : Nat) (z : Word) (ok : Bool) : Shape :=
  { d := roleDst f.uni n, a := roleSrc f.uni n, b := if f.immForm then Role.none else roleSrc f.uni n,
    immZero := if f.immForm then z else 0xFFFFFFFF, modOk := ok }

/-- The shape of layouts 3R and 3I (R121); in 3I the destination is a source too. -/
def shape3 (f : Fields) (z : Word) (ok : Bool) : Shape :=
  { d := if f.immForm then { roleDst f.uni 1 with rd := true } else roleDst f.uni 1, a := roleSrc f.uni 1,
    b := if f.immForm then Role.none else roleSrc f.uni 1, c := if f.immForm then Role.none else roleSrc f.uni 1,
    immZero := if f.immForm then z else 0xFFFFFFFF, modOk := ok }

/-- A comparison's shape: a predicate destination (R132, R137). -/
def shapeCmp (f : Fields) (ok : Bool) : Shape :=
  { shape2 f 1 0 ok with d := rolePd }

/-- The shape of `add`, `sub` and `mul`, the 64-bit uniform forms included (R127, R133). -/
def shapeAddLike (f : Fields) : Shape :=
  let sat := f.opx == 1 && !tyRaw f.ty
  if tyWide f.ty then shape2 f 2 0 (f.rnd == 0 && (f.opx == 0 || sat))
  else shape2 f 1 0 (tySetA f.ty && f.rnd == 0 && (f.opx == 0 || sat))

/-- No RND and no OPX (R122). -/
def plainMod (f : Fields) : Bool := f.rnd == 0 && f.opx == 0

/-- The immediate of an fp I form: a 16-bit packed pair is whole, an fp32 value is whole (R57, R123). -/
def shapeFp2 (f : Fields) (ok : Bool) : Shape := shape2 f 1 0 ok

/-- Registers that a memory operand of type `t` covers (R247). -/
def mtyRegs (t : BitVec 5) : Nat := if t = tyB64 ∨ t = tyI64 ∨ t = tyN64 then 2 else if t = tyB128 then 4 else 1

/-- The handle's field (R35, R65): an s register when SS names a handle, else zero. The spec does not say whether an undefined SS uses
the field: here it does not, so that a register there is RESERVED before the MOD of R66 (DESIGN CHOICE, log 102). -/
def roleBase (ss : BitVec 3) : Role := if ss = 0 ∨ ss = 1 ∨ ss = 2 then roleS else Role.none

/-- A memory word's shape (R246): `rd` and `wr` say what D does, `data` that C sends data. -/
def shapeMem (f : Fields) (dRd dWr data : Bool) (ok : Bool) : Shape :=
  let uni := f.slot != 0
  let n := mtyRegs f.mty
  let src : Role := roleSrc uni n
  let src1 : Role := roleSrc uni 1
  { d := if dWr then { roleDst uni n with rd := dRd } else Role.none,
    a := roleBase f.ss,
    b := if f.ss = 5 then { fixed := some .vz } else src1,
    c := if data then src else Role.none,
    immZero := 0xFF000000, modOk := ok }

/-- The operations and types of `atom` (R259). -/
def atomOk (opx : BitVec 3) (t : BitVec 5) : Bool :=
  if opx = 0 then t == tyI32 || t == tyN32 || t == tyI64 || t == tyN64 || t == tyF32
  else if opx = 1 ∨ opx = 2 then t == tyI32 || t == tyN32 || t == tyI64 || t == tyN64
  else if opx = 3 ∨ opx = 4 ∨ opx = 5 ∨ opx = 6 then t == tyB32 || t == tyB64
  else t == tyN32 || t == tyN64

/-- The scopes that an atomic takes (R246). -/
def ssAtomic (ss : BitVec 3) : Bool := ss == 1 || ss == 2 || ss == 4

/-- The types and scopes of `ld` and `st` (R246, R248). -/
def ldstOk (f : Fields) (signed : Bool) : Bool :=
  let t := f.mty
  let scp := f.ss == 1 || f.ss == 2
  f.opx == 0 && (f.ss == 0 || f.ss == 3 || scp) &&
    (t == tyB32 || t == tyB64 || (!scp && (t == tyB8 || t == tyB16 || t == tyB128 || (signed && (t == tyI8 || t == tyI16)))))

/-- A control or synchronisation word of format R or I whose operand is register A in R and the immediate in I. -/
def shapeXn (f : Fields) (a : Role) (z : Word) (ok : Bool) : Shape :=
  { a := if f.slot = 0 then a else Role.none, immZero := if f.slot = 0 then 0xFFFFFFFF else z, modOk := ok }

/-- The operations and types of `lred` and `lscan` (R149). -/
def lredOk (f : Fields) : Bool :=
  let t := f.ty
  f.rnd == 0 &&
    (if f.opx = 0 then t == tyI32 || t == tyN32 || t == tyB32
     else if f.opx = 1 ∨ f.opx = 2 then t == tyI32 || t == tyN32
     else if f.opx = 3 ∨ f.opx = 4 then t == tyB32
     else t == tyF32)

/-- The destination and source codes of `cvt` (R141). -/
def cvtSrcTy (opx : BitVec 3) : BitVec 5 :=
  if opx = 0 then tyI32 else if opx = 1 then tyN32 else if opx = 2 then tyF32 else if opx = 3 then tyH16 else tyBF16

def tyInt (t : BitVec 5) : Bool := tySetN t

def cvtOk (f : Fields) : Bool :=
  let t := f.ty
  (tySetN t || t == tyF32 || t == tyH16 || t == tyBF16) && decide (f.opx.toNat ≤ 4) && t != cvtSrcTy f.opx &&
    (!(tyInt t && tyInt (cvtSrcTy f.opx)) || f.rnd == 0 || f.rnd == 1)

/-- The control registers that some register map assigns (R34, R84, R145, R172, R179, R180, R189, R190, R202, R254,
R308, R374), for a block of `slabs` slabs. -/
def spAssigned (n slabs : Nat) : Bool :=
  decide ((0x010 ≤ n ∧ n ≤ 0x018) ∨ n = 0x020 ∨ n = 0x021 ∨ (0x030 ≤ n ∧ n ≤ 0x03B) ∨ (0x040 ≤ n ∧ n ≤ 0x04B) ∨
    (0x050 ≤ n ∧ n < 0x050 + slabs ∧ n ≤ 0x05F) ∨ (0x100 ≤ n ∧ n ≤ 0x102) ∨ n = 0x120)

/-- The control number of `rdsp` and `wrsp` (R145). -/
def Fields.ctlNum (f : Fields) : Nat := (f.imm.extractLsb' 0 12).toNat

/-- The put instructions' shape (R343): `n` status registers, the immediate bits `z` zero. -/
def shapePut (f : Fields) (n : Nat) (z : Word) (bad : DecodeCtx → Bool) : Shape :=
  let vec := f.slot == 2
  { d := if vec then { v := true, wr := true, regs := n, align := n } else roleSdx n,
    a := roleSx 1 1,
    b := if vec then { v := true, rd := true, regs := 16, align := 4, clip := true, noVz := true }
         else { s := true, rd := true, regs := 16, align := 4, clip := true },
    c := if vec then { v := true, s := true, rd := true } else roleSx 1 1,
    immZero := z, modOk := f.mod == 0, idxBad := bad }

/-- The settlements' shape (R343). -/
def shapeSettle (f : Fields) : Shape :=
  { d := roleSd 1, a := roleSx 1 1, b := if f.slot = 0 then roleSx 1 1 else Role.none,
    immZero := if f.slot = 0 then 0xFFFFFFFF else 0xFFFF0000, modOk := f.mod == 0 }

/-- The posts' shape (R370): bits of OPX that the table does not list are reserved (R55), so that RESERVED is raised for them and not
MOD (DESIGN CHOICE, log 140). -/
def shapePost (f : Fields) (z : Word) : Shape :=
  let vec := f.slot == 2
  let n := (f.imm.extractLsb' 0 4).toNat + 1
  { a := roleSx 4 4,
    b := if vec then { v := true, rd := true, regs := n, noVz := decide (1 < n) } else roleSx n 1,
    c := if vec then { v := true, rd := true } else Role.none,
    immZero := z, resBad := f.mod &&& 0x3FE != 0, modOk := true }

/-- A shape that no word has. -/
def Shape.never : Shape := { modOk := false }

/-- What each instruction's fields may hold: the encoding tables of R121 to R157, R246, R291, R311, R343, R370, R393. Where the spec does
not say which of two sub-causes an undefined part raises, this table chooses (DESIGN CHOICE): a `waddr` whose space code is 10 or 11 has
an unused A, so that a register there is RESERVED before MOD (log 102); an OPX bit that a copy instruction does not list is an undefined
MOD value, which R291 and R66 let it be, while one that a post does not list is RESERVED (log 140). -/
def Instr.shape (i : Instr) : Shape :=
  match i with
  | .add f => shapeAddLike f
  | .sub f => shapeAddLike f
  | .mul f => shapeAddLike f
  | .mulh f => shape2 f 1 0 (plainMod f && (f.ty == tyI32 || f.ty == tyN32))
  | .mad f => shape3 f 0 (plainMod f && (f.ty == tyI32 || f.ty == tyN32 || f.ty == tyB32))
  | .neg f => shape1 f (f.rnd == 0 && (f.opx == 0 || f.opx == 1) && (f.ty == tyI8 || f.ty == tyI16 || f.ty == tyI32))
  | .abs f => shape1 f (f.rnd == 0 && (f.opx == 0 || f.opx == 1) && (f.ty == tyI8 || f.ty == tyI16 || f.ty == tyI32))
  | .min f => shape2 f 1 0 (plainMod f && tySetN f.ty)
  | .max f => shape2 f 1 0 (plainMod f && tySetN f.ty)
  | .and f => shape2 f 1 0 (plainMod f && f.ty == tyB32)
  | .or f => shape2 f 1 0 (plainMod f && f.ty == tyB32)
  | .xor f => shape2 f 1 0 (plainMod f && f.ty == tyB32)
  | .andn f => shape2 f 1 0 (plainMod f && f.ty == tyB32)
  | .shl f =>
    if tyWide f.ty then shape2 f 2 0xFFFFFFC0 (plainMod f)
    else shape2 f 1 0xFFFFFFE0 (plainMod f && (f.ty == tyB32 || f.ty == tyI32 || f.ty == tyN32))
  | .shr f => shape2 f 1 0xFFFFFFE0 (plainMod f && (f.ty == tyB32 || f.ty == tyN32))
  | .sar f => shape2 f 1 0xFFFFFFE0 (plainMod f && (f.ty == tyB32 || f.ty == tyI32))
  | .clz f => shape1 f (plainMod f && f.ty == tyB32)
  | .popc f => shape1 f (plainMod f && f.ty == tyB32)
  | .bfx f => shape2 f 1 0xFFFF0000 (plainMod f && (f.ty == tyI32 || f.ty == tyN32))
  | .bfi f => shape3 f 0xFFFF0000 (plainMod f && f.ty == tyB32)
  | .sel f => shape2 f 1 0 (f.rnd == 0 && f.ty == tyB32 && f.opx != 7)
  | .setp f =>
    shapeCmp f (f.rnd == 0 && decide (f.opx.toNat ≤ 5) && (tySetN f.ty || (f.ty == tyB32 && decide (f.opx.toNat ≤ 1))))
  | .plop f =>
    { d := rolePd, a := rolePs, b := if f.opx = 5 then Role.none else rolePs,
      modOk := f.ty == 0 && f.rnd == 0 && decide (f.opx.toNat ≤ 5) }
  | .p2v f => { d := roleDst false 1, a := rolePs, modOk := f.mod == 0 }
  | .v2p f => { d := rolePd, a := roleSrc false 1, modOk := f.mod == 0 }
  | .fadd f => shapeFp2 f (f.ty == tyF32 && f.opx == 0)
  | .fsub f => shapeFp2 f (f.ty == tyF32 && f.opx == 0)
  | .fmul f => shapeFp2 f (f.ty == tyF32 && f.opx == 0)
  | .ffma f => shape3 f 0 (f.ty == tyF32 && f.opx == 0)
  | .fmin f => shapeFp2 f (f.ty == tyF32 && plainMod f)
  | .fmax f => shapeFp2 f (f.ty == tyF32 && plainMod f)
  | .fsetp f => shapeCmp f (f.ty == tyF32 && f.rnd == 0)
  | .frcp f => shape1 f (f.ty == tyF32 && f.opx == 0)
  | .frsq f => shape1 f (f.ty == tyF32 && f.opx == 0)
  | .fsqrt f => shape1 f (f.ty == tyF32 && f.opx == 0)
  | .fex2 f => shape1 f (f.ty == tyF32 && f.opx == 0)
  | .flg2 f => shape1 f (f.ty == tyF32 && f.opx == 0)
  | .frnd f => shape1 f (f.ty == tyF32 && f.opx == 0)
  | .fclass f => shape1 f (plainMod f && (f.ty == tyF32 || f.ty == tyH16 || f.ty == tyBF16))
  | .cvt f => shape1 f (cvtOk f)
  | .hadd2 f => shapeFp2 f ((f.ty == tyH16 || f.ty == tyBF16) && f.opx == 0)
  | .hmul2 f => shapeFp2 f ((f.ty == tyH16 || f.ty == tyBF16) && f.opx == 0)
  | .hfma2 f => shape3 f 0 ((f.ty == tyH16 || f.ty == tyBF16) && f.opx == 0)
  | .hmax2 f => shapeFp2 f ((f.ty == tyH16 || f.ty == tyBF16) && plainMod f)
  | .pack f =>
    { d := roleDst f.uni 1, a := roleSrc f.uni 1, b := roleSrc f.uni 1,
      modOk := (f.ty == tyH16 || f.ty == tyBF16) && f.opx == 0 }
  | .unpk f => shape1 f ((f.ty == tyH16 || f.ty == tyBF16) && f.rnd == 0 && (f.opx == 0 || f.opx == 1))
  | .mov f =>
    { d := roleDst f.uni 1, a := if f.immForm then Role.none else roleSrc f.uni 1,
      immZero := if f.immForm then 0 else 0xFFFFFFFF,
      modOk := plainMod f && (f.ty == tyB32 || f.ty == tyI32 || f.ty == tyN32 || f.ty == tyF32) }
  | .vrd f =>
    if f.immForm then
      { d := roleDst true 1, immZero := 0xFFFFE000, modOk := f.mod == 0,
        idxBad := fun ctx => let n := (f.imm.extractLsb' 0 8).toNat; decide (n ≠ 255 ∧ ctx.nv ≤ n) }
    else { d := roleDst true 1, a := roleSrc true 1, b := roleSrc true 1, modOk := f.mod == 0 }
  -- `vz` may stand for the uniform destination of `rdsp` and the uniform source of `wrsp`, as R59 lets it in every uniform form
  -- (DESIGN CHOICE, log 104)
  | .rdsp f =>
    { d := roleDst f.uni 1, immZero := 0xFFFFF000, modOk := f.mod == 0,
      idxBad := fun ctx => !spAssigned f.ctlNum ctx.slabs || (f.uni && decide (0x0FF < f.ctlNum)) }
  | .wrsp f =>
    { a := roleSrc f.uni 1, immZero := 0xFFFFF000, modOk := f.mod == 0,
      idxBad := fun ctx => !spAssigned f.ctlNum ctx.slabs || (f.uni != decide (f.ctlNum ≤ 0x0FF)) }
  | .shfl f =>
    { d := roleDst false 1, a := roleSrc false 1, b := if f.immForm then Role.none else roleSrc false 1,
      immZero := if f.immForm then 0xFFFFFFE0 else 0xFFFFFFFF,
      modOk := f.ty == tyB32 && f.rnd == 0 && decide (f.opx.toNat ≤ 3) }
  | .vote f =>
    if f.uni then { d := roleDst true 1, modOk := f.ty == 0 && f.rnd == 0 && (f.opx == 2 || f.opx == 3) }
    else { d := if decide (f.opx.toNat ≤ 1) then rolePd else roleDst false 1, a := rolePs,
           modOk := f.ty == 0 && f.rnd == 0 && decide (f.opx.toNat ≤ 3) }
  | .lred f => shape1 f (lredOk f)
  | .lscan f => shape1 f (lredOk f)
  | .match_ f => shape1 f (f.ty == tyB32 && plainMod f)
  | .bra f => shapeXn f roleVS 0 (f.mod == 0)
  | .brx f => { a := roleVS, immZero := 0, modOk := f.mod == 0 }
  | .call f => { shapeXn f roleVS 0 (f.mod == 0) with d := roleDst false 1 }
  | .ret f => { a := roleVS, modOk := f.mod == 0 }
  | .exit f => { modOk := f.mod == 0 }
  | .pblk f =>
    { a := { p := true, m := true, rd := true }, immZero := 0xFFFF00F8,
      resBad := ((f.imm.extractLsb' 8 8).toNat >>> ((f.imm.extractLsb' 0 3).toNat + 1)) != 0,
      modOk := f.mod == 0, idxBad := fun _ => decide (7 ≤ f.a.index) }
  | .nop f => { modOk := f.mod == 0 }
  | .brk f => { immZero := 0xFFFF0000, modOk := f.mod == 0 }
  | .trap f => shapeXn f roleS 0xFFFF0000 (f.mod == 0)
  | .mjoin f => { d := roleM, modOk := f.mod == 0 }
  | .mleave f => { d := roleM, modOk := f.mod == 0 }
  | .mwait f => { d := roleM, modOk := f.mod == 0 }
  | .mpoll f => { d := rolePd, a := roleM, modOk := f.mod &&& 0x3FE == 0 }
  | .mrd f =>
    { d := { v := true, s := true, wr := true }, a := roleM, modOk := f.mod &&& 0x3FC == 0 && f.mod != 3 }
  | .reform f =>
    { a := roleVS, immZero := 0xFFFFFFE0, resBad := decide (16 < (f.imm.extractLsb' 0 5).toNat),
      modOk := f.mod == 0, idxBad := fun ctx => decide (ctx.base < (f.imm.extractLsb' 0 5).toNat) }
  | .bsync f => shapeXn f roleVS 0xFFFFF800 (f.mod &&& 0x3FC == 0)
  | .barv f => shapeXn f roleVS 0xFFFFF800 (f.mod &&& 0x3FC == 0)
  | .bwt f => shapeXn f roleVS 0xFFFFF800 (f.mod &&& 0x3FC == 0)
  | .nbatt f =>
    { a := roleS, b := if f.slot = 0 then roleS else Role.none, immZero := if f.slot = 0 then 0xFFFFFFFF else 0,
      modOk := f.mod == 0 }
  | .nbarv f => shapeXn f roleS 0 (f.mod == 0)
  | .nbwt f => shapeXn f roleS 0 (f.mod == 0)
  | .nbdet f => shapeXn f roleS 0 (f.mod == 0)
  | .twait f => shapeXn f roleVS 0xFFF00000 (f.mod &&& 0x3FE == 0)
  | .waddr f =>
    let space := f.mod.extractLsb' 0 2
    let n := if f.mod.extractLsb' 2 1 = 1#1 then 2 else 1
    { d := { v := n == 1, vz := true, s := true, wr := true, regs := n, align := n }, a := if space = 0 then roleS else Role.none,
      b := roleVS, c := { roleVS with v := n == 1, vz := true, regs := n, align := n }, immZero := 0xFF000000,
      modOk := (space == 0 || space == 1) && decide ((f.mod.extractLsb' 3 3).toNat ≤ 4) && f.mod.extractLsb' 6 4 == 0#4 }
  | .xacq f => shapeXn f roleVS 0xFFFFFFFC (f.mod == 0)
  | .xrel f => { modOk := f.mod == 0 }
  | .region f => { modOk := f.mod &&& 0x3FE == 0 }
  | .ppoint f => shapeXn f roleS 0xFFFF0000 (f.mod == 0)
  | .tret f => { modOk := f.mod == 0 }
  | .ld f => shapeMem f false true false (ldstOk f true)
  | .st f => shapeMem f false false true (ldstOk f false)
  | .spill f =>
    shapeMem f false false true (f.ss == 5 && f.opx == 0 && (f.mty == tyB32 || f.mty == tyB64 || f.mty == tyB128))
  | .fill f =>
    shapeMem f false true false (f.ss == 5 && f.opx == 0 && (f.mty == tyB32 || f.mty == tyB64 || f.mty == tyB128))
  | .atom f => shapeMem f false true true (ssAtomic f.ss && atomOk f.opx f.mty)
  | .cas f => shapeMem f true true true (ssAtomic f.ss && f.opx == 0 && (f.mty == tyB32 || f.mty == tyB64))
  | .red f => shapeMem f false false true (ssAtomic f.ss && decide (f.opx.toNat ≤ 5) && atomOk f.opx f.mty)
  | .phaseRel f => { modOk := f.mod == 0 }
  | .phaseAcq f => { modOk := f.mod == 1 }
  | .phaseAr f => { modOk := f.mod == 2 }
  | .pfence f =>
    { modOk := f.mod.extractLsb' 6 4 != 0#4 && f.mod.extractLsb' 2 4 != 0#4 && f.mod.extractLsb' 0 2 == 0#2 }
  | .sbwait f => { modOk := f.mod == 0 }
  | .tsync f =>
    { a := if f.opx = 1 then Role.none else { v := true, s := true, sp := true, p := true, pt := true, rd := true },
      modOk := f.mod == 0 || f.mod == 1 }
  | .untaint f => { d := { v := true, s := true, p := true, pt := true, wr := true }, modOk := f.mod == 0 }
  | .tfetch f => shapeMem f false false false (f.mod == 0)
  | .tevict f => shapeMem f false false false (f.mod == 0)
  | .mdld f => shapeMem f false true false (f.ss == 0 && f.opx == 0 && (f.mty == tyB32 || f.mty == tyB64))
  | .mdst f => shapeMem f false false true (f.ss == 0 && f.opx == 0 && (f.mty == tyB32 || f.mty == tyB64))
  | .cp f =>
    { d := roleSd 1, a := { roleSx 7 8 with }, b := if f.slot = 0 then Role.none else roleSx 1 1,
      c := if f.slot = 0 then Role.none else roleSx 1 1, immZero := if f.slot = 0 then 0xFFFFFFFF else 0xFFFFF000,
      modOk := f.mod &&& 0x3FC == 0 }
  | .cpq f =>
    { d := roleSd 1, a := { q := true, wr := true }, b := roleSx 4 4,
      immZero := if f.slot = 0 then 0xFFFFFFFF else 0xFF000000, modOk := f.mod &&& 0x3ED == 0 }
  | .cpflag f =>
    { d := roleSx 1 1, a := roleSx 1 1, b := if f.slot = 0 then roleSx 1 1 else Role.none,
      immZero := if f.slot = 0 then 0xFFFFFFFF else 0xFFFC0000, modOk := f.mod == 0 }
  | .cpcommit f => { modOk := f.mod == 0 }
  | .cpwait f => shapeXn f (roleSx 1 1) 0xFFFFFFF0 (f.mod == 0)
  | .cpst f => { d := roleSdx 1, a := roleSx 1 1, modOk := f.mod == 0 }
  | .scfg f =>
    if f.slot = 0 then { d := { q := true, wr := true }, a := roleS, modOk := f.mod == 0 }
    else { d := { q := true, wr := true }, immZero := 0xFFFC00E0,
           modOk := (f.ty == tyF32 || tyBfp f.ty) && f.sco == 0 && f.opx == 0 }
  | .mma f =>
    { d := { q := true, wr := true }, a := { q := true, rd := true },
      b := { v := true, rd := true, regs := 2, align := 2 }, c := { v := true, rd := true, regs := 2, align := 2 },
      immZero := if f.mod.extractLsb' 0 1 = 1#1 then 0xFFFFC080 else 0xFFFFFF80, modOk := f.mod &&& 0x3FC == 0,
      idxBad := fun ctx => decide (ctx.slabs ≤ (f.imm.extractLsb' 0 4).toNat) }
  | .szero f => { d := { q := true, wr := true }, modOk := f.mod == 0 }
  -- in the M form the field of the offset register is prescribed; another register there is RESERVED (DESIGN CHOICE, log 101)
  | .smovIn f =>
    { d := { q := true, wr := true }, a := roleVS, b := if f.slot = 0 then roleS else { fixed := some .vz },
      immZero := if f.slot = 0 then 0xFFFFFFFF else 0xFFFFFFE0, modOk := f.mod &&& 0x3F9 == 0 }
  | .smovOut f =>
    { d := roleDst false 1, a := { q := true, rd := true }, b := if f.slot = 0 then roleS else { fixed := some .vz },
      immZero := if f.slot = 0 then 0xFFFFFFFF else 0xFFFFFFE0, modOk := f.mod &&& 0x3F9 == 1 }
  | .quant f =>
    let toV := match f.d with | .v _ => true | _ => false
    { d := { v := true, q := true, wr := true }, a := { v := true, rd := true },
      b := if f.slot = 0 then roleS else Role.none, c := if f.slot = 0 then { rolePs with rd := false, wr := true } else Role.none,
      immZero := if f.slot = 0 then 0xFFFFFFFF else if toV then 0xFFF8FF00 else 0xFFF80000,
      modOk := tyBfp f.ty && f.sco == 0 && f.opx == 0 }
  | .bexp f =>
    { d := { v := true, s := true, wr := true },
      a := match f.d with | .s _ => roleS | _ => { v := true, rd := true }, modOk := f.mod == 0 }
  | .swb f =>
    { d := roleSd 1, a := { q := true, rd := true }, b := roleSp 4, c := if f.sco = 0 then Role.none else roleSp 2,
      immZero := 0xFF000000, modOk := f.ty == 0 && f.opx.extractLsb' 1 2 == 0#2 }
  | .samax f => { d := { v := true, s := true, wr := true }, a := { q := true, rd := true }, modOk := f.mod == 0 }
  | .bput f => shapePut f 1 0xFFFFFFF8 (fun _ => false)
  | .bputk f =>
    shapePut f 2 0xFFFF00F8 (fun ctx =>
      let n := (f.imm.extractLsb' 8 8).toNat
      match f.c with
      | .v _ => decide (n ≠ 255 ∧ ctx.nv ≤ n)
      | _ => decide (64 ≤ n))
  | .bputv f => shapePut f 1 0xFF0000F8 (fun _ => false)
  | .bcommit f => shapeSettle f
  | .bsquash f => shapeSettle f
  | .bcount f => { d := roleSdx 2, a := roleSx 1 1, modOk := f.mod == 0 }
  | .bdrain f => { d := roleSdx 1, a := roleSx 1 1, modOk := f.mod &&& 0x3FE == 0 }
  | .bnext f =>
    { d := roleSdx 1, a := roleSx 1 1, b := if f.slot = 0 then roleSx 1 1 else Role.none,
      immZero := if f.slot = 0 then 0xFFFFFFFF else 0xFFFC0000, modOk := f.mod &&& 0x3C0 == 0 }
  | .bclose f => { a := roleSx 1 1, modOk := f.mod == 0 }
  | .bstat f =>
    { d := roleSdx 1, a := roleSx 1 1, b := if f.slot = 0 then roleSx 1 1 else Role.none,
      immZero := if f.slot = 0 then 0xFFFFFFFF else 0xFFFFFFF0, modOk := f.mod == 0 }
  | .xpost f => shapePost f 0xFFFFF000
  | .xbcast f => shapePost f 0xFFFFFFF0
  | .xfence f => { shapeXn f (roleSx 1 1) 0xFFFF0000 true with resBad := f.mod != 0 }
  | .qlaunch f =>
    { d := roleSd 1, a := roleSp 1, b := if f.slot = 0 then roleSp 1 else roleSx 32 32, modOk := f.mod == 0 }
  | .issueChoice _ _ => Shape.never
  | .starvationForce _ => Shape.never
  | .maskArrival _ _ => Shape.never
  | .barrierArrival _ _ _ => Shape.never
  | .namedBarrierArrival _ _ => Shape.never
  | .twaitExpiry _ _ => Shape.never
  | .waddrReread _ _ => Shape.never
  | .allocatorGrant _ => Shape.never
  | .compactorMove _ _ _ => Shape.never
  | .clearEngineGranule _ => Shape.never
  | .sifterAgeCapExpiry _ _ => Shape.never
  | .sifterBinDraw _ _ => Shape.never
  | .gangEnd _ => Shape.never
  | .loadPerform _ _ => Shape.never
  | .storeAck _ => Shape.never
  | .translationWalk _ _ _ _ => Shape.never
  | .memoryFaultPark _ => Shape.never
  | .faultRecordPost _ => Shape.never
  | .faultAckRetry _ _ => Shape.never
  | .faultAckDeliver _ _ => Shape.never
  | .faultAckKill _ _ => Shape.never
  | .dbgResume _ _ => Shape.never
  | .traySwitch _ => Shape.never
  | .contextLoad _ _ => Shape.never
  | .backgroundSpill _ => Shape.never
  | .sliceRequest _ _ => Shape.never
  | .tileArrival _ => Shape.never
  | .tileEviction _ => Shape.never
  | .hotTilePromotion _ => Shape.never
  | .hotTileDecay _ => Shape.never
  | .phaseCacheEviction _ _ => Shape.never
  | .hbmRequest _ _ => Shape.never
  | .pageReencrypt _ => Shape.never
  | .scrubLine _ => Shape.never
  | .copyChunk _ _ _ => Shape.never
  | .copyComplete _ _ => Shape.never
  | .mmaHandover _ _ => Shape.never
  | .mmaAccept _ => Shape.never
  | .mmaComplete _ => Shape.never
  | .bagAdmit _ _ => Shape.never
  | .bagPlace _ _ _ _ => Shape.never
  | .bagSettle _ _ _ => Shape.never
  | .bagCut _ _ _ => Shape.never
  | .bagClaim _ _ _ => Shape.never
  | .bagFree _ _ => Shape.never
  | .egressArbitration _ _ => Shape.never
  | .packetAgeSaturation _ => Shape.never
  | .postDelivery _ _ => Shape.never
  | .postAck _ => Shape.never
  | .flitUncorr _ => Shape.never
  | .corruptHeader _ => Shape.never
  | .clusterReset _ => Shape.never
  | .partitionRestitch _ => Shape.never
  | .queueBell _ => Shape.never
  | .queueSlotMap _ => Shape.never
  | .queueExamine _ => Shape.never
  | .clusterInstancePlace _ => Shape.never
  | .launchComplete _ => Shape.never
  | .sliceExpiry _ _ => Shape.never
  | .boot => Shape.never
  | .bootCmdRecover => Shape.never
  | .keyLoad _ => Shape.never
  | .keyErase _ => Shape.never
  | .xlatInv _ => Shape.never
  | .partCmd _ => Shape.never
  | .attestRequest => Shape.never
  | .corePolicyWrite _ _ => Shape.never
  | .frecConfigWrite _ _ => Shape.never
  | .mgmtRegisterWrite _ _ => Shape.never
  | .supplySag _ => Shape.never
  | .supplyRecovery _ => Shape.never
  | .marginReplan => Shape.never
  | .postanLinkDown _ => Shape.never
  | .postanLinkUp _ => Shape.never
  | .reservationBudgetRefill => Shape.never
  | .xlatInvDone _ => Shape.never
  | .fabricPortAccess _ => Shape.never

/-! ## Words that are not instructions (R73) -/

/-- The instructions that may not stand in a `pblk` run (R69). -/
def Instr.blockForbidden (i : Instr) : Bool :=
  match i with
  | .bra _ | .brx _ | .call _ | .ret _ | .pblk _ | .reform _ | .brk _ | .trap _ | .tret _ => true
  | _ => false

/-- GUARD (R53, R67, R69): code 15 anywhere, a guard on `pblk`, a guard on a covered word. -/
def Instr.guardBad (i : Instr) (ctx : DecodeCtx) : Bool :=
  let g := i.fields.guard
  g == 15 || (g != 7 && (ctx.covered || (match i with | .pblk _ => true | _ => false)))

/-- RESERVED (R55): an unused field or immediate bit is not zero. -/
def Instr.reservedBad (i : Instr) : Bool :=
  let f := i.fields
  let sh := i.shape
  sh.d.reservedBad f.d || sh.a.reservedBad f.a || sh.b.reservedBad f.b || sh.c.reservedBad f.c ||
    f.imm &&& sh.immZero != 0 || sh.resBad

/-- CLASS (R59). -/
def Instr.classBad (i : Instr) : Bool :=
  let f := i.fields
  let sh := i.shape
  sh.d.classBad f.d || sh.a.classBad f.a || sh.b.classBad f.b || sh.c.classBad f.c || sh.classBad

/-- INDEX (R54, R67, R110). -/
def Instr.indexBad (i : Instr) (ctx : DecodeCtx) : Bool :=
  let f := i.fields
  let sh := i.shape
  sh.d.indexBad ctx f.d || sh.a.indexBad ctx f.a || sh.b.indexBad ctx f.b || sh.c.indexBad ctx f.c || sh.idxBad ctx

/-- The sub-causes from GUARD on, the lowest code first (R73). -/
def Instr.cause (i : Instr) (ctx : DecodeCtx) : Option SubCause :=
  if i.guardBad ctx then some .guard
  else if i.reservedBad then some .reserved
  else if !i.shape.modOk then some .mod
  else if i.classBad then some .class_
  else if i.indexBad ctx then some .index
  else if ctx.covered && i.blockForbidden then some .block
  else none

/-! ## The decoder -/

/-- OP (R51). -/
def opOf (w : IWord) : BitVec 10 := w.extractLsb' 86 10

/-- The fields of a word whose B field is laid out in format `k` (R51, R56). -/
def fieldsOf (k : Fmt) (w : IWord) : Fields :=
  { guard := w.extractLsb' 82 4
    stall := w.extractLsb' 77 5
    yield := w.extractLsb' 76 1 == 1#1
    slot  := w.extractLsb' 86 2
    mod   := w.extractLsb' 64 10
    d := Opnd.ofBits (w.extractLsb' 54 10)
    a := Opnd.ofBits (w.extractLsb' 44 10)
    b := match k with | .i => .zero | _ => Opnd.ofBits (w.extractLsb' 34 10)
    c := match k with | .i => .zero | _ => Opnd.ofBits (w.extractLsb' 24 10)
    imm := match k with | .i => w.extractLsb' 0 32 | _ => (w.extractLsb' 0 24).setWidth 32 }

/-- Bits that no format uses: 75:74, and in format I 43:32 (R51, R56). -/
def rawReserved (k : Fmt) (w : IWord) : Bool :=
  w.extractLsb' 74 2 != 0#2 || (k == .i && w.extractLsb' 32 12 != 0#12)

/-- The fields with a type of the width that the quad holds (R61), so that the fixed bits of `shl`'s immediate are those
of the quad. -/
def Fields.typedFor (f : Fields) (q : BitVec 8) : Fields :=
  if quadWide q = tyWide f.ty then f
  else { f with mod := ((if quadWide q then tyB64 else tyB32) ++ f.mod.extractLsb' 0 5 : BitVec 10) }

/-- Decodes a word (R73): the instruction, or the sub-cause with the lowest code. A 64-bit quad with another type, or
the other way round, is an undefined MOD value (R61). -/
def decode (ctx : DecodeCtx) (w : IWord) : Except SubCause Instr :=
  let op := opOf w
  let k := fmtOf op
  let f := fieldsOf k w
  let q := op.extractLsb' 2 8
  match Instr.ofQuad q f with
  | none => .error .opcode
  | some i =>
    if (quadSlots q f).getLsbD f.slot.toNat = false then .error .opcode
    else if i.guardBad ctx then .error .guard
    else if rawReserved k w || ((Instr.ofQuad q (f.typedFor q)).elim false Instr.reservedBad) then .error .reserved
    else if i.quad != q then .error .mod
    else match i.cause ctx with
      | some c => .error c
      | none => .ok i

/-- The 96 bits of twelve bytes, the first byte lowest (R2, R40). -/
def wordOfBytes (bs : List Byte) : IWord :=
  bs.foldr (fun b acc => (acc <<< 8) ||| b.setWidth 96) 0

/-- Decodes the instruction at the start of a byte list: the instruction and the bytes after it. -/
def decodeBytes (ctx : DecodeCtx) (bs : List Byte) : Except SubCause (Instr × List Byte) :=
  if bs.length < 12 then .error .fetch
  else match decode ctx (wordOfBytes (bs.take 12)) with
    | .error c => .error c
    | .ok i => .ok (i, bs.drop 12)

/-- The bytes of a table word: `nbits` bits of `w`, the bits above them zero, the least significant byte first. -/
def tableBytes (nbits w : Nat) : List Byte :=
  (List.range 12).map (fun k => BitVec.ofNat 8 ((w % 2 ^ nbits) >>> (8 * k)))

/-- The instruction that the decoder reads from a table word. -/
def decodeTableWord (nbits w : Nat) : Option Instr :=
  match decodeBytes DecodeCtx.widest (tableBytes nbits w) with
  | .ok (i, _) => some i
  | .error _ => none

/-! ## The encoder -/

/-- The 44-bit B field of `f` in format `k` (R56). -/
def bBits (k : Fmt) (f : Fields) : BitVec 44 :=
  match k with
  | .i => (0#12 ++ f.imm : BitVec 44)
  | _ => (f.b.bits ++ f.c.bits ++ f.imm.setWidth 24 : BitVec 44)

/-- The opcode of an instruction: its quad and form slot (R58). -/
def Instr.op (i : Instr) : BitVec 10 := (i.quad ++ i.fields.slot : BitVec 10)

/-- The word of an instruction (R51). -/
def encode (i : Instr) : IWord :=
  let f := i.fields
  (i.op ++ f.guard ++ f.stall ++ BitVec.ofBool f.yield ++ 0#2 ++ f.mod ++ f.d.bits ++ f.a.bits ++ bBits (fmtOf i.op) f : BitVec 96)

/-- The fields stand in their format as the word can hold them: no operand in format I's B, no immediate above 24 bits
in the others (R56). -/
def Instr.fits (i : Instr) : Bool :=
  let f := i.fields
  match fmtOf i.op with
  | .i => f.b == .zero && f.c == .zero
  | _ => f.imm &&& 0xFF000000 == 0

end Sys2Proof
end

