-- ==== Sys2Proof/Machine/Fp.lean ====
section
/-! DEFINITION. Floating-point arithmetic of the FT960: fp32, fp16 and bf16 (R79 to R85), conversions (R89, R138), the
correctly rounded functions (R83), block floating point (R87, R90, R91) and `Fp32Add` (R92). Bits are natural numbers. -/

namespace Sys2Proof.Machine

/-- Arithmetic flags in the bit positions of ARITH.FLAGS (R84): 0 IV, 1 DZ, 2 OF, 3 UF, 4 NX. -/
abbrev Flags := BitVec 5

def flagIV : Flags := 1#5
def flagDZ : Flags := 2#5
def flagOF : Flags := 4#5
def flagUF : Flags := 8#5
def flagNX : Flags := 16#5

/-- A binary format: exponent bits and fraction bits (R79). -/
structure FpFmt where
  ebits : Nat
  mbits : Nat
  deriving DecidableEq, Repr

def fp32 : FpFmt := { ebits := 8, mbits := 23 }
def fp16 : FpFmt := { ebits := 5, mbits := 10 }
def bf16 : FpFmt := { ebits := 8, mbits := 7 }

def FpFmt.bias (f : FpFmt) : Nat := 2 ^ (f.ebits - 1) - 1
/-- The bits of +inf. -/
def FpFmt.infBits (f : FpFmt) : Nat := (2 ^ f.ebits - 1) * 2 ^ f.mbits
/-- The bits of the canonical NaN (R79). -/
def FpFmt.nanBits (f : FpFmt) : Nat := f.infBits + 2 ^ (f.mbits - 1)
/-- The sign bit. -/
def FpFmt.signBit (f : FpFmt) : Nat := 2 ^ (f.ebits + f.mbits)
/-- The exponent of the least subnormal unit, 2^-149 in fp32. -/
def FpFmt.qmin (f : FpFmt) : Int := 1 - (f.bias : Int) - (f.mbits : Int)
def FpFmt.signed (f : FpFmt) (neg : Bool) (mag : Nat) : Nat := if neg then f.signBit + mag else mag

/-- A number read from its format: `fin neg m e` is (-1)^neg · m · 2^e. -/
inductive Fp where
  | nan (sig : Bool)
  | inf (neg : Bool)
  | fin (neg : Bool) (m : Nat) (e : Int)
  deriving DecidableEq, Repr

/-- Reads `bits` in format `f`. -/
def Fp.read (f : FpFmt) (bits : Nat) : Fp :=
  let neg := bits / f.signBit % 2 == 1
  let mag := bits % f.signBit
  let e := mag / 2 ^ f.mbits
  let m := mag % 2 ^ f.mbits
  if mag > f.infBits then .nan (m / 2 ^ (f.mbits - 1) == 0)
  else if mag = f.infBits then .inf neg
  else if e = 0 then .fin neg m f.qmin
  else .fin neg (2 ^ f.mbits + m) (f.qmin + (e : Int) - 1)

def Fp.isNaN : Fp → Bool
  | .nan _ => true
  | _ => false

def Fp.isSNaN : Fp → Bool
  | .nan s => s
  | _ => false

def Fp.isZero : Fp → Bool
  | .fin _ 0 _ => true
  | _ => false

/-- IV when an operand is a signalling NaN (R85). -/
def ivOf (ops : List Fp) : Flags := if ops.any Fp.isSNaN then flagIV else 0

/-- Whether a kept significand goes up by one unit (R81): `odd` its low bit, `c` the discarded part against one half. -/
def roundsUp (rnd : BitVec 2) (neg odd inexact : Bool) (c : Ordering) : Bool :=
  if rnd = 0 then (match c with | .gt => true | .eq => odd | .lt => false)
  else if rnd = 1 then false
  else if rnd = 2 then inexact && neg
  else inexact && !neg

/-- Rounds m · 2^e (plus a positive part below 2^e when `sticky`) to a multiple of 2^q: the multiple, and whether it is inexact. -/
def roundAt (rnd : BitVec 2) (neg : Bool) (m : Nat) (e : Int) (sticky : Bool) (q : Int) : Nat × Bool :=
  if q ≤ e then (m * 2 ^ (e - q).toNat + (if roundsUp rnd neg false sticky .lt then 1 else 0), sticky)
  else
    let sh := (q - e).toNat
    let kept := m / 2 ^ sh
    let rem := m % 2 ^ sh
    let c := match compare (2 * rem) (2 ^ sh) with
      | .eq => if sticky then Ordering.gt else .eq
      | o => o
    let inexact := rem != 0 || sticky
    (if roundsUp rnd neg (kept % 2 == 1) inexact c then kept + 1 else kept, inexact)

/-- `Round(fmt, x, rnd)` of R81 for x = (-1)^neg · (m · 2^e + a part below 2^e when `sticky`), with the flags of R80. -/
def roundFp (f : FpFmt) (rnd : BitVec 2) (neg : Bool) (m : Nat) (e : Int) (sticky : Bool) : Nat × Flags :=
  if m = 0 ∧ sticky = false then (f.signed neg 0, 0)
  else
    let top : Int := (Nat.log2 m : Int) + e
    let qn := top - (f.mbits : Int)
    let q := max qn f.qmin
    let (k, inexact) := roundAt rnd neg m e sticky q
    let bits := (q - f.qmin).toNat * 2 ^ f.mbits + k
    if f.infBits ≤ bits then
      let toInf := rnd == 0 || (rnd == 2 && neg) || (rnd == 3 && !neg)
      (f.signed neg (if toInf then f.infBits else f.infBits - 1), flagOF ||| flagNX)
    else
      let emin := f.qmin + (f.mbits : Int)
      let tiny := decide (top < emin) &&
        !(decide (top = emin - 1) && (roundAt rnd neg m e sticky qn).1 == 2 ^ (f.mbits + 1))
      (f.signed neg bits, (if inexact then flagNX else 0) ||| (if tiny && inexact then flagUF else 0))

/-- The sign of an exact zero sum (R80). -/
def zeroSumNeg (rnd : BitVec 2) (na nb : Bool) : Bool := if na == nb then na else rnd == 2

/-- The sum of two finite numbers, exact, then rounded. -/
def addFin (f : FpFmt) (rnd : BitVec 2) (na : Bool) (ma : Nat) (ea : Int) (nb : Bool) (mb : Nat) (eb : Int) : Nat × Flags :=
  let e := min ea eb
  let x : Int := (ma * 2 ^ (ea - e).toNat : Nat)
  let y : Int := (mb * 2 ^ (eb - e).toNat : Nat)
  let s := (if na then -x else x) + (if nb then -y else y)
  if s = 0 then (f.signed (zeroSumNeg rnd na nb) 0, 0) else roundFp f rnd (decide (s < 0)) s.natAbs e false

/-- The sum of two numbers (R80). -/
def addFp (f : FpFmt) (rnd : BitVec 2) (a b : Fp) : Nat × Flags :=
  match a, b with
  | .nan _, _ | _, .nan _ => (f.nanBits, ivOf [a, b])
  | .inf x, .inf y => if x == y then (f.signed x f.infBits, 0) else (f.nanBits, flagIV)
  | .inf x, _ => (f.signed x f.infBits, 0)
  | _, .inf y => (f.signed y f.infBits, 0)
  | .fin na ma ea, .fin nb mb eb => addFin f rnd na ma ea nb mb eb

/-- The negation of a number that is no NaN; a NaN stays as it is (R136). -/
def Fp.neg : Fp → Fp
  | .nan s => .nan s
  | .inf n => .inf !n
  | .fin n m e => .fin (!n) m e

/-- The product of two numbers (R80). -/
def mulFp (f : FpFmt) (rnd : BitVec 2) (a b : Fp) : Nat × Flags :=
  match a, b with
  | .nan _, _ | _, .nan _ => (f.nanBits, ivOf [a, b])
  | .inf x, .inf y => (f.signed (x != y) f.infBits, 0)
  | .inf x, .fin y m _ => if m = 0 then (f.nanBits, flagIV) else (f.signed (x != y) f.infBits, 0)
  | .fin x m _, .inf y => if m = 0 then (f.nanBits, flagIV) else (f.signed (x != y) f.infBits, 0)
  | .fin na ma ea, .fin nb mb eb => roundFp f rnd (na != nb) (ma * mb) (ea + eb) false

/-- Zero times infinity: invalid whatever the addend (R80). -/
def zeroTimesInf (a b : Fp) : Bool :=
  match a, b with
  | .inf _, .fin _ m _ | .fin _ m _, .inf _ => m == 0
  | _, _ => false

/-- a · b + c, rounded once (R80). -/
def fmaFp (f : FpFmt) (rnd : BitVec 2) (a b c : Fp) : Nat × Flags :=
  if zeroTimesInf a b then (f.nanBits, flagIV)
  else if a.isNaN || b.isNaN || c.isNaN then (f.nanBits, ivOf [a, b, c])
  else
    let prod : Fp := match a, b with
      | .inf x, .inf y | .inf x, .fin y _ _ | .fin x _ _, .inf y => .inf (x != y)
      | .fin x ma ea, .fin y mb eb => .fin (x != y) (ma * mb) (ea + eb)
      | _, _ => .nan false
    addFp f rnd prod c

/-- A key that orders the numbers of a format, -0 below +0 (R82). -/
def orderKey (f : FpFmt) (bits : Nat) : Int :=
  let mag := bits % f.signBit
  if bits / f.signBit % 2 = 1 then -(mag : Int) - 1 else (mag : Int)

/-- minimumNumber and maximumNumber (R82). -/
def minMaxFp (f : FpFmt) (isMax : Bool) (a b : Nat) : Nat × Flags :=
  let x := Fp.read f a
  let y := Fp.read f b
  let r := if x.isNaN && y.isNaN then f.nanBits
    else if x.isNaN then b
    else if y.isNaN then a
    else if decide (orderKey f a < orderKey f b) == isMax then b else a
  (r, ivOf [x, y])

/-- The order of two numbers, -0 equal to +0; `none` when either is a NaN (R137). -/
def cmpFp (f : FpFmt) (a b : Nat) : Option Ordering :=
  let x := Fp.read f a
  let y := Fp.read f b
  if x.isNaN || y.isNaN then none
  else if x.isZero && y.isZero then some .eq
  else some (compare (orderKey f a) (orderKey f b))

/-- The conditions of `fsetp` (R137): the truth of condition `cond`, and whether IV is raised. -/
def fsetpCond (cond : BitVec 3) (a b : Nat) : Bool × Flags :=
  let x := Fp.read fp32 a
  let y := Fp.read fp32 b
  let nan := x.isNaN || y.isNaN
  let o := cmpFp fp32 a b
  let r := match cond.toNat with
    | 0 => o == some .eq
    | 1 => o != some .eq
    | 2 => o == some .lt
    | 3 => o == some .lt || o == some .eq
    | 4 => o == some .gt
    | 5 => o == some .gt || o == some .eq
    | 6 => !nan
    | _ => nan
  let ordered := decide (2 ≤ cond.toNat) && decide (cond.toNat ≤ 5)
  (r, if (ordered && nan) || x.isSNaN || y.isSNaN then flagIV else 0)

/-- The integer square root of x below 4^n. -/
def isqrt : Nat → Nat → Nat → Nat
  | 0, _, r => r
  | n + 1, x, r => isqrt n x (let t := r + 2 ^ n; if t * t ≤ x then t else r)

/-- 1 ÷ a (R83). -/
def rcpFp (rnd : BitVec 2) (a : Fp) : Nat × Flags :=
  match a with
  | .nan s => (fp32.nanBits, if s then flagIV else 0)
  | .inf n => (fp32.signed n 0, 0)
  | .fin n m e =>
    if m = 0 then (fp32.signed n fp32.infBits, flagDZ)
    else
      let k := Nat.log2 m + 64
      roundFp fp32 rnd n (2 ^ k / m) (-e - (k : Int)) (2 ^ k % m != 0)

/-- m · 2^e with an even exponent. -/
def evenExp (m : Nat) (e : Int) : Nat × Int := if e % 2 = 0 then (m, e) else (2 * m, e - 1)

/-- √a (R83). -/
def sqrtFp (rnd : BitVec 2) (a : Fp) : Nat × Flags :=
  match a with
  | .nan s => (fp32.nanBits, if s then flagIV else 0)
  | .inf n => if n then (fp32.nanBits, flagIV) else (fp32.infBits, 0)
  | .fin n m e =>
    if m = 0 then (fp32.signed n 0, 0)
    else if n then (fp32.nanBits, flagIV)
    else
      let (m', e') := evenExp m e
      let x := m' * 2 ^ 80
      let r := isqrt 54 x 0
      roundFp fp32 rnd false r (e' / 2 - 40) (r * r != x)

/-- 1 ÷ √a (R83). -/
def rsqFp (rnd : BitVec 2) (a : Fp) : Nat × Flags :=
  match a with
  | .nan s => (fp32.nanBits, if s then flagIV else 0)
  | .inf n => if n then (fp32.nanBits, flagIV) else (0, 0)
  | .fin n m e =>
    if m = 0 then (fp32.signed n fp32.infBits, flagDZ)
    else if n then (fp32.nanBits, flagIV)
    else
      let (m', e') := evenExp m e
      let r := isqrt 82 (2 ^ 160 / m') 0
      roundFp fp32 rnd false r (-(e' / 2) - 80) (r * r * m' != 2 ^ 160)

/-- The fixed-point unit of the series below, 2^256. -/
def fixUnit : Nat := 2 ^ 256

/-- floor(ln 2 · 2^256). -/
def ln2Fix : Nat := 80260960185991308862233904206310070533990667611589946606122867505419956976171

/-- Adds `n` terms of the series of exp(y / 2^256), `k` the next divisor and `t` the last term, in units of 2^-256. -/
def expSeries : Nat → Nat → Nat → Nat → Nat → Nat
  | 0, _, _, _, acc => acc
  | n + 1, y, k, t, acc => let t' := t * y / fixUnit / k; expSeries n y (k + 1) t' (acc + t')

/-- Adds `n` terms of the series of atanh(z / 2^256): `p` is z to the power `k`. -/
def atanhSeries : Nat → Nat → Nat → Nat → Nat → Nat
  | 0, _, _, _, acc => acc
  | n + 1, z2, k, p, acc => atanhSeries n z2 (k + 2) (p * z2 / fixUnit) (acc + p / k)

/-- 2^a (R83). 2^a is a dyadic number only for an integer a; for any other the discarded part is never zero. -/
def ex2Fp (rnd : BitVec 2) (a : Fp) : Nat × Flags :=
  match a with
  | .nan s => (fp32.nanBits, if s then flagIV else 0)
  | .inf n => (if n then 0 else fp32.infBits, 0)
  | .fin n m e =>
    if m = 0 then roundFp fp32 rnd false 1 0 false
    else if 11 ≤ (Nat.log2 m : Int) + e then roundFp fp32 rnd false 1 (if n then -2000 else 2000) true
    else
      -- a in units of 2^-256, exact: every fp32 value is a multiple of 2^-149
      let mag : Int := (m * 2 ^ (e + 256).toNat : Nat)
      let x := if n then -mag else mag
      let k := x / (fixUnit : Int)
      let fr := (x % (fixUnit : Int)).toNat
      if fr = 0 then roundFp fp32 rnd false 1 k false
      else
        let y := fr * ln2Fix / fixUnit
        let s := expSeries 70 y 1 fixUnit fixUnit
        roundFp fp32 rnd false (s / 2 ^ 192) (k - 64) true

/-- log2 a (R83). log2 of a dyadic number is rational only for a power of two. -/
def lg2Fp (rnd : BitVec 2) (a : Fp) : Nat × Flags :=
  match a with
  | .nan s => (fp32.nanBits, if s then flagIV else 0)
  | .inf n => if n then (fp32.nanBits, flagIV) else (fp32.infBits, 0)
  | .fin n m e =>
    if m = 0 then (fp32.signed true fp32.infBits, flagDZ)
    else if n then (fp32.nanBits, flagIV)
    else
      let l := Nat.log2 m
      let k : Int := e + (l : Int)
      if m = 2 ^ l then roundFp fp32 rnd (decide (k < 0)) k.natAbs 0 false
      else
        let z := (m - 2 ^ l) * fixUnit / (m + 2 ^ l)
        let ln := 2 * atanhSeries 90 (z * z / fixUnit) 1 z 0
        let g := ln * fixUnit / ln2Fix
        let v : Int := k * (fixUnit : Int) + (g : Int)
        roundFp fp32 rnd (decide (v < 0)) (v.natAbs / 2 ^ 100) (-156) true

/-- The integer that rounding (-1)^neg · m · 2^e under `rnd` gives, and whether it is inexact (R89). -/
def roundInt (rnd : BitVec 2) (neg : Bool) (m : Nat) (e : Int) : Int × Bool :=
  let (k, inexact) := roundAt rnd neg m e false 0
  (if neg then -(k : Int) else (k : Int), inexact)

/-- `frnd` (R138). -/
def rndFp (rnd : BitVec 2) (bits : Nat) : Nat × Flags :=
  match Fp.read fp32 bits with
  | .nan s => (fp32.nanBits, if s then flagIV else 0)
  | .inf n => (fp32.signed n fp32.infBits, 0)
  | .fin n m e =>
    let (k, _) := roundAt rnd n m e false 0
    ((roundFp fp32 rnd n k 0 false).1, 0)

/-- A number of format `f` rounded into format `g` (R89). -/
def convFp (f g : FpFmt) (rnd : BitVec 2) (bits : Nat) : Nat × Flags :=
  match Fp.read f bits with
  | .nan s => (g.nanBits, if s then flagIV else 0)
  | .inf n => (g.signed n g.infBits, 0)
  | .fin n m e => roundFp g rnd n m e false

/-- An integer rounded into a float format (R89). -/
def intToFp (g : FpFmt) (rnd : BitVec 2) (x : Int) : Nat × Flags := roundFp g rnd (decide (x < 0)) x.natAbs 0 false

/-- A float converted to an integer between `lo` and `hi` (R89). -/
def fpToInt (f : FpFmt) (rnd : BitVec 2) (lo hi : Int) (bits : Nat) : Int × Flags :=
  match Fp.read f bits with
  | .nan _ => (0, flagIV)
  | .inf n => (if n then lo else hi, flagIV)
  | .fin n m e =>
    let (k, inexact) := roundInt rnd n m e
    if k < lo then (lo, flagIV)
    else if hi < k then (hi, flagIV)
    else (k, if inexact then flagNX else 0)

/-- The class bit of a float (R139). -/
def fclassOf (f : FpFmt) (bits : Nat) : Word :=
  let mag := bits % f.signBit
  let neg := bits / f.signBit % 2 == 1
  let b : Nat :=
    if mag > f.infBits then (if (Fp.read f bits).isSNaN then 0 else 1)
    else if mag = f.infBits then (if neg then 2 else 9)
    else if mag = 0 then (if neg then 5 else 6)
    else if mag < 2 ^ f.mbits then (if neg then 4 else 7)
    else (if neg then 3 else 8)
  1#32 <<< b

/-- `Fp32Add` (R92): rounded to nearest even, no flags. -/
def fp32Add (a b : Word) : Word :=
  BitVec.ofNat 32 (addFp fp32 0 (Fp.read fp32 a.toNat) (Fp.read fp32 b.toNat)).1

/-- `Quantise` (R90): the mantissa in `w` bits and the NaN flag. -/
def quantise (x : Word) (ex w : Nat) : Int × Bool :=
  let hi : Int := 2 ^ (w - 1) - 1
  let lo : Int := -(2 ^ (w - 1))
  match Fp.read fp32 x.toNat with
  | .nan _ => (0, true)
  | .inf n => if ex = 0xFF then (0, true) else (if n then lo else hi, false)
  | .fin n m e =>
    if ex = 0xFF then (0, true)
    else
      let k := (roundInt 0 n m (e + ((w : Int) - 1) - ((ex : Int) - 127))).1
      (max lo (min hi k), false)

/-- `BlockExp` (R91), 0xFF for a NaN (word 1 of R331). -/
def blockExp (a : Word) : Word :=
  match Fp.read fp32 a.toNat with
  | .nan _ => 0xFF#32
  | .inf _ => 254#32
  | .fin _ m e =>
    if m = 0 then 0
    else BitVec.ofNat 32 (max 0 (min 254 ((Nat.log2 m : Int) + e + 128))).toNat

end Sys2Proof.Machine
end

