-- ==== Sys2Proof/Machine/Alu.lean ====
section
/-! DEFINITION. What the arithmetic instructions compute for one thread (R77, R78, R127 to R143): a function from the raw
register values of the sources, 32 bits in the low half or a 64-bit pair, to the raw result and the flags it raises. -/

namespace Sys2Proof.Machine

/-- One thread's computation: sources a, b, c to the result and the flags. -/
abbrev AluFn := BitVec 64 → BitVec 64 → BitVec 64 → BitVec 64 × Flags

/-- The low `w` bits of a raw value as an integer, signed or not (R77). -/
def intOf (signed : Bool) (w : Nat) (x : BitVec 64) : Int :=
  let n := x.toNat % 2 ^ w
  if signed && decide (2 ^ (w - 1) ≤ n) then (n : Int) - 2 ^ w else (n : Int)

/-- `ReadInt` (R128). -/
def readInt (t : BitVec 5) (x : BitVec 64) : Int := intOf (tySigned t) (tyBits t) x

/-- `Lo` and `Hi` (R78). -/
def tyLo (t : BitVec 5) : Int := if tySigned t then -(2 ^ (tyBits t - 1)) else 0
def tyHi (t : BitVec 5) : Int := if tySigned t then 2 ^ (tyBits t - 1) - 1 else 2 ^ tyBits t - 1

/-- `Clamp` (R78). -/
def clampInt (lo hi x : Int) : Int := max lo (min hi x)

/-- x modulo 2^w, extended to the register (R77, R128). -/
def writeInt (t : BitVec 5) (x : Int) : BitVec 64 :=
  let w := tyBits t
  let n := (x % 2 ^ w).toNat
  let y := BitVec.ofInt 64 (intOf (tySigned t) w (BitVec.ofNat 64 n))
  if w = 64 then y else y &&& 0xFFFFFFFF#64

/-- An integer operation `x` of type `t`, saturating when OPX says so (R128). -/
def intAlu (t : BitVec 5) (sat : Bool) (x : Int → Int → Int → Int) : AluFn := fun a b c =>
  let r := x (readInt t a) (readInt t b) (readInt t c)
  (writeInt t (if sat then clampInt (tyLo t) (tyHi t) r else r), 0)

/-- A bitwise operation on 32 bits (R127). -/
def bitAlu (g : Word → Word → Word) : AluFn := fun a b _ =>
  ((g (a.setWidth 32) (b.setWidth 32)).setWidth 64, 0)

/-- The shift count (R129, R61). -/
def shiftCount (t : BitVec 5) (b : BitVec 64) : Nat := b.toNat % (if tyWide t then 64 else 32)

/-- Leading zero bits (R127). -/
def clz32 (a : Word) : Nat := if a = 0 then 32 else 31 - Nat.log2 a.toNat

/-- One bits (R127). -/
def popc32 (a : Word) : Nat := ((List.range 32).filter (fun i => a.getLsbD i)).length

/-- Position and length of a control word (R130). -/
def bfCtl (x : BitVec 64) : Nat × Nat := (min 32 (x.toNat % 256), min 32 (x.toNat / 256 % 256))

/-- `Bfx` (R130). -/
def bfxFn (t : BitVec 5) (a ctl : BitVec 64) : BitVec 64 :=
  let (pos, len) := bfCtl ctl
  let a64 := if t = tyI32 then (a.setWidth 32).signExtend 64 else (a.setWidth 32).setWidth 64
  let fl := (a64.toNat / 2 ^ pos) % 2 ^ len
  if t = tyI32 ∧ 0 < len then (BitVec.ofInt 32 (intOf true len (BitVec.ofNat 64 fl))).setWidth 64
  else BitVec.ofNat 64 fl

/-- `Bfi` (R130). -/
def bfiFn (ins base ctl : BitVec 64) : BitVec 64 :=
  let (pos, len) := bfCtl ctl
  let m := BitVec.ofNat 32 ((2 ^ len - 1) * 2 ^ pos)
  let v := BitVec.ofNat 32 (ins.toNat % 2 ^ 32 * 2 ^ pos)
  (((base.setWidth 32) &&& ~~~m) ||| (v &&& m)).setWidth 64

/-- The conditions of `setp` (R132). -/
def setpCond (cond : BitVec 3) (a b : Int) : Bool :=
  match cond.toNat with
  | 0 => decide (a = b)
  | 1 => decide (a ≠ b)
  | 2 => decide (a < b)
  | 3 => decide (a ≤ b)
  | 4 => decide (b < a)
  | _ => decide (b ≤ a)

/-- A truth value as a predicate bit. -/
def boolBits (b : Bool) : BitVec 64 := if b then 1 else 0

/-- The operations of `plop` (R134). -/
def plopFn (opx : BitVec 3) (a b : Bool) : Bool :=
  match opx.toNat with
  | 0 => a && b
  | 1 => a || b
  | 2 => a != b
  | 3 => a && !b
  | 4 => !(a && b)
  | _ => a

/-- The low 32 bits as a float in format fp32. -/
def fp (x : BitVec 64) : Fp := Fp.read fp32 (x.toNat % 2 ^ 32)

def fpRes (r : Nat × Flags) : BitVec 64 × Flags := (BitVec.ofNat 64 r.1, r.2)

/-- The packed format of a 16-bit type (R140). -/
def halfFmt (t : BitVec 5) : FpFmt := if t = tyH16 then fp16 else bf16

/-- Element `e` of a packed pair (R79). -/
def halfOf (e : Nat) (x : BitVec 64) : Nat := x.toNat / 2 ^ (16 * e) % 2 ^ 16

/-- A packed operation: each element on its own, the flags of both (R140). -/
def packedAlu (t : BitVec 5) (g : FpFmt → Nat → Nat → Nat → Nat × Flags) : AluFn := fun a b c =>
  let r := fun e => g (halfFmt t) (halfOf e a) (halfOf e b) (halfOf e c)
  (BitVec.ofNat 64 ((r 0).1 + 2 ^ 16 * (r 1).1), (r 0).2 ||| (r 1).2)

/-- The float format of a type, if it is one. -/
def fmtOfTy (t : BitVec 5) : Option FpFmt :=
  if t = tyF32 then some fp32 else if t = tyH16 then some fp16 else if t = tyBF16 then some bf16 else none

/-- `cvt` (R89, R141). -/
def cvtFn (dst src : BitVec 5) (rnd : BitVec 2) (a : BitVec 64) : BitVec 64 × Flags :=
  match fmtOfTy src, fmtOfTy dst with
  | some f, some g =>
    -- fp16 and bf16 widen exactly to fp32 first, so one rounding decides (R89)
    fpRes (convFp f g rnd (a.toNat % (2 * f.signBit)))
  | some f, none =>
    let r := fpToInt f rnd (tyLo dst) (tyHi dst) (a.toNat % (2 * f.signBit))
    (writeInt dst r.1, r.2)
  | none, some g => fpRes (intToFp g rnd (readInt src a))
  | none, none =>
    let x := readInt src a
    (writeInt dst (if rnd = 1 then clampInt (tyLo dst) (tyHi dst) x else x), 0)

/-- `pack` (R142). -/
def packFn (t : BitVec 5) (rnd : BitVec 2) : AluFn := fun a b _ =>
  let lo := convFp fp32 (halfFmt t) rnd (a.toNat % 2 ^ 32)
  let hi := convFp fp32 (halfFmt t) rnd (b.toNat % 2 ^ 32)
  (BitVec.ofNat 64 (lo.1 + 2 ^ 16 * hi.1), lo.2 ||| hi.2)

/-- `unpk` (R142). -/
def unpkFn (t : BitVec 5) (opx : BitVec 3) (a : BitVec 64) : BitVec 64 × Flags :=
  fpRes (convFp (halfFmt t) fp32 0 (halfOf opx.toNat a))

/-- `fclass` (R139). -/
def fclassFn (t : BitVec 5) (a : BitVec 64) : BitVec 64 :=
  let f := (fmtOfTy t).getD fp32
  (fclassOf f (a.toNat % (2 * f.signBit))).setWidth 64

/-- The fold step of `lred` and `lscan` (R149): the operation of OPX on the values so far and the next one. -/
def foldStep (opx : BitVec 3) (t : BitVec 5) (x y : Word) : Word × Flags :=
  let sg := tySigned t
  let le := if sg then decide (x.toInt ≤ y.toInt) else decide (x.toNat ≤ y.toNat)
  match opx.toNat with
  | 0 => (x + y, 0)
  | 1 => (if le then x else y, 0)
  | 2 => (if le then y else x, 0)
  | 3 => (x &&& y, 0)
  | 4 => (x ||| y, 0)
  | 5 => let r := addFp fp32 0 (Fp.read fp32 x.toNat) (Fp.read fp32 y.toNat); (BitVec.ofNat 32 r.1, r.2)
  | 6 => let r := minMaxFp fp32 false x.toNat y.toNat; (BitVec.ofNat 32 r.1, r.2)
  | _ => let r := minMaxFp fp32 true x.toNat y.toNat; (BitVec.ofNat 32 r.1, r.2)

end Sys2Proof.Machine
end

