-- ==== Sys2Proof/WellFormed.lean ====
section
/-! DEFINITION. The well-formed instructions: those that some word holds and that R73 does not reject in the widest context. -/

namespace Sys2Proof

/-- The instruction stands in a word (an event does not), its form slot is assigned (R72), its fields fit their format
(R56), and no condition of R73 rejects it when every register and slab is there and no block state covers it. -/
def Instr.wellFormed (i : Instr) : Bool :=
  i.isWord && i.slots.getLsbD i.fields.slot.toNat && i.fits && (i.cause DecodeCtx.widest).isNone

/-- `Instr.wellFormed` as a proposition. -/
abbrev WellFormed (i : Instr) : Prop := i.wellFormed = true

end Sys2Proof
end

