-- ==== Sys2Proof/Machine/Maps.lean ====
section
/-! DEFINITION. Operations on the sparse maps of the state: canonical `Sparse` maps and byte memory (strictly rising keys,
no entry equal to zero) and keyed record maps (strictly rising keys). -/

namespace Sys2Proof.Machine

/-- The value at key `k`; zero where nothing is listed. -/
def sget {w : Nat} (m : Sparse w) (k : Nat) : BitVec w :=
  match m with
  | [] => 0
  | (a, x) :: rest => if a = k then x else sget rest k

/-- Lists key `k` with `x` at its place. -/
def sput {w : Nat} (m : Sparse w) (k : Nat) (x : BitVec w) : Sparse w :=
  match m with
  | [] => [(k, x)]
  | (a, y) :: rest =>
    if k < a then (k, x) :: (a, y) :: rest
    else if k = a then (k, x) :: rest
    else (a, y) :: sput rest k x

/-- Sets key `k` to `x`; a zero is not listed. -/
def sset {w : Nat} (m : Sparse w) (k : Nat) (x : BitVec w) : Sparse w :=
  if x = 0 then m.filter (fun kv => kv.1 != k) else sput m k x

/-- The canonical form: keys strictly rise from `lo`, and no value is zero. -/
def sfrom {w : Nat} (lo : Nat) (m : Sparse w) : Bool :=
  match m with
  | [] => true
  | (a, x) :: rest => decide (lo ≤ a) && x != 0 && sfrom (a + 1) rest

/-- A sparse map in canonical form. -/
def swf {w : Nat} (m : Sparse w) : Bool := sfrom 0 m

/-- Memory in canonical form. -/
abbrev Memory.wf (m : Memory) : Bool := swf (w := 8) m

/-- Keeps the entries whose key is in [lo, hi). -/
def skeep {w : Nat} (m : Sparse w) (p : Nat → Bool) : Sparse w := m.filter (fun kv => p kv.1)

/-- The record at key `k`, or the default. -/
def kget {α : Type} [Inhabited α] (m : KMap α) (k : Nat) : α :=
  match m with
  | [] => default
  | (a, x) :: rest => if a = k then x else if k < a then default else kget rest k

/-- The record at key `k`, if one is listed. -/
def kfind {α : Type} (m : KMap α) (k : Nat) : Option α :=
  match m with
  | [] => none
  | (a, x) :: rest => if a = k then some x else if k < a then none else kfind rest k

/-- Sets the record at key `k`. -/
def kset {α : Type} (m : KMap α) (k : Nat) (x : α) : KMap α :=
  match m with
  | [] => [(k, x)]
  | (a, y) :: rest =>
    if k < a then (k, x) :: (a, y) :: rest
    else if k = a then (k, x) :: rest
    else (a, y) :: kset rest k x

/-- Changes the record at key `k`. -/
def kmod {α : Type} [Inhabited α] (m : KMap α) (k : Nat) (g : α → α) : KMap α := kset m k (g (kget m k))

/-- Removes the record at key `k`. -/
def kdel {α : Type} (m : KMap α) (k : Nat) : KMap α := m.filter (fun kv => kv.1 != k)

/-- Changes every record. -/
def kmap {α : Type} (m : KMap α) (g : α → α) : KMap α := m.map (fun kv => (kv.1, g kv.2))

/-- The byte at address `a` (R2). -/
def memByte (m : Memory) (a : Nat) : Byte := sget (w := 8) m a

/-- Stores a byte. -/
def memSet (m : Memory) (a : Nat) (b : Byte) : Memory := sset (w := 8) m a b

/-- The little-endian number of the `n` bytes at `a` (R2). -/
def memRead (m : Memory) (a : Nat) : Nat → Nat
  | 0 => 0
  | n + 1 => (memByte m a).toNat + 256 * memRead m (a + 1) n

/-- Stores the low `n` bytes of `x` at `a`, little-endian (R2). -/
def memWrite (m : Memory) (a : Nat) : Nat → Nat → Memory
  | 0, _ => m
  | n + 1, x => memWrite (memSet m a (BitVec.ofNat 8 x)) (a + 1) n (x / 256)

/-- The lanes of a set, in ascending order. -/
def lanesOf (m : Lanes) : List Nat := (List.range 32).filter (fun i => m.getLsbD i)

/-- The set of one lane. -/
def laneBit (i : Nat) : Lanes := if i < 32 then 1#32 <<< i else 0

/-- The set of a list of lanes. -/
def lanesFrom (l : List Nat) : Lanes := l.foldl (fun m i => m ||| laneBit i) 0

/-- The lowest lane of a set, or 0. -/
def lowLane (m : Lanes) : Nat := (lanesOf m).headD 0

end Sys2Proof.Machine
end

