-- ==== Sys2Proof/Machine/State.lean ====
section
/-! DEFINITION. The state of the FT960: every piece of state that the spec gives the machine, as plain data. -/

namespace Sys2Proof.Machine

/-- Why the machine stops with a fault. -/
inductive Fault where
  /-- Raised by the memory operations: an access to a device physical address on which no stack lies (stacks 0 to 11 of
  48 GiB each, R13, R231). Safe: the machine stops where the spec gives nothing. -/
  | noSuchAddress
  deriving DecidableEq, Repr, Inhabited

/-- Why the machine refuses a step. -/
inductive Refusal where
  /-- Raised by exec's arm of an instruction that has no meaning yet. Safe: nothing is said of what follows. -/
  | notModelled (mnemonic : String)
  deriving DecidableEq, Repr, Inhabited

/-! ## The thread engine (chapters 05 to 09) -/

/-- The access paths (R17). -/
inductive Path where
  | t | c | b | x
  deriving DecidableEq, Repr, Inhabited

/-- A byte's place: main memory by device physical address (stack in bits 39:36, R231), the host's memory by host
physical address, or a block's block memory by block offset. -/
inductive Loc where
  | hbm (pa : Nat)
  | host (pa : Nat)
  | blk (block off : Nat)
  deriving DecidableEq, Repr, Inhabited

/-- Thread states (R95). -/
inductive TState where
  | vacant | ready | waiting | parked | filed | exited
  deriving DecidableEq, Repr, Inhabited

/-- Block state of a `pblk` run (R68, R70): the positions left, the pattern from the next position on, the snapshot and its taint. -/
structure Blk where
  left  : Nat
  pat   : BitVec 8
  b     : Bool
  taint : Taint
  deriving DecidableEq, Repr, Inhabited

/-- A `waddr` in progress (R175): what it watches, the condition and comparand, where the value goes. -/
structure WaddrWait where
  loc    : Loc
  wide   : Bool
  cond   : BitVec 3
  cmp    : BitVec 64
  dst    : Opnd
  /-- The load record that its value completes. -/
  load   : Nat
  /-- It holds or shares a monitor entry (R176); without one it re-reads every 128 cycles. -/
  entry  : Bool
  next   : Nat
  /-- A read of it is under way, and has not been performed. -/
  fresh  : Bool
  /-- What a record of that read would hold (R205), and the key slot. -/
  handle : Nat
  off    : Nat
  key    : Nat
  deriving DecidableEq, Repr, Inhabited

/-- What a waiting thread waits for (R95, R202 KIND). -/
inductive Wait where
  | none
  /-- `mwait` on m register `m`; its arrival may still wait for R158. -/
  | mask (m : Nat)
  /-- `bsync` or `bwt` on barrier `b`, generation `gen`; `part` above 0 is a partial wait (R166). -/
  | bar (b gen part : Nat)
  /-- `nbwt` on the named barrier of record `id`, generation `gen` (R170). -/
  | named (id gen : Nat)
  /-- `twait` until cycle `wake`; `acq` above 0 names the bundle whose last thread to wake performs `phase.acq` (R174). -/
  | sleep (wake acq : Nat)
  | waddr (w : WaddrWait)
  | xacq
  /-- `reform` awaiting a bin: registers carried, next PC, and the order of filing (R111). -/
  | reform (n : Nat) (target : Word) (order : Nat)
  /-- A completion wait (R204), the held bundle says which. -/
  | comp
  deriving DecidableEq, Repr, Inhabited

/-- One thread place of a gang (R95, R202). -/
structure Thread where
  st        : TState
  pc        : Word
  wait      : Wait
  blk       : Option Blk
  tid       : Word
  /-- REGION.ENTRY (R179), none for 0xFFFF_FFFF, and the block state recorded with it. -/
  region    : Option Word
  regionBlk : Option Blk
  /-- Pending block-barrier arrivals: barrier and generation (R165, R166). -/
  pend      : List (Nat × Nat)
  /-- THREAD.PC, THREAD.WAIT, THREAD.PRED and the saved block state (R200, R202). -/
  savedPc   : Word
  savedWait : Wait
  savedP    : BitVec 7
  savedBlk  : Option Blk
  /-- The thread takes part in the handler (R200). -/
  inTrap    : Bool
  /-- A long operation's fault parks the thread at its next issue boundary (R210), or has parked it; where RETRY came first, the point at
  which it restarts there. -/
  longPark  : Bool
  longRe    : Option (Word × Option Blk)
  deriving DecidableEq, Repr, Inhabited

/-- The registers of a gang: `v` keyed 32 · register + lane, `s` keyed by register, `p` one lane set per predicate. -/
structure Regs where
  v : Sparse 32
  s : Sparse 32
  p : Sparse 32
  deriving DecidableEq, Repr, Inhabited

/-- An outstanding register write (R186, R187): `done` is the cycle at which it ends, none while an engine holds it. A
fixed-latency write keeps the old values for readers that come too early (R188). -/
structure Pend where
  reg   : Nat
  done  : Option Nat
  /-- The access or command that clears it, where an engine holds it. -/
  id    : Nat
  fixed : Bool
  old   : List (Nat × Word)
  deriving DecidableEq, Repr, Inhabited

/-- What a held bundle waits for (R204, R251, R264, R290, R300). -/
inductive HoldCond where
  | none
  /-- These loads have performed (R251, R267). -/
  | loads (ids : List Nat)
  /-- The unacknowledged-store counter is zero (R263, R264). -/
  | stores
  /-- A copy slot is free (R290). -/
  | copySlot
  /-- There is room in the committed-batch list (R300). -/
  | batchRoom
  /-- At most `n` committed batches are left unretired (R300). -/
  | batches (n : Nat)
  /-- At most `n` posts are outstanding (R374). -/
  | posts (n : Nat)
  /-- OUT has room for the next post of a bundle that is being issued (R372). -/
  | postRoom
  /-- These accesses of block memory have been performed (R266). -/
  | done (ids : List Nat)
  /-- No extended register has a write outstanding (R178). -/
  | extIdle
  /-- Every provisional put of a bundle before this one of the gang has been answered (R351). -/
  | puts (serial : Nat)
  /-- Translation walks (space and 64 KiB page) have not completed (R196, R233). -/
  | walk (pages : List (Nat × Nat))
  deriving DecidableEq, Repr, Inhabited

/-- A buffer-table entry (R227), its key slot with DEFKEY resolved (R402). -/
structure BufEnt where
  gen    : Nat
  key    : Nat
  asid   : Nat
  pin    : Bool
  gran   : Nat
  smask  : Nat
  kind   : Nat
  rights : Nat
  kspec  : Nat
  len    : Nat
  base   : Nat
  deriving DecidableEq, Repr, Inhabited

/-- One end of a copy (R293, R297, R325): block memory, a buffer, or a slab. -/
structure CopyEnd where
  /-- 0 block memory; 1 a buffer; 2 a slab. -/
  sort   : Nat
  handle : Nat
  ent    : BufEnt
  off    : Nat
  stride : Nat
  slab   : Nat
  deriving DecidableEq, Repr, Inhabited

/-- A copy in its slot (R290, R295), keyed 512 · core + copy ID. -/
structure Copy where
  serial : Nat
  gid    : Nat
  block  : Nat
  asid   : Nat
  /-- STATE of R295: 0 DONE, 1 FAILED, 2 QUEUED, 3 ACTIVE; and KIND. -/
  state  : Nat
  kind   : Nat
  dst    : CopyEnd
  src    : CopyEnd
  rows   : Nat
  len    : Nat
  /-- The slab bytes that an `swb` writes out, read at its acceptance (R325). -/
  data   : Sparse 8
  /-- Chunks moved so far, by number (R304). -/
  moved  : Sparse 1
  /-- The amax word of `swb` (R325): 1 block memory, 2 tiled, 3 host; its place and the value. -/
  amax   : Option (Nat × CopyEnd × Word)
  /-- The completion record: its offset and value (R299). -/
  record : Option (Nat × Word)
  /-- A `cpq.a` whose arm stands (R298). -/
  armed  : Bool
  /-- The fault that ended it, to be reported at its completion (R294). -/
  failed : Option Nat
  /-- The kind it will report because an earlier copy of its `mma` failed (R298). -/
  doom   : Option Nat
  /-- The outstanding write of its slab (R297). -/
  pid    : Nat
  pc     : Word
  lanes  : Lanes
  blks   : List (Nat × Option Blk)
  deriving DecidableEq, Repr, Inhabited

/-- A post on its way, or one copy of a broadcast (R369, R371 to R373). -/
structure Post where
  gid    : Nat
  /-- The cluster that sent it. -/
  cl     : Nat
  /-- The post or broadcast that it counts for in OUT (R374), its order at the root of the partition once it has one (R375), and
  whether it is a copy of a broadcast. -/
  out    : Nat
  root   : Nat
  bcast  : Bool
  cls    : Nat
  /-- The hardware slot of its queue, for FAB budgets (R397), 64 for none. -/
  slot   : Nat
  route  : Nat
  handle : Nat
  off    : Nat
  loc    : Loc
  pin    : Bool
  key    : Nat
  words  : Nat
  data   : BitVec 512
  /-- The place of the counter and its offset. -/
  ctr    : Option Loc
  ctrPin : Bool
  ctrKey : Nat
  lane   : Nat
  lanes  : Lanes
  pc     : Word
  /-- The egress ports that it has still to leave by, in order, and the cycle in which it entered the queue of the first. -/
  hops   : List Nat
  since  : Nat
  /-- It stands in that queue, not still at its cluster's network interface. -/
  queued : Bool
  /-- PACKET_AGE_SATURATION has set its age to saturated (R377). -/
  old    : Bool
  /-- It has not left its cluster's network interface yet. -/
  fresh  : Bool
  /-- Cut short by the reset of a cluster (R381), by number. -/
  cut    : Option Nat
  /-- Units to store, as offsets and widths; requests that wait at a home slice; the add that is still to come. -/
  units  : List (Nat × Nat)
  open_  : List Nat
  add    : Bool
  deriving DecidableEq, Repr, Inhabited

/-- What special registers give from the issue of a word (R32, R416): the cycle, the core, and the `sp.clkh` latch. -/
structure Issued where
  clk  : Nat
  core : Nat
  hi   : Word
  deriving DecidableEq, Repr, Inhabited

/-- What the checks of a bundle found (R205): the fault kind, the handle, the offset and the path. -/
structure Why where
  kind   : Nat
  handle : Nat
  off    : Nat
  path   : Nat
  deriving DecidableEq, Repr, Inhabited

/-- The bundle that is being issued, or resumed after a completion wait: its gang, its threads, the word's PC, the cycle
of its first beat, the word where it is already read, and the operands read at issue. -/
structure Bundle where
  gid     : Nat
  mask    : Lanes
  pc      : Word
  t       : Nat
  /-- The executing threads, where they are already known (a resumed bundle). -/
  exec    : Option Lanes
  word    : Option IWord
  snap    : Option Regs
  /-- The completion waits of this instruction that are over. -/
  stage   : Nat
  /-- The bundle's number within the gang. -/
  serial  : Nat
  /-- Pages that this bundle's translation walks found not present (R233). -/
  absent  : List (Nat × Nat)
  /-- The number of the outstanding writes that it keeps while it is held, or 0. -/
  pid     : Nat
  /-- The replay buffer issues it again (R208), after what its checks found. -/
  replay  : Bool
  why     : Why := default
  /-- The launch packet that a `qlaunch` read at issue (R394); of a `pfence`, the number of the last write before its issue (R266). -/
  pkt     : Nat
  /-- The copy of a command that has passed its checks and waits for a slot (R293). -/
  cmd     : Option Copy
  /-- Posts of a bundle that has passed its checks, by lane, for which OUT has had no room yet (R372). -/
  posts   : List (List Post)
  /-- What special registers read from its issue (R32, R416). -/
  iss     : Issued
  deriving DecidableEq, Repr, Inhabited

/-- A bundle in a completion wait (R204). -/
structure Held where
  bundle : Bundle
  cond   : HoldCond
  deriving DecidableEq, Repr, Inhabited

/-- An arrival whose drain (R158) is not over: what arrives, and for which lane. -/
structure Drain where
  /-- 0 `mwait`, 1 a block barrier, 2 a named barrier. -/
  kind : Nat
  lane : Nat
  /-- The m register, the barrier, or the named barrier's record. -/
  obj  : Nat
  gen  : Nat
  /-- The accesses it waits for. -/
  ids  : List Nat
  deriving DecidableEq, Repr, Inhabited

/-- What a gang is stopped for (R154, R201, R212). -/
inductive Stop where
  | running
  /-- `brk` or a watchpoint stopped it; the record's core and SEQ answer it. -/
  | debug (core seq : Nat)
  /-- Its block ends under R219. -/
  | ending
  deriving DecidableEq, Repr, Inhabited

/-- Where a gang's extended block stands (R177). -/
inductive ExtState where
  | none | queued | clearing | held
  deriving DecidableEq, Repr, Inhabited

/-! ## Memory (chapters 10 to 12) -/

/-- The operations of stores, reductions, atomics and crumbs (R236, R259). -/
inductive MemOp where
  | store | add | min | max | and | or | xor | exch | binc | fadd
  deriving DecidableEq, Repr, Inhabited

/-- One crumb-log entry (R236), with the moment of its append. -/
structure Crumb where
  op     : MemOp
  signed : Bool
  width  : Nat
  off    : Nat
  val    : BitVec 64
  stamp  : Nat
  deriving DecidableEq, Repr, Inhabited

/-- What a request asks of its point of service. -/
inductive ReqKind where
  | load | store | atom | cas | red | mdld | mdst | tfetch
  /-- Fetches the 64-byte line for a phase-cache miss (R253). -/
  | line
  /-- Reads the word that `waddr` watches (R175). -/
  | waddr
  /-- A copy or another engine waits for the arrival (R239); `load` is the copy's key. -/
  | copy
  deriving DecidableEq, Repr, Inhabited

/-- A request on its way to a home slice or to the fabric port (R235, R257). -/
structure Req where
  id     : Nat
  /-- The input queue it stands in: the issuing core, or 192 for other sources (R245, R257). -/
  src    : Nat
  gid    : Nat
  lane   : Nat
  kind   : ReqKind
  op     : MemOp
  signed : Bool
  loc    : Loc
  width  : Nat
  val    : BitVec 128
  cmp    : BitVec 64
  path   : Path
  /-- The load it answers, or 0. -/
  load   : Nat
  /-- Which bytes of the load's lane it supplies (bit k for byte k). -/
  bytes  : BitVec 16
  /-- The byte of the lane's value at which its answer starts. -/
  shift  : Nat
  /-- It counts in the unacknowledged-store counter (R264). -/
  acked  : Bool
  pin    : Bool
  /-- The key slot of the buffer (R407). -/
  key    : Nat
  handle : Nat
  off    : Nat
  /-- The threads that issued it (R158, R205). -/
  lanes  : Lanes
  pc     : Word
  /-- The number of its bundle within the gang, or of its copy. -/
  serial : Nat
  /-- Its place in its bundle's order at a bank (R93, R104). -/
  order  : Nat
  /-- A store of scope `.dev` or `.sys` (R256). -/
  direct : Bool
  /-- The threads that issued it, by `sp.tid` (R158, R272). -/
  who    : List Word := []
  /-- The low half of a 16-byte access that comes before this one (R271), or 0. -/
  half   : Nat := 0
  deriving DecidableEq, Repr, Inhabited

/-- Residency of a tile (R234). -/
inductive Resid where
  | absent | resident | arriving
  deriving DecidableEq, Repr, Inhabited

/-- A tile of main memory (R234 to R244), keyed by its device physical address divided by 4,096. -/
structure Tile where
  st      : Resid
  data    : Sparse 8
  dirty   : Bool
  /-- The key slot of the buffer through which it was last reached (R407). -/
  key     : Nat
  log     : List Crumb
  /-- The accesses that wait on the arrival, in order; the first caused it when `caused` holds (R238). -/
  waiting : List Req
  caused  : Bool
  /-- That read met an uncorrectable line (R241). -/
  bad     : Bool
  /-- `tevict` marked it as the next victim (R242, R269). -/
  victim  : Bool
  /-- An arriving tile has its frame (R238 step 2). -/
  framed  : Bool
  /-- It arrives because the slice reclaims log entries (R243, R245). -/
  reclaim : Bool
  /-- The gang for which it arrives, or 0. -/
  asker   : Nat
  /-- Tracker count (R244), none while the tile has no entry. -/
  count   : Option Nat
  /-- The tracker stopped counting it until its count has decayed to 0 (R241). -/
  barred  : Bool
  deriving DecidableEq, Repr, Inhabited

/-- A copy of a line in a core's phase cache (R253, R254); the lines are keyed by device physical address divided by 64. -/
structure Line where
  stamp : Nat
  data  : Sparse 8
  deriving DecidableEq, Repr, Inhabited

/-- An entry of a gang's store buffer (R252), in order of entry. -/
structure SbEntry where
  handle : Nat
  off    : Nat
  width  : Nat
  val    : BitVec 128
  loc    : Loc
  pin    : Bool
  key    : Nat
  lanes  : Lanes
  pc     : Word
  deriving DecidableEq, Repr, Inhabited

/-- A load, atomic or other access that returns a value, in flight (R250, R251). -/
structure LoadOp where
  id    : Nat
  /-- Load tag 0 to 15; 16 for SAT; without a tag, 17 for `fill` and 18 for `waddr`. -/
  tag   : Nat
  dst   : Opnd
  ty    : BitVec 5
  lanes : Lanes
  uni   : Bool
  /-- The requests whose answers are still to come. -/
  reqs  : List Nat
  /-- The bytes that have come, keyed by lane. -/
  vals  : Sparse 128
  /-- Its word, and the registers read at issue (R206). -/
  word  : IWord
  snap  : Regs
  iss   : Issued
  /-- The number of its bundle, and the block states of its threads at the word (R70, R205). -/
  serial : Nat
  blks   : List (Nat × Option Blk)
  deriving DecidableEq, Repr, Inhabited

/-- A replay-buffer entry (R206). -/
structure Replay where
  seq   : Nat
  core  : Nat
  word  : IWord
  pc    : Word
  lanes : Lanes
  /-- The registers as read at issue: each lane's address and data. -/
  regs  : Regs
  kind  : Nat
  handle : Nat
  off   : Nat
  path  : Nat
  /-- 1 FAULT; 2 LONGOP (R210). -/
  type  : Nat
  /-- The block states of a long operation's threads at its word (R70, R210). -/
  blks  : List (Nat × Option Blk)
  iss   : Issued
  deriving DecidableEq, Repr, Inhabited

/-- Checks of a bundle that failed and are not yet parked (R205): the lanes with the kind, handle and offset of each. -/
structure FailSet where
  lanes  : Lanes
  kind   : Nat
  handle : Nat
  off    : Nat
  path   : Nat
  word   : IWord
  pc     : Word
  regs   : Regs
  iss    : Issued
  /-- The number of the bundle, and the lane whose kind, handle and offset these are. -/
  serial : Nat
  low    : Nat
  /-- Lanes that the record names as well, whose threads are not parked: they have exited, or a handler's return or its end took them away. -/
  told   : Lanes := 0
  deriving DecidableEq, Repr, Inhabited

/-- What comes after a write by a gang's doing (R266, R301): its accesses on a path whose number is above `after`. -/
structure Seen where
  gid   : Nat
  path  : Path
  after : Nat
  deriving DecidableEq, Repr, Inhabited

/-- A write that engines' accesses may not see yet (R21, R272): the byte's place, the value before it, the writer's path and its gang. The
list of them keeps the order in which the writes of a byte were performed. -/
structure Lag where
  loc    : Loc
  old    : Byte
  from_  : Path
  gid    : Nat
  /-- Its place among all writes performed, and the number of its request, or of its copy on path C. -/
  num    : Nat
  req    : Nat
  /-- The launch on whose behalf it was written (R392). -/
  launch : Nat
  /-- The copies that wrote it, wrote the byte later or have read it, by serial (R301). -/
  met    : List Nat
  /-- The accesses that a `pfence` or the end of a copy puts after it, by gang (R266, R301). -/
  seen   : List Seen
  /-- The launches that a `qlaunch` puts after it, by queue and place in its ring (R394). -/
  kids   : List (Nat × Nat)
  deriving DecidableEq, Repr, Inhabited

/-- Where a soft error stands in an on-chip array (R405): a register of a gang, or a word of block memory or of a tile's frame. -/
inductive SoftErr where
  | reg (gid code : Nat)
  | word (loc : Loc)
  deriving DecidableEq, Repr, Inhabited

/-- What stands beside a 64-byte line of main memory (R405 to R408), keyed by device physical address divided by 64: its
poison mark, the bits that stand flipped where a read or the scrubber would meet them (data bits 0 to 511, then the 64 side-band
bits), whether it or its counters fail the tree check, the side-band metadata (R270), the minor counter, and a tag of the key under
which it was last written, 0 while it never was. -/
structure LineInfo where
  poison : Bool
  flips  : BitVec 576
  forged : Bool
  meta_  : BitVec 56
  minor  : Nat
  keyGen : Nat
  deriving DecidableEq, Repr, Inhabited

/-- An access of main memory that waits at a page (R408): a tile's write-back, a read of a chunk of a tile, a chunk of a copy (its
key, its serial and the chunk), a bag record's placement, or a `bnext`'s read. -/
inductive PageTok where
  | evict (tile : Nat)
  | read (tile chunk : Nat)
  | copy (key serial chunk : Nat)
  | place (bag put : Nat)
  | claim (op : Nat)
  deriving DecidableEq, Repr, Inhabited

/-- A 4 KiB page of main memory (R408, R409): its major counter, and whether it is to be re-encrypted before its accesses go on. -/
structure PageInfo where
  major : Nat
  reenc : Bool
  /-- The key slot of the write that set this off. -/
  key   : Nat
  /-- The accesses that wait, the triggering write first, then in order of arrival. -/
  wait  : List PageTok
  deriving DecidableEq, Repr, Inhabited

/-- A key slot (R407): the key, whether it is loaded, and which load of the slot it is. -/
structure KeySlot where
  loaded : Bool
  key    : BitVec 256
  gen    : Nat
  /-- A major counter has run out (R409). -/
  spent  : Bool
  deriving DecidableEq, Repr, Inhabited

/-- A read of main memory that a channel controller has yet to serve (R403): 256 bytes of a tile. `since` is the cycle of the
channel's controller (R5, R11). -/
structure HbmReq where
  chan  : Nat
  tile  : Nat
  chunk : Nat
  since : Nat
  resv  : Bool
  deriving DecidableEq, Repr, Inhabited

/-! ## The copy engine and the matrix array (chapters 15 and 16) -/

/-- An `mma` (R315, R318, R321). -/
structure Mma where
  id    : Nat
  gid   : Nat
  block : Nat
  /-- Its requester: a slot 0 to 3, or 4 for the copy engine. -/
  from_ : Nat
  c     : Nat
  a     : Nat
  b     : Nat
  z     : Bool
  bsel  : Nat
  /-- The 32 scale pairs of A's rows and B's columns, read at issue. -/
  ea    : List (BitVec 64)
  eb    : List (BitVec 64)
  pc    : Word
  lanes : Lanes
  blks  : List (Nat × Option Blk)
  deriving DecidableEq, Repr, Inhabited

/-- An armed `mma` in the copy engine (R298): the serial of its copy, the serials that have yet to land, those of them whose failure
stops it, and the fault of one that failed. -/
structure Armed where
  mma    : Mma
  copy   : Nat
  needs  : List Nat
  counts : List Nat
  failed : Option Nat
  deriving DecidableEq, Repr, Inhabited

/-! ## The bag engine (chapter 18) -/

/-- A record of a bag (R338, R341). -/
structure BagRec where
  id      : Nat
  /-- Its bank, by number in the bag, and its slot there. -/
  bank    : Nat
  slot    : Nat
  payload : BitVec 512
  key     : Word
  score   : Word
  /-- The commit token of an unsettled record (R351). -/
  token   : Option (BitVec 16)
  /-- The `bnext` that has claimed it, or 0. -/
  claim   : Nat
  deriving DecidableEq, Repr, Inhabited

/-- A bank of a bag: its stack, and the region offsets of its record slots (R341). -/
structure BagBank where
  stack : Nat
  slots : List Nat
  deriving DecidableEq, Repr, Inhabited

/-- A request at a bag home (R342, R352, R353). -/
inductive HomeKind where
  | put | putRanked | putToken (tok : BitVec 16) | count | stat (sel : Nat)
  deriving DecidableEq, Repr, Inhabited

/-- A put of one thread, or a `bcount` or `bstat`, on its way to the home or to a steward. -/
structure HomeReq where
  id      : Nat
  op      : Nat
  src     : Nat
  lane    : Nat
  kind    : HomeKind
  payload : BitVec 512
  key     : Word
  score   : Word
  /-- What admission decided (R346): the status and the displaced key. -/
  status  : Nat
  dk      : Word
  deriving DecidableEq, Repr, Inhabited

/-- What a settlement or a `bnext` has done at the stewards and the home has not counted yet (R342, R351, R355). -/
structure HomeUpd where
  op    : Nat
  recs  : List Nat
  /-- Records that leave the resident count, and the unsettled count. -/
  r     : Nat
  u     : Nat
  deriving DecidableEq, Repr, Inhabited

/-- A bag, keyed by its descriptor number: the entry and descriptor that it was bound under, its banks and records, and the
home's counts (R339 to R342). Of the entry, what the binding rests on is kept. -/
structure Bag where
  bound   : Bool
  ent     : Nat
  desc    : Nat
  banks   : List BagBank
  recs    : List BagRec
  r       : Nat
  p       : Nat
  u       : Nat
  failed  : Nat
  queue   : List HomeReq
  placing : List HomeReq
  upd     : List HomeUpd
  deriving DecidableEq, Repr, Inhabited

/-- A bag instruction whose results are not all written (R344). -/
structure BagOp where
  gid    : Nat
  bag    : Nat
  handle : Nat
  dst    : Opnd
  /-- Registers of a result, and the predicate of a put (7 for none). -/
  n      : Nat
  pd     : Nat
  uni    : Bool
  /-- The executing threads, those of a put that have no status yet, and those that received FULL. -/
  lanes  : Lanes
  left   : Lanes
  full   : Lanes
  trapf  : Bool
  pc     : Word
  blks   : List (Nat × Option Blk)
  /-- Banks that a settlement or a `bdrain` has yet to reach. -/
  banks  : List Nat
  squash : Bool
  token  : BitVec 16
  count  : Nat
  cursor : Nat
  /-- `bnext`: records wanted, offset, claimed so far, and whether claiming is over. -/
  want   : Nat
  off    : Nat
  batch  : List Nat
  ended   : Bool
  /-- Its writes of block memory, by request, that come before its frees (R355). -/
  writes  : List Nat
  /-- The number of its bundle. -/
  serial  : Nat
  deriving DecidableEq, Repr, Inhabited

/-- An open cursor (R354, R356). -/
structure Cursor where
  stack    : Nat
  bag      : Nat
  block    : Nat
  live     : Bool
  val      : Word
  cut      : List Nat
  finished : List Nat
  /-- A `bnext` on it has returned 0 (R356). -/
  spent    : Bool
  deriving DecidableEq, Repr, Inhabited

/-! ## Gangs, blocks and cores -/

/-- A gang (R97, R100, R217). `live` until it ends (R109); `place` is its place number while it is resident (R99). -/
structure Gang where
  live      : Bool
  block     : Nat
  idx       : Nat
  core      : Nat
  place     : Nat
  /-- Resident on its core's active bank (R214). -/
  active    : Bool
  /-- Base registers, and the first granule of the base block once granted (R114). -/
  nb        : Nat
  base      : Option Nat
  ext       : ExtState
  extK      : Nat
  extBase   : Nat
  /-- Every base granule is zeroed (R118). -/
  cleared   : Bool
  placedAt  : Nat
  threads   : KMap Thread
  regs      : Regs
  /-- Taints: v i at i, s i at 256 + i, p i at 512 + i (R250). -/
  taint     : Sparse 17
  /-- The taint shadow of the spill stack, by word (R225). -/
  spTaint   : Sparse 17
  /-- Spill-stack words written since first issue, keyed 32 · word + lane (R225). -/
  spSet     : Sparse 1
  mM        : Sparse 32
  mA        : Sparse 32
  flags     : BitVec 5
  ten       : BitVec 5
  chk       : Bool
  ppValid   : Bool
  ppMask    : BitVec 16
  ovf       : Bool
  sbf       : Bool
  clkh      : Word
  trap      : Bool
  tCause    : BitVec 8
  tSub      : BitVec 8
  tPc       : Word
  tInfo     : Word
  tMask     : Lanes
  /-- The model's own: the last bundle before the trap. -/
  trapAt    : Nat
  /-- Acknowledgements that came in trap state or while switched out (R208): SEQ's entry and disposition. -/
  acks      : List (Nat × Nat × Nat)
  pend      : List Pend
  held      : List Held
  drains    : List Drain
  loads     : List LoadOp
  sb        : List SbEntry
  /-- Stores that count as unacknowledged (R264), and whether each has been performed. -/
  out       : List (Nat × Bool)
  replay    : List Replay
  fails     : List FailSet
  acq       : Nat
  stallTo   : Nat
  starve    : Nat
  starvedAt : Nat
  stop      : Stop
  /-- FAB.STAT (R374): FAIL and KIND, and the posts that count in OUT. -/
  fabFail   : Nat
  fabKind   : Nat
  posts     : List Nat
  /-- The open batch, the committed batches oldest first (R300), by copy key, and the key of a pending `cpq.a` arm (R298). -/
  open_     : List Nat
  batches   : List (List Nat)
  arm       : Option Nat
  /-- Serials of copies whose batches have retired and which no `cpwait` has covered yet (R301). -/
  retired   : List Nat
  /-- How the latest retired copy into each slab ended (R298): 0, or its fault kind; 256 more where one with no follow-on has failed, which
  stands. -/
  slabEnds  : KMap Nat
  /-- Bytes that loads of the open phase took from a crumb log, as address and width (R253, R275). -/
  logged    : List (Nat × Nat) := []
  /-- Its last thread went while stores stood in its buffer, so that it ends as after a `phase.rel` (R109, R263). -/
  closing   : Bool := false
  /-- Bundles issued so far. -/
  serial    : Nat
  deriving DecidableEq, Repr, Inhabited

/-- A block barrier (R165). -/
structure Bar where
  gen   : Nat
  count : Nat
  n     : Nat
  fixed : Bool
  deriving DecidableEq, Repr, Inhabited

/-- A slab register (R306, R308): its configuration and its 16 KiB. -/
structure Slab where
  ty     : BitVec 5
  rows   : Nat
  rbytes : Nat
  data   : Sparse 8
  /-- A soft error that a read would meet (R327): 0 none, 1 correctable, 2 uncorrectable. -/
  flaw   : Nat
  deriving DecidableEq, Repr, Inhabited

/-- Where a block's context is (R214 to R218). -/
inductive Resides where
  | active | shadowOut | saved | shadowIn
  deriving DecidableEq, Repr, Inhabited

/-- A block (R98, R165, R221). -/
structure Block where
  live     : Bool
  launch   : Nat
  /-- `sp.blk`, `sp.clu`, `sp.stk` (R32). -/
  idx      : Nat
  clu      : Nat
  stk      : Nat
  core     : Nat
  where_   : Resides
  gangs    : List Nat
  ngang    : Nat
  blkmem   : Nat
  stack    : Nat
  slabs    : Nat
  /-- First byte of its allocation in the core's block memory (R221). -/
  memBase  : Nat
  mem      : Memory
  slab     : KMap Slab
  bars     : KMap Bar
  /-- Gang indexes free for the Sifter (R112). -/
  freeIdx  : List Nat
  /-- Slab granules that its clearing has not been queued for yet (R118). -/
  slabDue  : Nat
  /-- While it is switched out: the order of the switch, the bytes of its image (R216), and the slabs that are spilled (R181). -/
  outAt    : Nat
  image    : Nat
  spilled  : Nat
  /-- The units of 64 KiB of its ASID's save area that hold its image (R216). -/
  imageAt  : List Nat
  /-- The completion records that stand in its memory: the offset, the serial of the copy, and the eight bytes (R299, R301). -/
  records  : List (Nat × Nat × Nat) := []
  /-- It ends under R219. -/
  ending   : Bool
  failed   : Bool
  deriving DecidableEq, Repr, Inhabited

/-- A packet of the Sifter (R110). -/
structure Packet where
  v     : List Word
  p     : BitVec 7
  tid   : Word
  ten   : BitVec 5
  chk   : Bool
  deriving DecidableEq, Repr, Inhabited

/-- A bin of the Sifter, keyed by block and next PC (R111); drawable once full or aged (R112). -/
structure Bin where
  block   : Nat
  pc      : Word
  n       : Nat
  packets : List Packet
  since   : Nat
  aged    : Bool
  deriving DecidableEq, Repr, Inhabited

/-- An issue slot (R192). -/
structure Slot where
  last  : Option Nat
  /-- The gang after which round-robin counts (R192). -/
  rrLast : Option Nat
  yield : Bool
  busy  : Nat
  deriving DecidableEq, Repr, Inhabited

/-- An allocated or requested block of granules (R115). -/
structure Alloc where
  gid   : Nat
  ext   : Bool
  start : Nat
  size  : Nat
  deriving DecidableEq, Repr, Inhabited

/-- Work of the clear engine (R118): a block's slab or a gang's granules, and how many granules are left. -/
structure Clear where
  /-- 0 a slab, 1 base granules, 2 an extended block. -/
  kind  : Nat
  owner : Nat
  left  : Nat
  since : Nat
  deriving DecidableEq, Repr, Inhabited

/-- A cached translation (R233): ASID, space (0 to 11 stacks, 12 the host), virtual page of 64 KiB, its physical base. -/
structure Xlat where
  asid  : Nat
  space : Nat
  vpn   : Nat
  frame : Nat
  grade : Nat
  deriving DecidableEq, Repr, Inhabited

/-- A fault record (R207). -/
structure Frec where
  type   : Nat
  kind   : Nat
  seq    : Nat
  asid   : Nat
  core   : Nat
  gang   : Nat
  pc     : Word
  lanes  : Lanes
  handle : Nat
  path   : Nat
  src    : Nat
  code   : Nat
  off    : Nat
  deriving DecidableEq, Repr, Inhabited

/-- A core (R14, R98 to R118, R190, R233, R253, R263). -/
structure Core where
  slots   : KMap Slot
  acqGen  : Nat
  lines   : KMap (List Line)
  allocs  : List Alloc
  allocQ  : List Alloc
  clearQ  : List Clear
  bins    : KMap Bin
  /-- The order of threads waiting for a bin (R111). -/
  order   : Nat
  xlat    : List Xlat
  /-- What ended blocks left in block memory, by byte of the core (R221). -/
  bmem    : Memory
  /-- SEQ of the next record (R207), and the records not yet written to the ring (R410). -/
  seq     : BitVec 16
  recQ    : List Frec
  /-- The cycle until which no slot issues (R214). -/
  frozen  : Nat
  /-- Armed `mma` operations, follow-ons that are ready in order, the array's queues, the one it runs, and the requester served
  last (R298, R321). -/
  armed   : List Armed
  ready   : List Mma
  mmaQ    : List Mma
  mmaRun  : Option Mma
  mmaLast : Nat
  /-- Queues whose time slice on this core has expired, and the cycle in which each queue's slice began (R395). -/
  expired : List Nat
  slices  : KMap Nat
  /-- The issue policy before the last write of it, and the cycle of that write (R190). -/
  polOld  : Word
  polAt   : Option Nat
  deriving DecidableEq, Repr, Inhabited

/-- A named barrier of a cluster unit (R169). -/
structure NamedBar where
  asid     : Nat
  launch   : Nat
  stk      : Nat
  clu      : Nat
  name     : Word
  n        : Nat
  attached : List Nat
  /-- Gangs whose `nbarv` has issued in this generation, and those whose arrival has taken effect (R170). -/
  issued   : List Nat
  arrived  : List Nat
  gen      : Nat
  deriving DecidableEq, Repr, Inhabited

/-- A cluster's shared parts: named barriers and the translation cache (R169, R233). -/
structure Cluster where
  bars  : KMap NamedBar
  xlat  : List Xlat
  /-- The cycle up to which the slice's tracker counts are halved (R244). -/
  hotAt : Nat
  deriving DecidableEq, Repr, Inhabited

/-- A launch (R386 to R391). -/
structure Launch where
  /-- 0 none, 1 instances are left to place, 2 every instance is placed, 3 completed. -/
  phase   : Nat
  asid    : Nat
  queue   : Nat
  prio    : Nat
  seq     : Nat
  kwords  : Nat
  codeH   : Nat
  codeOff : Nat
  /-- The shape (R386): gangs per block, blocks per cluster, clusters per stack group, stack groups. -/
  ngang   : Nat
  nblk    : Nat
  nclu    : Nat
  nstk    : Nat
  /-- The partition that it runs in (R368). -/
  part    : Nat
  blkmem  : Nat
  swizzle : Nat
  regs    : Nat
  slabs   : Nat
  stack   : Nat
  ageCap  : Nat
  doneH   : Nat
  doneO   : Nat
  sigH    : Nat
  sigO    : Nat
  args    : List Word
  /-- The next cluster instance to place (R390), and its blocks. -/
  nextInst : Nat
  blocks  : List Nat
  /-- A block failed, or the launch was ended (R380, R391). -/
  failed  : Bool
  /-- Words of its code that were written while it ran (R387), each with the count of a free value. -/
  rewritten : KMap Nat
  /-- Launches that it has waited on through BARRIER or DEP, whose every event comes before its accesses (R392). -/
  after    : List Nat
  /-- The queue and the place in its ring from which its packet was taken (R394). -/
  ring     : Option (Nat × Nat) := none
  deriving DecidableEq, Repr, Inhabited

/-! ## Queues and partitions (chapters 20 and 21) -/

/-- What the scheduler keeps of a queue (R384, R385): its place in doorbell order, or 0 while no doorbell is outstanding, and the
descriptor with which its ring failed its checks. -/
structure Queue where
  bell   : Nat
  stop   : Option Nat
  deriving DecidableEq, Repr, Inhabited

/-- A hardware slot in use (R385, R397): its queue, and the reservation profile that it took: MEM at the stacks, then FAB. -/
structure HwSlot where
  queue : Nat
  resv  : List Nat
  deriving DecidableEq, Repr, Inhabited

/-- A budget counter (R397): the period of 1,024 cycles in which it was last used, and what was used of it. -/
structure Budget where
  period : Nat
  used   : Nat
  deriving DecidableEq, Repr, Inhabited

/-- A partition (R367, R368, R380): the stack groups that it holds now, its shape, and whether it is down. -/
structure Part where
  mask  : Nat
  shape : Nat
  down  : Bool
  deriving DecidableEq, Repr, Inhabited

/-! ## The machine -/

/-- The whole machine. -/
structure State where
  /-- Die-local cycle counters (R11). -/
  clock   : Elapse
  /-- The model's own: the bundle that the next step runs, and whether there is one. -/
  cur     : Bundle
  issuing : Bool
  /-- The model's own: the events to come, each with the cycles that pass on each die before it (R9). -/
  agenda  : List (Elapse × Instr)
  /-- The model's own: the counter that free choices are taken at (R9). -/
  free    : Nat
  /-- The model's own: how many undefined values each ASID has met (R7). -/
  undefs  : KMap Nat
  /-- The model's own: a fault raised while a step ran, and whether an access that the scheduler makes in one step has to wait. -/
  err     : Option Fault
  stuck   : Bool
  /-- The model's own: the next number for gangs, blocks, requests and the like. -/
  next    : Nat
  cores    : KMap Core
  clusters : KMap Cluster
  gangs    : KMap Gang
  blocks   : KMap Block
  launches : KMap Launch
  /-- Main memory by device physical address, and the host's memory by host physical address (R231). -/
  hbm      : Memory
  host     : Memory
  /-- Host memory's and main memory's bytes that other paths may not see yet (R21). -/
  lags     : List Lag
  lineInfo : KMap LineInfo
  /-- ECC grades of 64 KiB frames of main memory (R232, R404): 0 S, 1 D, 2 P, 3 where a frame is mapped at two grades. -/
  grades   : Sparse 2
  pages    : KMap PageInfo
  keys     : KMap KeySlot
  tiles    : KMap Tile
  /-- Requests on their way to the home slices and to the fabric port, in the order of leaving (R235, R257). -/
  reqs     : List Req
  /-- Copy slots that are held (R290), keyed 512 · core + copy ID. -/
  copies   : KMap Copy
  /-- Bags by descriptor number, bag instructions under way, and open cursors, by number (R339, R344, R354). -/
  bags     : KMap Bag
  bagOps   : KMap BagOp
  cursors  : KMap Cursor
  /-- Reads of main memory under way (R403). -/
  hbmQ     : List HbmReq
  /-- Posts on their way (R369), by number. -/
  posts    : KMap Post
  /-- Postan link ports that are down (R382), bit p for port p. -/
  linkDown : BitVec 16
  /-- Queues, hardware slots and partitions by number (R384, R385, R368). -/
  queues   : KMap Queue
  hwslots  : KMap HwSlot
  parts    : KMap Part
  /-- The hardware slot that the scheduler examined last (R388). -/
  turn     : Nat
  /-- Budgets used (R397): 64 · channel + slot, and from 24,576 on 64 · egress port + slot. -/
  spent    : KMap Budget
  /-- The firmware image in flash and the one that runs (R411). -/
  flash    : Memory
  image    : Memory
  /-- Correctable soft errors that a read of an on-chip array would meet (R401, R405); those of slabs stand in `Slab.flaw`. -/
  soft     : List SoftErr
  /-- Dies whose clock is stretched (R413), bit d for die d. -/
  sag      : BitVec 4
  /-- Management registers by offset (R400, R401). -/
  mgmt     : Sparse 32
  /-- Low words written to 64-bit management registers whose high word has not been written yet (R400). -/
  mgLow    : Sparse 32
  deriving DecidableEq, Repr, Inhabited

/-- The management registers after reset (R244, R401), in ascending order of offset. -/
def resetMgmt : Sparse 32 :=
  [(0x0000, 0x0960B100), (0x0004, 0x03000000)] ++ (List.range 12).map (fun k => (0x0100 + 16 * k, 0x80180080)) ++
    [(0x0500, 0x00AA0000), (0x0600, 0x00000FFF)] ++ (List.range 48).map (fun c => (0x00100800 + 0x1000 * c, 0x8000100C))

/-- The machine right after reset: nothing is resident, memory lists nothing, partition 0 holds every stack group as a mesh (R368), the
management registers hold their reset values, and the boot ROM has not run yet (R411). -/
def State.reset : State :=
  { clock := { d0 := 0, d1 := 0, d2 := 0, d3 := 0, mc := [] }, cur := default, issuing := false, agenda := [], free := 0, undefs := [], err := none
    stuck := false, next := 0
    cores := [], clusters := [], gangs := [], blocks := [], launches := [], hbm := [], host := [], lags := [], lineInfo := [], grades := [], pages := []
    keys := [], tiles := [], reqs := [], copies := [], bags := [], bagOps := [], cursors := [], hbmQ := [], posts := [], linkDown := 0
    queues := [], hwslots := [], parts := [(0, { mask := 0xFFF, shape := 0, down := false })], turn := 63, spent := [], flash := [], image := [], soft := [], sag := 0
    mgmt := resetMgmt, mgLow := [] }

end Sys2Proof.Machine
end

