-- ==== Sys2Proof/Machine/Ecc.lean ====
section
/-! DEFINITION. What the ECC grades correct and detect (R404): how the bits that stand flipped in a line fall into the groups that a grade
protects. -/

namespace Sys2Proof.Machine

/-- What a controller makes of a line. -/
inductive EccClass where
  | clean
  /-- This many groups are corrected. -/
  | corrected (n : Nat)
  | uncorrectable
  /-- The grade's code sees nothing. -/
  | undetected
  /-- More flips than the grade's columns speak of. -/
  | open_
  deriving DecidableEq, Repr, Inhabited

/-- How many of the parts [`lo`, `lo + w·n`) of `w` bits hold a flipped bit. -/
def flippedParts (x : BitVec 576) (lo w n : Nat) : Nat :=
  ((List.range n).filter (fun k => x.extractLsb' (lo + w * k) w != 0)).length

/-- The flips that each group of a grade holds (R404): S, symbols of 8 bits in each 32 bytes with 4 check bytes of each; D, bits in each
16 bytes with 9 check bits of each; P, bits in each 8 bytes with a parity bit of each. -/
def eccGroups (grade : Nat) (x : BitVec 576) : List Nat :=
  if grade = 1 then (List.range 4).map (fun g => flippedParts x (128 * g) 1 128 + flippedParts x (512 + 9 * g) 1 9)
  else if grade = 2 then (List.range 8).map (fun g => flippedParts x (64 * g) 1 64 + flippedParts x (512 + g) 1 1)
  else (List.range 2).map (fun g => flippedParts x (256 * g) 8 32 + flippedParts x (512 + 32 * g) 8 4)

/-- What a grade makes of one group of so many flips. -/
def eccGroup (grade n : Nat) : EccClass :=
  if n = 0 then .clean
  else if grade = 2 then (if n % 2 = 1 then .uncorrectable else .undetected)
  else if n = 1 then .corrected 1
  else if n = 2 then .uncorrectable
  else .open_

/-- The class of a line: an uncorrectable group decides, then one that the columns leave open, then one that goes unseen. -/
def EccClass.join (a b : EccClass) : EccClass :=
  match a, b with
  | .uncorrectable, _ | _, .uncorrectable => .uncorrectable
  | .open_, _ | _, .open_ => .open_
  | .undetected, _ | _, .undetected => .undetected
  | .corrected n, .corrected m => .corrected (n + m)
  | .corrected n, .clean | .clean, .corrected n => .corrected n
  | .clean, .clean => .clean

/-- The class of the flips of a line at a grade; nothing is settled of a line whose page is mapped at two grades (3), which R232 forbids. -/
def eccClass (grade : Nat) (x : BitVec 576) : EccClass :=
  if grade = 3 ∧ x ≠ 0 then .open_ else (eccGroups grade x).foldl (fun c n => c.join (eccGroup grade n)) .clean

end Sys2Proof.Machine
end

