-- ==== Sys2Proof/Machine/Ops.lean ====
section
/-! DEFINITION. The named operations over the state that every step shares: accessors, the memory-resident tables, the
checks of R228, translation (R230 to R232), fault records, waits and their release tests, requests to the points of
service, ending a block (R219), and taking an exception (R200, R201) and returning from it (R182, R203). -/

namespace Sys2Proof.Machine

/-- What a step answers. -/
abbrev Out := Host.Outcome State Fault Refusal

/-! ## Accessors -/

def State.core (s : State) (c : Nat) : Core := kget s.cores c
def State.gang (s : State) (g : Nat) : Gang := kget s.gangs g
def State.block (s : State) (b : Nat) : Block := kget s.blocks b
def State.launch (s : State) (l : Nat) : Launch := kget s.launches l
def State.tile (s : State) (t : Nat) : Tile := kget s.tiles t
def State.setCore (s : State) (c : Nat) (x : Core) : State := { s with cores := kset s.cores c x }
def State.setGang (s : State) (g : Nat) (x : Gang) : State := { s with gangs := kset s.gangs g x }
def State.setBlock (s : State) (b : Nat) (x : Block) : State := { s with blocks := kset s.blocks b x }
def State.setLaunch (s : State) (l : Nat) (x : Launch) : State := { s with launches := kset s.launches l x }
def State.setTile (s : State) (t : Nat) (x : Tile) : State := { s with tiles := kset s.tiles t x }
def State.modCore (s : State) (c : Nat) (f : Core → Core) : State := s.setCore c (f (s.core c))
def State.modGang (s : State) (g : Nat) (f : Gang → Gang) : State := s.setGang g (f (s.gang g))
def State.modBlock (s : State) (b : Nat) (f : Block → Block) : State := s.setBlock b (f (s.block b))
def State.modLaunch (s : State) (l : Nat) (f : Launch → Launch) : State := s.setLaunch l (f (s.launch l))
def State.modTile (s : State) (t : Nat) (f : Tile → Tile) : State := s.setTile t (f (s.tile t))

def Gang.thread (g : Gang) (l : Nat) : Thread := kget g.threads l
def Gang.setThread (g : Gang) (l : Nat) (t : Thread) : Gang := { g with threads := kset g.threads l t }
def Gang.modThread (g : Gang) (l : Nat) (f : Thread → Thread) : Gang := g.setThread l (f (g.thread l))
/-- Changes the threads of a set. -/
def Gang.modLanes (g : Gang) (m : Lanes) (f : Thread → Thread) : Gang :=
  (lanesOf m).foldl (fun g l => g.modThread l f) g
/-- The lanes whose thread satisfies `p`. -/
def Gang.lanesWith (g : Gang) (p : Thread → Bool) : Lanes :=
  lanesFrom ((List.range 32).filter (fun l => p (g.thread l)))

/-- Threads that count as exited (R96). -/
def Thread.gone (t : Thread) : Bool := t.st == .exited || t.st == .vacant

/-- The cycle counter of die `d` (R11). -/
def elapseDie (e : Elapse) (d : Nat) : Nat :=
  match d with | 0 => e.d0 | 1 => e.d1 | 2 => e.d2 | _ => e.d3

/-- The cycle on the die of core `c` (R14). -/
def State.now (s : State) (c : Nat) : Nat := elapseDie s.clock (c / 48)

/-- The cycle of a channel's controller (R5, R11, R403). -/
def State.mcNow (s : State) (chan : Nat) : Nat := s.clock.mc.getD chan 0

/-- The next number of the model's own, and the state that has used it. -/
def State.fresh (s : State) : Nat × State := (s.next + 1, { s with next := s.next + 1 })

/-- The ASID that stands for the device itself where an undefined value is no program's. -/
abbrev noAsid : Nat := 1024

/-- The count of the next undefined value of an ASID, and the state that has taken it. -/
def State.undefCount (s : State) (asid : Nat) : Nat × State :=
  (kget s.undefs asid, { s with undefs := kset s.undefs asid (kget s.undefs asid + 1) })

/-- An undefined value (R7) of `w` bits, formed from the state of an ASID alone. -/
def State.undef (s : State) (asid w : Nat) : BitVec w × State :=
  ((Config.freeBits asid (s.undefCount asid).1).setWidth w, (s.undefCount asid).2)

/-- A free choice among `n` alternatives (R9). -/
def State.choose (s : State) (n : Nat) : Nat × State :=
  (if n = 0 then 0 else Config.freeChoice s.free % n, { s with free := s.free + 1 })

/-- Applies a function `n` times. -/
def iter {α : Type} (f : α → α) : Nat → α → α
  | 0, x => x
  | n + 1, x => iter f n (f x)

/-! ## Management registers (R400, R401) -/

def State.mg (s : State) (off : Nat) : Word := sget s.mgmt off
def State.setMg (s : State) (off : Nat) (x : Word) : State := { s with mgmt := sset s.mgmt off x }
/-- A 64-bit register: two words, the low word first. -/
def State.mg64 (s : State) (off : Nat) : Nat := (s.mg off).toNat + 2 ^ 32 * (s.mg (off + 4)).toNat
def coreMg (c off : Nat) : Nat := 0x00200000 + 0x1000 * c + off
def clusterMg (c off : Nat) : Nat := 0x00100000 + 0x1000 * c + off
/-- Adds one, saturating at 0xFFFF_FFFF. -/
def State.countMg (s : State) (off : Nat) : State :=
  if s.mg off = 0xFFFFFFFF then s else s.setMg off (s.mg off + 1)

/-- The hardware slot of a queue (R385), 64 where it holds none, and the reservation profile that it took. -/
def State.slotOf (s : State) (queue : Nat) : Nat × List Nat :=
  match s.hwslots.find? (fun kv => kv.2.queue == queue) with
  | some kv => (kv.1, kv.2.resv)
  | none => (64, [])

/-! ## Main memory and the tables in it -/

/-- A device physical address lies on a stack: stack 0 to 11, 48 GiB each (R13, R231). -/
def hbmExists (pa : Nat) : Bool := decide (pa / 2 ^ 36 < 12 ∧ pa % 2 ^ 36 < 48 * 2 ^ 30)

/-- The lines of [pa, pa + n), by number. -/
def linesOf (pa n : Nat) : List Nat := (List.range ((pa + n + 63) / 64 - pa / 64)).map (pa / 64 + ·)

/-- The ECC grade of a line's page (R232, R404), as last learned; 3 where its frame is mapped at two grades. -/
def State.gradeOf (s : State) (l : Nat) : Nat := (sget s.grades (l / 1024)).toNat

/-- The class of the bits that stand flipped in a line (R404). -/
def State.classOf (s : State) (l : Nat) : EccClass := eccClass (s.gradeOf l) (kget s.lineInfo l).flips

/-- The 64 bytes of a line with the flipped bits in them: an error that the code does not see (R404). -/
def flipLine (m : Memory) (l : Nat) (flips : BitVec 576) : Memory :=
  (List.range 64).foldl (fun m k => memSet m (64 * l + k) (memByte m (64 * l + k) ^^^ flips.extractLsb' (8 * k) 8)) m

/-- Main memory as a read of [pa, pa + n) finds it, with the flipped bits that no code sees (R404). -/
def State.seenMem (s : State) (pa n : Nat) : Memory :=
  if s.lineInfo.all (fun kv => kv.2.flips == 0) then s.hbm
  else (linesOf pa n).foldl (fun m l => if s.classOf l = .undetected then flipLine m l (kget s.lineInfo l).flips else m) s.hbm

/-- Reads `n` bytes of main memory. -/
def State.hbmRead (s : State) (pa n : Nat) : Nat := memRead (s.seenMem pa n) pa n

/-- Writes `n` bytes of main memory; an address that no stack holds is the machine's fault. -/
def State.hbmWrite (s : State) (pa n x : Nat) : State :=
  if hbmExists pa then { s with hbm := memWrite s.hbm pa n x } else { s with err := some .noSuchAddress }

/-- A line of [pa, pa + n) fails a read of a table there with UNCORR: it is poisoned, it fails the tree check, or its error is not
corrected (R405, R408). More flips than the grade's columns speak of count as such an error (DESIGN CHOICE, log 142). -/
def State.tableBad (s : State) (pa n : Nat) : Bool :=
  (linesOf pa n).any (fun l =>
    let x := kget s.lineInfo l
    x.poison || x.forged || (x.flips != 0 && (match s.classOf l with | .uncorrectable | .open_ => true | _ => false)))

/-- Bits [hi:lo] of a number. -/
def bitsOf (x hi lo : Nat) : Nat := x / 2 ^ lo % 2 ^ (hi + 1 - lo)

/-- The address of the context descriptor of an ASID (R402). -/
def State.ctxAddr (s : State) (asid : Nat) : Nat := s.mg64 0x0040 + 128 * asid
def State.ctxValid (s : State) (asid : Nat) : Bool := s.hbmRead (s.ctxAddr asid + 13) 1 % 2 == 1

/-- The context descriptor of an ASID cannot be read (R405). -/
def State.ctxBad (s : State) (asid : Nat) : Bool := s.tableBad (s.ctxAddr asid) 128

/-- A buffer-table entry's fields (R227). -/
def BufEnt.ofBits (x : Nat) : BufEnt :=
  { gen := bitsOf x 255 240, key := bitsOf x 239 232, asid := bitsOf x 231 222, pin := bitsOf x 216 216 == 1,
    gran := bitsOf x 215 212, smask := bitsOf x 211 200, kind := bitsOf x 199 197, rights := bitsOf x 196 191,
    kspec := bitsOf x 190 168, len := bitsOf x 167 128, base := bitsOf x 111 64 }

/-- The entry of index `idx` of an ASID's table, none beyond its count (R226); key slot 0 stands for DEFKEY (R402). -/
def State.bufEnt (s : State) (asid idx : Nat) : Option BufEnt :=
  let d := s.ctxAddr asid
  if s.ctxValid asid && decide (idx < s.hbmRead (d + 8) 4) then
    let e := BufEnt.ofBits (s.hbmRead (s.hbmRead d 8 + 32 * idx) 32)
    some { e with key := if e.key = 0 then s.hbmRead (d + 12) 1 else e.key }
  else none

/-- Buffer kinds (R227). -/
abbrev kindTiled : Nat := 1
abbrev kindBulk : Nat := 2
abbrev kindBag : Nat := 3
abbrev kindHost : Nat := 4

/-- Rights bits (R227): r, w, a, bag, c, d. -/
abbrev rightR : Nat := 1
abbrev rightW : Nat := 2
abbrev rightA : Nat := 4
abbrev rightBag : Nat := 8
abbrev rightC : Nat := 16
abbrev rightD : Nat := 32

/-- Fault kinds (R205). -/
abbrev fkNotPresent : Nat := 1
abbrev fkHandle : Nat := 2
abbrev fkBounds : Nat := 3
abbrev fkRights : Nat := 4
abbrev fkOwner : Nat := 5
abbrev fkKind : Nat := 6
abbrev fkAlign : Nat := 7
abbrev fkKeyExh : Nat := 8
abbrev fkUncorr : Nat := 9

/-- Check 1 of R228. -/
def BufEnt.handleOk (e : BufEnt) (handle : Nat) : Bool :=
  (e.kind == 1 || e.kind == 2 || e.kind == 3 || e.kind == 4) && decide (e.gran ≤ 8) && (e.kind == 4 || e.smask != 0) &&
    e.gen == handle / 2 ^ 16 % 2 ^ 16 && (e.kind == 3 || e.kspec == 0)

/-- The context descriptor or the buffer-table entry of a handle cannot be read (R405). -/
def State.entBad (s : State) (asid idx : Nat) : Bool :=
  s.ctxBad asid || ((s.bufEnt asid idx).isSome && s.tableBad (s.hbmRead (s.ctxAddr asid) 8 + 32 * idx) 32)

/-- Checks 1 to 6 of R228 for one access of `width` bytes at `off`: the entry, or the fault kind. An entry that cannot be read fails
the access with UNCORR (R405). -/
def State.checkBuf (s : State) (asid handle : Nat) (off : Int) (width rights : Nat) (kinds : List Nat) (align : Nat) :
    Except Nat BufEnt :=
  match s.bufEnt asid (handle % 2 ^ 16) with
  | none => .error (if s.entBad asid (handle % 2 ^ 16) then fkUncorr else fkHandle)
  | some e =>
    if s.entBad asid (handle % 2 ^ 16) then .error fkUncorr
    else if !e.handleOk handle then .error fkHandle
    else if off < 0 ∨ (e.len : Int) < off + (width : Int) then .error fkBounds
    else if e.rights &&& rights != rights then .error fkRights
    else if e.asid != asid then .error fkOwner
    else if !kinds.contains e.kind then .error fkKind
    else if off.toNat % align != 0 then .error fkAlign
    else .ok e

/-- One bits of a number below 2^12, in ascending order. -/
def maskBits (m : Nat) : List Nat := (List.range 12).filter (fun k => m / 2 ^ k % 2 == 1)

/-- `Interleave` (R230): the space (a stack, or 12 for the host) and the virtual address. -/
def BufEnt.interleave (e : BufEnt) (o : Nat) : Nat × Nat :=
  if e.kind = kindHost then (12, e.base + o)
  else
    let g0 := 256 * 2 ^ e.gran
    let g := if e.kind = kindTiled then max g0 4096 else g0
    let ks := maskBits e.smask
    let n := ks.length
    let u := o / g
    (ks.getD (u % n) 0, e.base + (u / n) * g + o % g)

/-- One entry of a translation table is a valid leaf or pointer of its level (R232): none when it ends the walk as not
present, else whether it is a leaf, the frame and the grade. -/
def xlatEntry (level e : Nat) : Option (Bool × Nat × Nat) :=
  let p := e % 2 == 1
  let t := bitsOf e 1 1 == 1
  let frame := bitsOf e 51 12 * 4096
  let grade := bitsOf e 7 6
  if !p then none
  else if level = 1 ∨ level = 2 then (if t then some (false, frame, 0) else none)
  else if level = 3 then
    (if t then some (false, frame, 0)
     else if frame % 2 ^ 21 != 0 || grade == 3 then none else some (true, frame, grade))
  else if t || frame % 2 ^ 16 != 0 || grade == 3 then none else some (true, frame, grade)

/-- The walk of R231 from level `5 - n`: the physical address and the grade. -/
def State.walkFrom (s : State) : Nat → Nat → Nat → Option (Nat × Nat)
  | 0, _, _ => none
  | n + 1, table, va =>
    let level := 4 - n
    let idx := match level with
      | 1 => bitsOf va 47 39 | 2 => bitsOf va 38 30 | 3 => bitsOf va 29 21 | _ => bitsOf va 20 16
    match (if s.tableBad (table + 8 * idx) 8 then none else xlatEntry level (s.hbmRead (table + 8 * idx) 8)) with
    | none => none
    | some (true, frame, grade) => some (frame + va % (if level = 3 then 2 ^ 21 else 2 ^ 16), grade)
    | some (false, frame, _) => s.walkFrom n frame va

/-- The walk of virtual address `va` of a space (R231): the physical address in it and the ECC grade. A descriptor that is not valid or
cannot be read has no translation (R402, R405). -/
def State.walk (s : State) (asid space va : Nat) : Option (Nat × Nat) :=
  if s.ctxBad asid || !s.ctxValid asid then none else s.walkFrom 4 (s.hbmRead (s.ctxAddr asid + 16 + 8 * space) 8) va

/-- The entries that a walk reads from level `5 - n` on, by address. -/
def State.walkReads (s : State) : Nat → Nat → Nat → List Nat
  | 0, _, _ => []
  | n + 1, table, va =>
    let level := 4 - n
    let idx := match level with
      | 1 => bitsOf va 47 39 | 2 => bitsOf va 38 30 | 3 => bitsOf va 29 21 | _ => bitsOf va 20 16
    let a := table + 8 * idx
    a :: (match (if s.tableBad a 8 then none else xlatEntry level (s.hbmRead a 8)) with
      | some (false, frame, _) => s.walkReads n frame va
      | _ => [])

/-- The entries that the walk of an address reads (R231). -/
def State.walkPas (s : State) (asid space va : Nat) : List Nat :=
  if s.ctxBad asid || !s.ctxValid asid then [] else s.walkReads 4 (s.hbmRead (s.ctxAddr asid + 16 + 8 * space) 8) va

/-- The place of an address of a space: a stack's local address becomes a device physical address (R231). -/
def locOf (space pa : Nat) : Loc := if space = 12 then .host pa else .hbm (space * 2 ^ 36 + pa % 2 ^ 36)

/-- Where offset `o` of a buffer lies, by a walk (R230, R231); none where it is not present. -/
def State.bufLoc (s : State) (asid : Nat) (e : BufEnt) (o : Nat) : Option Loc :=
  let (space, va) := e.interleave o
  (s.walk asid space va).map (fun r => locOf space r.1)

/-- The translation that the caches hold of a page (R233). -/
def State.cachedEnt (s : State) (core asid space va : Nat) : Option Xlat :=
  let hit := fun (l : List Xlat) => l.find? (fun x => x.asid == asid && x.space == space && x.vpn == va / 2 ^ 16)
  match hit (s.core core).xlat with
  | some x => some x
  | none => hit (kget s.clusters (core / 4)).xlat

/-! ## The contents at a point of service -/

/-- The home slice of a tile, as a cluster number (R234). -/
def homeSlice (tile : Nat) : Nat :=
  let pa := tile * 4096
  4 * (pa / 2 ^ 36) + (bitsOf pa 13 12 ^^^ bitsOf pa 15 14 ^^^ bitsOf pa 17 16)

/-- Bytes `off` to `off + n - 1` of a sparse byte map, as a number. -/
def bytesAt (m : Sparse 8) (off n : Nat) : Nat := memRead m off n

/-- A new value of a word (R259): `w` bytes, old value `old`, operand `c`. -/
def memOpNew (op : MemOp) (signed : Bool) (w : Nat) (old c : Nat) : Nat :=
  let b := 8 * w
  let o := old % 2 ^ b
  let x := c % 2 ^ b
  let so := intOf signed b (BitVec.ofNat 64 o)
  let sx := intOf signed b (BitVec.ofNat 64 x)
  match op with
  | .store | .exch => x
  | .add => (o + x) % 2 ^ b
  | .min => if sx < so then x else o
  | .max => if so < sx then x else o
  | .and => o &&& x
  | .or => o ||| x
  | .xor => o ^^^ x
  | .binc => if o < x then (o + 1) % 2 ^ b else o
  | .fadd => (fp32Add (BitVec.ofNat 32 o) (BitVec.ofNat 32 x)).toNat

/-- Applies one crumb to a tile's bytes (R238 step 4). -/
def applyCrumb (data : Sparse 8) (e : Crumb) : Sparse 8 :=
  memWrite data e.off e.width (memOpNew e.op e.signed e.width (bytesAt data e.off e.width) e.val.toNat)

/-- The 4,096 bytes of a tile in main memory. -/
def State.tileMem (s : State) (tile : Nat) : Sparse 8 :=
  (s.hbm.filter (fun kv => kv.1 / 4096 == tile)).map (fun kv => (kv.1 % 4096, kv.2))

/-- Writes a tile's bytes to main memory. -/
def State.putTileMem (s : State) (tile : Nat) (d : Sparse 8) : State :=
  let lo := s.hbm.filter (fun kv => decide (kv.1 < tile * 4096))
  let hi := s.hbm.filter (fun kv => decide ((tile + 1) * 4096 ≤ kv.1))
  { s with hbm := lo ++ (d.filter (fun kv => decide (kv.1 < 4096))).map (fun kv => (tile * 4096 + kv.1, kv.2)) ++ hi }

/-- The tile's bytes as its home slice stands for them: its frame, or main memory with the log applied. -/
def State.tileData (s : State) (tile : Nat) : Sparse 8 :=
  let t := s.tile tile
  if t.st = .resident then t.data else t.log.foldl applyCrumb (s.tileMem tile)

/-- The byte that stands at a place now. -/
def State.peek (s : State) (l : Loc) : Byte :=
  match l with
  | .host pa => memByte s.host pa
  | .blk b off => memByte (s.block b).mem off
  | .hbm pa => if (kfind s.tiles (pa / 4096)).isSome then sget (s.tileData (pa / 4096)) (pa % 4096) else memByte s.hbm pa

/-- The place `n` bytes further on. -/
def Loc.plus (l : Loc) (n : Nat) : Loc :=
  match l with
  | .host pa => .host (pa + n)
  | .hbm pa => .hbm (pa + n)
  | .blk b off => .blk b (off + n)

/-- `n` bytes as they stand now, little-endian. -/
def State.peekN (s : State) (l : Loc) : Nat → Nat
  | 0 => 0
  | n + 1 => (s.peek l).toNat + 256 * s.peekN (l.plus 1) n

/-! ## Lines of main memory (R404 to R407) -/

def State.line (s : State) (pa : Nat) : LineInfo := kget s.lineInfo (pa / 64)

/-- The tag of the key under which slot `key` now encrypts (R407): the slot and its load. -/
def State.keyGen (s : State) (key : Nat) : Nat := 256 * (kget s.keys key).gen + key % 256 + 1

/-- The controllers learn the ECC grade of a page of main memory from a translation of it (R232, R404). A frame that a translation cache
holds at another grade is mapped at two, and what they do with its errors is then undefined (R8, R232). -/
def State.setGrade (s : State) (space frame grade : Nat) : State :=
  match locOf space frame with
  | .hbm pa =>
    let other := fun (x : Xlat) => x.grade != grade && decide (locOf x.space x.frame = .hbm (pa / 2 ^ 16 * 2 ^ 16))
    let two := s.cores.any (fun kv => kv.2.xlat.any other) || s.clusters.any (fun kv => kv.2.xlat.any other)
    { s with grades := sset s.grades (pa / 2 ^ 16) (if two then 3 else BitVec.ofNat 2 grade) }
  | _ => s

/-- An engine with no translation cache reaches offset `off` of a buffer by a walk, and its page's grade is learned (R231, R232). -/
def State.learnPage (s : State) (asid : Nat) (e : BufEnt) (off : Nat) : State :=
  let (space, va) := e.interleave off
  match s.walk asid space (va / 2 ^ 16 * 2 ^ 16) with
  | some (pa, grade) => s.setGrade space pa grade
  | none => s

/-- A line fails a read: it is poisoned, was written under another key, or fails the tree check (R405, R407, R408). A line that was
never written reads under any key. -/
def State.lineBad (s : State) (key l : Nat) : Bool :=
  let x := kget s.lineInfo l
  x.poison || x.forged || (x.keyGen != 0 && x.keyGen != s.keyGen key)

/-- The line's flipped bits are no more; it is poisoned from now on where `bad` says so (R405). -/
def State.clearFlips (s : State) (l : Nat) (bad : Bool) : State :=
  { s with lineInfo := kmod s.lineInfo l (fun x => { x with flips := 0, poison := x.poison || bad }) }

/-- What a controller does with a line of a class (R404 to R406): corrected errors are written back and counted, an uncorrectable one
poisons it and is counted, an undetected one is read as data. -/
def State.applyEcc (s : State) (l : Nat) (c : EccClass) : State :=
  let stack := l * 64 / 2 ^ 36
  match c with
  | .corrected n => if stack < 12 then iter (fun s => s.countMg (0x0104 + 16 * stack)) n (s.clearFlips l false) else s.clearFlips l false
  | .uncorrectable => if stack < 12 then (s.clearFlips l true).countMg (0x0108 + 16 * stack) else s.clearFlips l true
  | .undetected => { s with hbm := flipLine s.hbm l (kget s.lineInfo l).flips }.clearFlips l false
  | _ => s.clearFlips l false

/-- A controller meets a line. Beyond the grade's columns the spec says nothing: one of the three, in no fixed way. -/
def State.meetLine (s : State) (l : Nat) : State :=
  if (kget s.lineInfo l).flips = 0 then s
  else match s.classOf l with
    | .open_ => (s.choose 3).2.applyEcc l (match (s.choose 3).1 with | 0 => .uncorrectable | 1 => .undetected | _ => .corrected 1)
    | c => s.applyEcc l c

/-! ## Fetch (R387) -/

/-- The place of byte `o` of a kernel's code. -/
def State.codeLoc (s : State) (l : Launch) (o : Nat) : Option Loc :=
  match s.bufEnt l.asid (l.codeH % 2 ^ 16) with
  | none => none
  | some e => if s.entBad l.asid (l.codeH % 2 ^ 16) then none else s.bufLoc l.asid e (l.codeOff + o)

/-- The key slot of a kernel's code buffer. -/
def State.codeKey (s : State) (l : Launch) : Nat := ((s.bufEnt l.asid (l.codeH % 2 ^ 16)).getD default).key

/-- The lines that hold the word at a PC. -/
def State.codeLines (s : State) (l : Launch) (pc : Word) : List Nat :=
  ((List.range 12).filterMap (fun k => match s.codeLoc l (pc.toNat + k) with
    | some (.hbm pa) => if hbmExists pa then some (pa / 64) else none
    | _ => none)).eraseDups

/-- The byte `o` of a kernel's code, which is read from main memory directly. A line that fails its read gives none (R387, R405, R407);
the spec names no other place of a fetchable PC that cannot be read, and a page that is not present, the host's memory and an address
on no stack give none too (DESIGN CHOICE, log 100). -/
def State.codeByte (s : State) (l : Launch) (o : Nat) : Option Byte :=
  match s.codeLoc l o with
  | some (.hbm pa) =>
    if hbmExists pa && !s.lineBad (s.codeKey l) (pa / 64) && (s.classOf (pa / 64) != .uncorrectable) then
      some (memByte (s.seenMem pa 1) pa) else none
  | _ => none

/-- A PC is fetchable (R52). -/
def fetchable (kwords : Nat) (pc : Word) : Bool := pc.toNat % 12 == 0 && decide (pc.toNat < 12 * kwords)

/-- The word at a PC of a kernel; none raises FETCH (R52, R387). A word that was written while its launch ran is undefined (R8, R387). -/
def State.fetchAt (s : State) (l : Launch) (pc : Word) : Option IWord :=
  if !fetchable l.kwords pc then none
  else
    let bs := (List.range 12).map (fun k => s.codeByte l (pc.toNat + k))
    if bs.all Option.isSome then
      match kfind l.rewritten (pc.toNat / 12) with
      | some n => some ((Config.freeBits l.asid n).setWidth 96)
      | none => some (wordOfBytes (bs.map (fun b => b.getD 0)))
    else none

/-- A rewritten word has been fetched: the next fetch of it, by whichever gang, finds another value (R8, R387). -/
def State.refetched (s : State) (lid : Nat) (pc : Word) : State :=
  let l := s.launch lid
  if (kfind l.rewritten (pc.toNat / 12)).isNone then s
  else
    let (n, s) := s.undefCount l.asid
    s.modLaunch lid (fun l => { l with rewritten := kset l.rewritten (pc.toNat / 12) n })

/-! ## Fault records (R207) -/

/-- Posts a record of core `c` on the fault-record path: it takes the core's next SEQ and waits for the ring (R410). -/
def State.post (s : State) (c : Nat) (r : Frec) : Nat × State :=
  let co := s.core c
  (co.seq.toNat, s.setCore c { co with seq := co.seq + 1, recQ := co.recQ ++ [{ r with seq := co.seq.toNat, core := c }] })

/-- The launch of a gang. -/
def State.launchOf (s : State) (gid : Nat) : Launch := s.launch (s.block (s.gang gid).block).launch

/-- A record that concerns a gang. -/
def State.gangRec (s : State) (gid type kind : Nat) (pc : Word) (lanes : Lanes) : Frec :=
  let g := s.gang gid
  { type := type, kind := kind, seq := 0, asid := (s.launchOf gid).asid, core := g.core, gang := g.place, pc := pc,
    lanes := lanes, handle := 0, path := 0, src := 0, code := 0, off := 0 }

/-! ## Waits and release tests -/

/-- Makes a thread ready; an `xacq` or a completion wait is over at its own PC. -/
def Thread.wake (t : Thread) : Thread := { t with st := .ready, wait := .none }

/-- `CheckRelease` (R106). Arrivals still draining (R158) of released threads are dropped. -/
def Gang.checkRelease (g : Gang) (m : Nat) : Gang :=
  let live := sget g.mM m &&& ~~~(g.lanesWith Thread.gone)
  let w := g.lanesWith (fun t => t.st == .waiting && t.wait == .mask m)
  if (sget g.mA m &&& live) = live ∧ w ≠ 0 then
    { g.modLanes w Thread.wake with
      mA := sset g.mA m 0
      drains := g.drains.filter (fun d => !(d.kind == 0 && d.obj == m && w.getLsbD d.lane)) }
  else g

/-- Runs the release test of every mask register (R106, R107). -/
def Gang.checkAll (g : Gang) : Gang := (List.range 12).foldl Gang.checkRelease g

/-- Live threads of a block (R166): not exited and not vacant, those filed in the Sifter included. -/
def State.liveThreads (s : State) (b : Nat) : Nat :=
  let blk := s.block b
  let inGangs := (blk.gangs.map (fun gid =>
    let g := s.gang gid
    (lanesOf (g.lanesWith (fun t => t.st == .ready || t.st == .waiting || t.st == .parked))).length)).sum
  let filed := ((s.core blk.core).bins.map (fun kv => if kv.2.block = b then kv.2.packets.length else 0)).sum
  inGangs + filed

/-- The barrier wait of a thread ends with its generation, or earlier under a partial wait (R166). -/
def Thread.barDone (t : Thread) (b gen count : Nat) (complete : Bool) : Bool :=
  match t.st, t.wait with
  | .waiting, .bar b' gen' part => b' == b && gen' == gen && (complete || (part != 0 && decide (part ≤ count)))
  | _, _ => false

/-- `CheckBar` (R166), partial waits included. -/
def State.checkBar (s : State) (b bar : Nat) : State :=
  let blk := s.block b
  let r := kget blk.bars bar
  let need := if r.n = 0 then s.liveThreads b else r.n
  let complete := r.fixed && decide (need ≤ r.count)
  let s := blk.gangs.foldl (fun s gid => s.modGang gid (fun g =>
    let g := g.modLanes (g.lanesWith (fun t => t.barDone bar r.gen r.count complete)) Thread.wake
    if complete then
      { g.modLanes (g.lanesWith (fun t => t.pend.any (fun p => p.1 == bar)))
          (fun t => { t with pend := t.pend.filter (fun p => p.1 != bar) }) with
        drains := g.drains.filter (fun d => !(d.kind == 1 && d.obj == bar)) }
    else g)) s
  if complete then
    s.modBlock b (fun blk => { blk with bars := kset blk.bars bar { gen := r.gen + 1, count := 0, n := 0, fixed := false } })
  else s

/-- Runs `CheckBar` on the four barriers of a block. -/
def State.checkBars (s : State) (b : Nat) : State := (List.range 4).foldl (fun s bar => s.checkBar b bar) s

/-- The cluster unit that a gang is attached to (R169). -/
def State.clusterOf (s : State) (gid : Nat) : Nat := (s.gang gid).core / 4

/-- The threads that wait for a generation of a named barrier go on (R170). -/
def Gang.wakeNamed (g : Gang) (id gen : Nat) : Gang :=
  g.modLanes (g.lanesWith (fun t => t.st == .waiting && t.wait == .named id gen)) Thread.wake

/-- The completion test of a named barrier (R170). -/
def State.checkNamed (s : State) (cl id : Nat) : State :=
  let c := kget s.clusters cl
  match kfind c.bars id with
  | none => s
  | some r =>
    if r.arrived.length = r.n then
      -- every thread that waits on it, in a gang that has detached since as well
      let s := { s with gangs := kmap s.gangs (fun g => if g.live then g.wakeNamed id r.gen else g) }
      if r.n = 0 then { s with clusters := kset s.clusters cl { c with bars := kdel c.bars id } }
      else
      let r' := { r with arrived := [], issued := [], gen := r.gen + 1 }
      { s with clusters := kset s.clusters cl { c with bars := kset c.bars id r' } }
    else s

/-- The record of a named barrier by number, in whichever cluster unit holds it. -/
def State.namedRec (s : State) (id : Nat) : Option NamedBar := s.clusters.findSome? (fun kv => kfind kv.2.bars id)

/-- `nbdet` for one barrier (R170): the waiters of a gang that detaches wait on. -/
def State.detach (s : State) (cl id gid : Nat) : State :=
  let c := kget s.clusters cl
  match kfind c.bars id with
  | none => s
  | some r =>
    let r' := { r with attached := r.attached.filter (· != gid), arrived := r.arrived.filter (· != gid),
                       issued := r.issued.filter (· != gid), n := r.n - 1 }
    let s := { s with clusters := kset s.clusters cl { c with bars := kset c.bars id r' } }
    (s.modGang gid (fun g => { g with drains := g.drains.filter (fun d => !(d.kind == 2 && d.obj == id)) })).checkNamed cl id

/-! ## The phase cache's marks (R254) -/

/-- A line that some resident gang of the core may still hit (R254). -/
def State.lineKept (s : State) (c : Nat) (l : Line) : Bool :=
  s.gangs.any (fun kv => kv.2.live && kv.2.active && kv.2.core == c && decide (kv.2.acq ≤ l.stamp))

/-- Sets OVF in the resident gangs whose acquire generation is at or below the stamp, `but` excepted. -/
def State.markOvf (s : State) (c stamp : Nat) (but : Option Nat) : State :=
  { s with gangs := s.gangs.map (fun kv =>
      if kv.2.live && kv.2.active && kv.2.core == c && decide (kv.2.acq ≤ stamp) && but != some kv.1
      then (kv.1, { kv.2 with ovf := true }) else kv) }

/-- The marks that the end of every kept copy of a list sets (R254). -/
def State.markCopies (s : State) (c : Nat) (ls : List Line) (but : Option Nat) : State :=
  ls.foldl (fun s ln => if s.lineKept c ln then s.markOvf c ln.stamp but else s) s

/-- Invalidates the core's line that holds a place (R253). -/
def State.dropLine (s : State) (c : Nat) (l : Loc) : State :=
  match l with
  | .hbm pa =>
    match kfind (s.core c).lines (pa / 64) with
    | none => s
    | some ls => (s.markCopies c ls none).modCore c (fun co => { co with lines := kdel co.lines (pa / 64) })
  | _ => s

/-- Updates the core's copies of `w` bytes in place (R253). -/
def State.updateLine (s : State) (c gid : Nat) (l : Loc) (w x : Nat) : State :=
  match l with
  | .hbm pa =>
    match kfind (s.core c).lines (pa / 64) with
    | none => s
    | some ls =>
      (s.markCopies c ls (some gid)).modCore c (fun co =>
        { co with lines := kset co.lines (pa / 64) (ls.map (fun ln => { ln with data := memWrite ln.data (pa % 64) w x })) })
  | _ => s

/-! ## Sending stores (R252, R256, R263) -/

/-- Sends one store-buffer entry to its point; a `.b128` entry is two accesses, low half first (R236). -/
def State.sendEntry (s : State) (gid : Nat) (e : SbEntry) : State :=
  let g := s.gang gid
  let c := g.core
  let halves : List (Nat × Nat × BitVec 128) :=
    if e.width = 16 then [(0, 8, e.val &&& 0xFFFFFFFFFFFFFFFF#128), (8, 8, e.val >>> 64)] else [(0, e.width, e.val)]
  let s := s.updateLine c gid e.loc e.width e.val.toNat
  let first := s.next + 1
  halves.foldl (fun s h =>
    let (id, s) := s.fresh
    let r : Req := { id := id, src := c, gid := gid, lane := 0, kind := .store, op := .store, signed := false,
                     loc := e.loc.plus h.1, width := h.2.1, val := h.2.2, cmp := 0, path := .t, load := 0, bytes := 0, shift := 0,
                     acked := true, pin := e.pin, key := e.key, handle := e.handle, off := e.off + h.1, lanes := e.lanes, pc := e.pc, serial := 0, order := 0, direct := false
                     half := if h.1 = 0 then 0 else first }
    let s := { s with reqs := s.reqs ++ [r] }
    s.modGang gid (fun g => { g with out := g.out ++ [(id, false)] })) s

/-- Sends every entry of a gang's store buffer, in an order that is not fixed (R256). -/
def State.sendAll (s : State) (gid : Nat) : Nat → State
  | 0 => s
  | n + 1 =>
    let sb := (s.gang gid).sb
    if sb.isEmpty then s
    else
      let (k, s) := s.choose sb.length
      match sb[k]? with
      | none => s
      | some e => ((s.modGang gid (fun g => { g with sb := g.sb.eraseIdx k })).sendEntry gid e).sendAll gid n

/-- The sending step of `phase.rel` (R263). -/
def State.release (s : State) (gid : Nat) : State := s.sendAll gid (s.gang gid).sb.length

/-- `phase.acq` (R263). -/
def State.acquire (s : State) (gid : Nat) : State :=
  let c := (s.gang gid).core
  let n := (s.core c).acqGen + 1
  (s.modCore c (fun co => { co with acqGen := n })).modGang gid (fun g => { g with acq := n, logged := [] })

/-- The stores that stand in the buffer of a gang whose last thread has gone leave as by `phase.rel`, and the gang ends after their
acknowledgement (R109, R263). -/
def State.closeGang (s : State) (gid : Nat) : State :=
  if (s.gang gid).sb.isEmpty then s else (s.release gid).modGang gid (fun g => { g with closing := true })

/-! ## Ending a block (R219) -/

/-- A replay whose checks have no result yet: its threads are still parked (R205, R208). -/
def Held.parked (h : Held) : Bool := h.bundle.replay && (match h.cond with | .none | .walk _ => true | _ => false)

/-- What parked the lanes of a gang, the replay buffer's entries first: the lanes, the word's PC, and what its checks found. -/
def Gang.parkings (g : Gang) : List (Lanes × Word × Why) :=
  g.replay.map (fun r => (r.lanes, r.pc, { kind := r.kind, handle := r.handle, off := r.off, path := r.path })) ++
    g.fails.map (fun f => (f.lanes ||| f.told, f.pc, { kind := f.kind, handle := f.handle, off := f.off, path := f.path })) ++
    (g.held.filter Held.parked).map (fun h => (h.bundle.mask, h.bundle.pc, h.bundle.why))

/-- The final FAULT record of a gang (R219): LANES names every parked lane, and those of failed checks that no record has named; the rest is
what the lowest of them met (R205). -/
def State.lastRecord (s : State) (gid : Nat) : State :=
  let g := s.gang gid
  let lanes := g.lanesWith (fun t => t.st == .parked) ||| g.fails.foldl (fun m f => m ||| f.told) 0
  let all := g.parkings
  match (match all.find? (fun p => p.1.getLsbD (lowLane lanes)) with | some p => some p | none => all.head?) with
  | none => s
  | some (_, pc, w) => (s.post g.core { s.gangRec gid 1 w.kind pc lanes with handle := w.handle % 2 ^ 16, path := w.path, off := w.off }).2

/-- KILL or escalation ends a block: its gangs stop, their buffered stores leave, the parked lanes are reported in a final
FAULT record and the replay buffers empty; what is outstanding completes by its own events, and GANG_END then ends the gangs. -/
def State.killBlock (s : State) (b : Nat) : State :=
  let blk := s.block b
  let s := blk.gangs.foldl (fun s gid =>
    let g := s.gang gid
    if !g.live then s
    else
      let s := (s.closeGang gid).lastRecord gid
      s.modGang gid (fun g => { g.modLanes (g.lanesWith (fun t => !t.gone && t.st != .filed))
          (fun t => { t with st := .exited, wait := .none, inTrap := false }) with
        stop := .ending, replay := [], held := [], drains := [], fails := [], acks := [], arm := none
        loads := g.loads.filter (fun l => l.tag != 18) })) s
  -- R111 names a draw as the moment at which waiting threads file: the bins that this frees file none by themselves (log 106)
  let s := s.modCore blk.core (fun c => { c with bins := c.bins.filter (fun kv => kv.2.block != b) })
  let s := s.modLaunch blk.launch (fun l => { l with failed := true })
  s.modBlock b (fun k => { k with ending := true, failed := true })

/-! ## Taking an exception (R199 to R201) -/

/-- The address of a queue's descriptor (R383), and its 64 bytes. One that cannot be read (R405) stands as zeros: it is not valid, and has
no trap table (DESIGN CHOICE, log 142). -/
def State.qaddr (s : State) (q : Nat) : Nat := s.mg64 0x0048 + 64 * q
def State.qdesc (s : State) (q : Nat) : Nat := if s.tableBad (s.qaddr q) 64 then 0 else s.hbmRead (s.qaddr q) 64

/-- A place in main memory itself, outside a resident tile, cannot be read (R405). -/
def State.placeBad (s : State) (l : Loc) (n : Nat) : Bool :=
  match l with
  | .hbm pa => (s.tile (pa / 4096)).st != .resident && s.tableBad pa n
  | _ => false

/-- A word of such a place. -/
def State.tableWord (s : State) (l : Loc) : Nat :=
  match l with
  | .hbm pa => if (kfind s.tiles (pa / 4096)).isSome then s.peekN l 4 else s.hbmRead pa 4
  | _ => s.peekN l 4

/-- The handler's entry in the queue's trap table (R199); none escalates, and so does one that cannot be read (R405; DESIGN CHOICE, log 142). -/
def State.trapEntry (s : State) (gid cause : Nat) : Option Word :=
  let l := s.launchOf gid
  let d := s.qdesc l.queue
  let idx := bitsOf d 389 374
  if cause = 0 ∨ 0x0A < cause ∨ s.tableBad (s.qaddr l.queue) 64 then none
  else match s.bufEnt l.asid idx with
    | none => none
    | some e =>
      if s.entBad l.asid idx then none
      else match s.bufLoc l.asid e (bitsOf d 373 342 + 4 * cause) with
      | none => none
      | some loc =>
        let w := s.tableWord loc
        if s.placeBad loc 4 ∨ w = 0xFFFFFFFF then none else some (BitVec.ofNat 32 w)

/-- `last` is none on a slot once its gang stops or leaves (R192, R195). -/
def State.clearLast (s : State) (gid : Nat) : State :=
  let g := s.gang gid
  s.modCore g.core (fun c => { c with slots := kmod c.slots (g.place / 48) (fun sl =>
    { sl with last := if sl.last = some gid then none else sl.last,
              rrLast := if sl.rrLast = some gid then none else sl.rrLast }) })

/-- A trap in trap state, or one with no handler: an ESCALATE record, and the block ends (R201). -/
def State.escalate (s : State) (gid cause code : Nat) (pc : Word) (mask : Lanes) (mf : Option FailSet) : State :=
  let r := s.gangRec gid 3 cause pc mask
  let r := { r with code := if cause = 0x05 then code else 0 }
  let r := match mf with
    | some f => { r with handle := f.handle, path := f.path, off := f.off }
    | none => r
  let s := (s.post (s.gang gid).core r).2
  s.killBlock (s.gang gid).block

/-- A thread enters the handler (R200): its PC, wait, block state and predicates are saved. -/
def Thread.enterTrap (t : Thread) (p : BitVec 7) (entry : Word) : Thread :=
  { t with
    savedPc := t.pc
    savedWait := match t.wait with | .comp => .none | w => w
    savedP := p, savedBlk := t.blk
    st := .ready, wait := .none, pc := entry, blk := none, inTrap := true }

/-- The predicates of a lane, bit k for pk. -/
def Regs.preds (r : Regs) (lane : Nat) : BitVec 7 :=
  (List.range 7).foldl (fun p k => if (sget r.p k).getLsbD lane then p ||| (1#7 <<< k) else p) 0

/-- Sets the predicates of a lane. -/
def Regs.setPreds (r : Regs) (lane : Nat) (x : BitVec 7) : Regs :=
  { r with p := (List.range 7).foldl (fun m k =>
      sset m k (if x.getLsbD k then sget m k ||| laneBit lane else sget m k &&& ~~~laneBit lane)) r.p }

/-- The cycle after the last beat of the gang's latest bundle, while its slot's latest bundle is its own (R102, R195). -/
def State.beatsEnd (s : State) (gid : Nat) : Nat :=
  let g := s.gang gid
  let sl := kget (s.core g.core).slots (g.place / 48)
  if sl.last = some gid then sl.busy else 0

/-- The bundles in completion waits, and the writes that they keep outstanding, are no more; replays that are parked stay (R204). -/
def Gang.dropWaits (g : Gang) : Gang :=
  { g with
    held := g.held.filter Held.parked
    pend := g.pend.filter (fun p => !(g.held.any (fun h => !h.parked && h.bundle.pid == p.id && p.done == none))) }

/-- A lane leaves its `waddr`: with the last one, the outstanding write of D ends. -/
def Gang.leaveWaddr (g : Gang) (lane load : Nat) : Gang :=
  let loads := g.loads.map (fun l => if l.id = load then { l with lanes := l.lanes &&& ~~~laneBit lane } else l)
  let ended := loads.any (fun l => l.id == load && l.lanes == 0)
  let pend := if ended then g.pend.filter (fun p => !(p.done == none && p.id == load)) else g.pend
  { g with loads := loads.filter (fun l => !(l.id == load && l.lanes == 0)), pend := pend }

/-- What a thread's wait had under way goes with it: the arrival of an `mwait` that still drains, or a `waddr`'s read. Of two arrivals of
the thread at one mask, the one that belongs to its saved wait stays. -/
def Gang.leaveWait (g : Gang) (lane : Nat) : Gang :=
  match (g.thread lane).wait with
  | .mask m =>
    let mine := fun (d : Drain) => d.kind == 0 && d.obj == m && d.lane == lane
    let keep := if (g.thread lane).inTrap ∧ (g.thread lane).savedWait = .mask m then (g.drains.filter mine).take 1 else []
    { g with drains := g.drains.filter (fun d => !mine d || keep.contains d) }
  | .waddr w => g.leaveWaddr lane w.load
  | _ => g

/-- Takes a trap of the gang (R200): `pc` is the word that raised it, `mask` TRAP.MASK. The saved PCs are the threads' own. -/
def State.takeTrap (s : State) (gid cause sub : Nat) (info : Word) (pc : Word) (mask : Lanes) (mf : Option FailSet) : State :=
  let g := s.gang gid
  match (if g.trap then none else s.trapEntry gid cause) with
  | none => s.escalate gid cause info.toNat pc mask mf
  | some entry =>
    let part := g.lanesWith (fun t => t.st == .ready || t.st == .waiting)
    let g' := (lanesOf part).foldl (fun g l => g.modThread l (fun t => t.enterTrap (g.regs.preds l) entry)) g
    (s.setGang gid { g' with
      trap := true
      tCause := BitVec.ofNat 8 cause, tSub := BitVec.ofNat 8 sub, tPc := pc, tInfo := info, tMask := mask, trapAt := g.serial
      held := g.dropWaits.held
      pend := g.dropWaits.pend.filter (fun p => !p.fixed)
      stallTo := s.beatsEnd gid, starve := 0 }).clearLast gid

/-- Illegal-operation, precise (R159, R198): no effect, the saved PC is the word. -/
def State.illop (s : State) (gid : Nat) (pc : Word) (mask : Lanes) : State := s.takeTrap gid 0x02 0 0 pc mask none

/-- Illegal-instruction (R74, R198): TRAP.MASK holds every thread of the bundle. -/
def State.illegal (s : State) (gid : Nat) (pc : Word) (mask : Lanes) (c : SubCause) : State :=
  s.takeTrap gid 0x01 c.code (BitVec.ofNat 32 c.code) pc mask none

/-- A thread's block state after one more word (R68). -/
def Blk.step (b : Blk) : Option Blk :=
  if b.left ≤ 1 then none else some { b with left := b.left - 1, pat := b.pat >>> 1 }

/-- A thread goes on at the word after its own (R53, R68). -/
def Thread.skip (t : Thread) : Thread := { t with pc := t.pc + 12, blk := t.blk.bind Blk.step }

/-- Whether a wait that a thread re-enters after `tret` is already over (R182). -/
def State.waitOver (s : State) (gid : Nat) (t : Thread) : Bool :=
  match t.savedWait with
  | .none => true
  | .bar b gen part =>
    !(t.pend.contains (b, gen)) ||
      (part != 0 && decide (part ≤ (kget (s.block (s.gang gid).block).bars b).count))
  | .named id gen =>
    match s.namedRec id with
    | none => true
    | some r => r.gen != gen
  | .sleep wake acq => acq == 0 && decide (wake ≤ s.now (s.gang gid).core)
  | .xacq => (s.gang gid).ext == .held || (s.gang gid).ext == .none
  | _ => false

/-- A handler thread stands where it was saved (R182, R203): its block state, its PC and its wait are restored, and the release test of
the wait runs once. A `waddr` whose first read is still out waits for it. -/
def State.returnThread (s : State) (gid : Nat) (t : Thread) : Thread :=
  let ended := s.waitOver gid t
  let granted := t.savedWait == .xacq && (s.gang gid).ext == .held
  let t := { t with pc := t.savedPc, blk := t.savedBlk, inTrap := false
                    st := if ended then .ready else .waiting
                    wait := if ended then .none else t.savedWait }
  if granted then t.skip else t

/-- Returns from the handler (R182, R203): every thread that takes part in it and is still there is restored, one that a fault of the
handler has parked as well, whose access then has no effect but for its record (R205). The handler's own waits are over. -/
def State.trapReturn (s : State) (gid : Nat) : State :=
  let here := (s.gang gid).lanesWith (fun t => t.inTrap)
  let g := ((lanesOf here).foldl Gang.leaveWait (s.gang gid)).dropWaits
  let back := g.lanesWith (fun t => t.inTrap && !t.gone && t.st != .filed)
  let parked := g.lanesWith (fun t => t.inTrap && t.st == .parked)
  let g1 := (lanesOf back).foldl (fun g l =>
    { g.setThread l (s.returnThread gid (g.thread l)) with regs := g.regs.setPreds l (g.thread l).savedP }) g
  let g2 := g1.modLanes (g1.lanesWith (fun t => t.inTrap)) (fun t => { t with inTrap := false })
  s.setGang gid (Gang.checkAll { g2 with
    trap := false
    fails := g2.fails.map (fun f => { f with lanes := f.lanes &&& ~~~parked, told := f.told ||| (f.lanes &&& parked) })
    replay := g2.replay.map (fun r => { r with lanes := r.lanes &&& ~~~parked }) })

end Sys2Proof.Machine
end

