-- ==== Sys2Proof/Machine/Operands.lean ====
section
/-! DEFINITION. Operand forms: which registers an instruction reads and writes, how a thread's operands are read (R31 to
R33, R54, R57, R59, R124, R188), guards and block states (R53, R68), beats (R102, R103, R184), and results with their
taint and pending bits (R125, R186, R187). -/

namespace Sys2Proof.Machine

/-! ## Registers that an instruction names -/

/-- The register numbers of an operand field: v i at i, s i at 256 + i, p i at 512 + i, q i at 768 + i. -/
def opCodes (n : Nat) (o : Opnd) : List Nat :=
  match o with
  | .v i => if i = 255 then [] else (List.range n).filterMap (fun k => if i.toNat + k < 255 then some (i.toNat + k) else none)
  | .s i => if 64 ≤ i.toNat then [] else (List.range n).filterMap (fun k => if i.toNat + k < 64 then some (256 + i.toNat + k) else none)
  | .p i => if 7 ≤ i.toNat then [] else [512 + i.toNat]
  | .q i => [768 + i.toNat]

/-- The predicate that a put or `quant` names in its immediate (R343, R311). -/
def pdCode (k : Nat) : List Nat := if k < 7 then [512 + k] else []

/-- The predicate index of an I-form `quant`. -/
def quantPd (f : Fields) : Nat := (f.imm.extractLsb' 16 3).toNat

/-- The predicate index of a put. -/
def putPd (f : Fields) : Nat := (f.imm.extractLsb' 0 3).toNat

/-- The score register of `bputk`, in the class of k (R343). -/
def putSc (f : Fields) : Opnd :=
  match f.c with
  | .s _ => .s (f.imm.extractLsb' 8 8)
  | _ => .v (f.imm.extractLsb' 8 8)

/-- The guard's predicate. -/
def guardCodes (g : BitVec 4) : List Nat :=
  let k := (g &&& 7).toNat
  if k < 7 then [512 + k] else []

/-- The slab whose configuration a control number names (R308). -/
def cfgCode (n : Nat) : List Nat := if 0x50 ≤ n ∧ n < 0x60 then [768 + (n - 0x50)] else []

/-- The registers that an instruction reads beside its four fields: `sel`'s predicate, the v register that `vrd` names in its
immediate, `bputk`'s score, what `reform` carries (R110). -/
def Instr.moreReads (i : Instr) : List Nat :=
  match i with
  | .sel f => [512 + f.opx.toNat]
  | .vrd f => if f.immForm then opCodes 1 (.v (f.imm.extractLsb' 0 8)) else []
  | .bputk f => opCodes 1 (putSc f)
  | .reform f => (List.range (f.imm.extractLsb' 0 5).toNat) ++ (List.range 7).map (512 + ·)
  | .rdsp f => cfgCode f.ctlNum
  | _ => []

/-- The registers that an instruction writes beside D: the predicates of puts and of I-form `quant`, and those that `tret` restores (R203). -/
def Instr.moreWrites (i : Instr) : List Nat :=
  match i with
  | .bput f | .bputk f | .bputv f => pdCode (putPd f)
  | .quant f => if f.slot = 1 then pdCode (quantPd f) else []
  | .wrsp f => cfgCode f.ctlNum
  | .tret _ => (List.range 7).map (512 + ·)
  | _ => []

/-- The places of A's group that a copy with these block-memory ends does not read (R293). -/
def Instr.skipA (i : Instr) : List Nat :=
  match i with
  | .cp f => (if f.mod.getLsbD 0 then [0] else []) ++ (if f.mod.getLsbD 1 then [1] else [])
  | _ => []

/-- The places of B's group that a copy with a block-memory end does not read (R297, R325). -/
def Instr.skipB (i : Instr) : List Nat :=
  match i with
  | .cpq f => if f.mod.getLsbD 1 then [0] else []
  | .swb f => if f.opx.getLsbD 0 then [0] else []
  | _ => []

/-- The places of C's pair that `swb` does not read: the amax word in block memory has an offset alone (R325). -/
def Instr.skipC (i : Instr) : List Nat :=
  match i with
  | .swb f => if f.sco = 1 then [1] else []
  | _ => []

/-- The registers that a role reads at an operand field, but for the places of its group in `skip`. -/
def Role.reads (r : Role) (o : Opnd) (skip : List Nat) : List Nat :=
  if r.rd then
    (if skip.isEmpty then opCodes r.regs o
     else (List.range r.regs).flatMap (fun k => if skip.contains k then [] else (opCodes r.regs o)[k]?.toList))
  else []

/-- Registers read as operands. -/
def Instr.readsOp (i : Instr) : List Nat :=
  let f := i.fields
  let sh := i.shape
  Role.reads sh.d f.d [] ++ Role.reads sh.a f.a (Instr.skipA i) ++ Role.reads sh.b f.b (Instr.skipB i) ++
    Role.reads sh.c f.c (Instr.skipC i) ++ Instr.moreReads i

/-- Registers read, the guard's predicate included (R53). -/
def Instr.reads (i : Instr) : List Nat := Instr.readsOp i ++ guardCodes i.fields.guard

/-- Registers written. -/
def Instr.writes (i : Instr) : List Nat :=
  let f := i.fields
  let sh := i.shape
  (if sh.d.wr then opCodes sh.d.regs f.d else []) ++ (if sh.a.wr then opCodes sh.a.regs f.a else []) ++
    (if sh.c.wr then opCodes sh.c.regs f.c else []) ++ Instr.moreWrites i

/-! ## Reading -/

/-- The registers as a bundle whose first beat is in cycle `t` reads them: a fixed-latency result that is not yet
readable gives the value from before (R188). -/
def Gang.view (g : Gang) (t : Nat) : Regs :=
  g.pend.foldl (fun r p =>
    if p.fixed && (match p.done with | some d => decide (t < d) | none => false) then
      p.old.foldl (fun r (lv : Nat × Word) =>
        if p.reg < 256 then { r with v := sset r.v (32 * p.reg + lv.1) lv.2 }
        else if p.reg < 512 then { r with s := sset r.s (p.reg - 256) lv.2 }
        else
          let m := sget r.p (p.reg - 512)
          { r with p := sset r.p (p.reg - 512) (if lv.2 = 0 then m &&& ~~~laneBit lv.1 else m ||| laneBit lv.1) }) r
    else r) g.regs

/-- The registers that the current bundle reads: those read at issue, for a bundle resumed after a wait. -/
def State.view (s : State) : Regs :=
  match s.cur.snap with
  | some r => r
  | none => (s.gang s.cur.gid).view s.cur.t

/-- A special register (R32, R416). What a word reads of the cycle, the core and the latch is what they gave when it was issued. -/
def State.special (s : State) (gid lane i : Nat) : Word :=
  let g := s.gang gid
  let b := s.block g.block
  let l := s.launch b.launch
  match i with
  | 64 => (g.thread lane).tid
  | 65 => BitVec.ofNat 32 lane
  | 66 => BitVec.ofNat 32 g.idx
  | 67 => BitVec.ofNat 32 b.idx
  | 68 => BitVec.ofNat 32 b.clu
  | 69 => BitVec.ofNat 32 b.stk
  | 70 => 0
  | 71 => BitVec.ofNat 32 b.ngang
  | 72 => BitVec.ofNat 32 l.nblk
  | 73 => BitVec.ofNat 32 l.nclu
  | 74 => BitVec.ofNat 32 l.nstk
  | 75 => BitVec.ofNat 32 s.cur.iss.core
  | 76 => BitVec.ofNat 32 s.cur.iss.clk
  | 77 => s.cur.iss.hi
  | _ => 0

/-- One 32-bit register of an operand, `k` places after the one that the field names. The 64-bit source `sp.clk` is the counter (R124);
any other even special register of a pair, and one at which a group of four begins, is read as that index and the next ones (DESIGN CHOICE,
log 105). -/
def State.readReg (s : State) (r : Regs) (lane k : Nat) (o : Opnd) : Word :=
  match o with
  | .v i => if i = 255 then 0 else sget r.v (32 * (i.toNat + k) + lane)
  | .s i => if i.toNat < 64 then sget r.s (i.toNat + k)
            else if i.toNat = 76 ∧ k = 1 then BitVec.ofNat 32 (s.cur.iss.clk / 2 ^ 32)
            else s.special s.cur.gid lane (i.toNat + k)
  | .p i => if i.toNat = 7 then 1 else if (sget r.p i.toNat).getLsbD lane then 1 else 0
  | .q _ => 0

/-- An operand of one register, or of a 64-bit pair (R33). -/
def State.readOp (s : State) (r : Regs) (lane : Nat) (wide : Bool) (o : Opnd) : BitVec 64 :=
  (s.readReg r lane 0 o).setWidth 64 ||| (if wide then (s.readReg r lane 1 o).setWidth 64 <<< 32 else 0)

/-- Up to four registers as one value, the lowest register lowest. -/
def State.readGroup (s : State) (r : Regs) (lane n : Nat) (o : Opnd) : BitVec 128 :=
  (List.range n).foldl (fun x k => x ||| ((s.readReg r lane k o).setWidth 128 <<< (32 * k))) 0

/-- An I-form immediate (R57): sign-extended in a 64-bit form. -/
def immOp (t : BitVec 5) (imm : Word) : BitVec 64 := if tyWide t then imm.signExtend 64 else imm.setWidth 64

/-! ## Guards (R53) and block states (R68) -/

/-- A thread acts: its block position is active, or its guard holds. -/
def threadActs (r : Regs) (g : BitVec 4) (t : Thread) (lane : Nat) : Bool :=
  match t.blk with
  | some b => b.pat.getLsbD 0 == b.b
  | none =>
    let k := (g &&& 7).toNat
    let v := if k = 7 then true else (sget r.p k).getLsbD lane
    if g.toNat < 8 then v else !v

/-- The executing threads of the current bundle. -/
def State.execLanes (s : State) (f : Fields) : Lanes :=
  match s.cur.exec with
  | some m => m &&& s.cur.mask
  | none =>
    let g := s.gang s.cur.gid
    let r := s.view
    lanesFrom ((lanesOf s.cur.mask).filter (fun l => threadActs r f.guard (g.thread l) l))

/-- The threads of a set move past the current word. -/
def State.advance (s : State) (m : Lanes) : State := s.modGang s.cur.gid (fun g => g.modLanes m Thread.skip)

/-- The whole bundle moves past the current word. -/
def State.retire (s : State) : State := s.advance s.cur.mask

/-! ## Beats (R102, R103, R184) -/

/-- The form is uniform (R58, R60, R184). -/
def Instr.uniform (i : Instr) : Bool :=
  let op := i.op.toNat
  let slot := i.fields.slot
  match i with
  | .mma _ | .scfg _ | .szero _ | .swb _ => true
  | .samax f | .bexp f => (match f.d with | .s _ => true | _ => false)
  | _ =>
    if op < 0x100 then slot == 2 || slot == 3
    else if 0x180 ≤ op ∧ op < 0x200 then slot == 1
    else if 0x280 ≤ op ∧ op < 0x2E0 then slot == 3
    else false

/-- The vector lane operations and `quant`, which always take two beats (R103, R311). -/
def Instr.twoBeats (i : Instr) : Bool :=
  match i with
  | .shfl _ | .lscan _ | .match_ _ | .quant _ => true
  | .vote f | .lred f => !f.uni
  | _ => false

/-- How many cycles a bundle occupies its slot. -/
def beatsOf (i : Instr) (e : Lanes) : Nat :=
  if Instr.uniform i then 1
  else if Instr.twoBeats i then 2
  else if (e &&& 0xFFFF) ≠ 0 ∧ (e >>> 16) ≠ 0 then 2 else 1

/-- The cycle of the current bundle's last beat. -/
def State.lastBeat (s : State) (i : Instr) (e : Lanes) : Nat := s.cur.t + beatsOf i e - 1

/-! ## Taint (R125, R250) -/

/-- The union of the taints of a list of registers. -/
def Gang.taintOf (g : Gang) (codes : List Nat) : Taint := codes.foldl (fun t c => t ||| sget g.taint c) 0

/-- The taint of the guard and of the block snapshots of the executing threads (R53, R68). -/
def Gang.guardTaint (g : Gang) (guard : BitVec 4) (e : Lanes) : Taint :=
  if e = 0 then 0
  else (lanesOf e).foldl (fun t l => t ||| (match (g.thread l).blk with | some b => b.taint | none => 0)) (g.taintOf (guardCodes guard))

/-- The new taint of what an instruction writes (R125). -/
def Gang.newTaint (g : Gang) (i : Instr) (e : Lanes) : Taint :=
  g.taintOf (Instr.readsOp i) ||| g.guardTaint i.fields.guard e

/-- The mark SAT of a taint. -/
abbrev satMark : Taint := 1#17 <<< 16

/-- SAT stands nowhere while the gang has no load outstanding (R250). -/
def Gang.standing (g : Gang) (t : Taint) : Taint := if g.loads.any (fun l => decide (l.tag ≤ 16)) then t else t &&& ~~~satMark

/-- Sets the taint of the registers written under R125. -/
def Gang.setTaint (g : Gang) (codes : List Nat) (e : Lanes) (t : Taint) : Gang :=
  let t := g.standing t
  let all := (g.lanesWith (fun t => !t.gone)) &&& ~~~e == 0
  { g with taint := codes.foldl (fun m c =>
      sset m c (if (256 ≤ c && decide (c < 512)) || all then t else sget m c ||| t)) g.taint }

/-! ## Writing -/

/-- Writes one 32-bit register in one lane; `vz` discards (R54). -/
def Regs.writeReg (r : Regs) (lane k : Nat) (o : Opnd) (x : Word) : Regs :=
  match o with
  | .v i => if i = 255 then r else { r with v := sset r.v (32 * (i.toNat + k) + lane) x }
  | .s i => { r with s := sset r.s (i.toNat + k) x }
  | .p i =>
    let m := sget r.p i.toNat
    { r with p := sset r.p i.toNat (if x.getLsbD 0 then m ||| laneBit lane else m &&& ~~~laneBit lane) }
  | .q _ => r

/-- Writes `n` registers in one lane. -/
def Regs.writeGroup (r : Regs) (lane n : Nat) (o : Opnd) (x : BitVec 128) : Regs :=
  (List.range n).foldl (fun r k => r.writeReg lane k o ((x >>> (32 * k)).setWidth 32)) r

/-- The value of register `c` in a lane, predicates as 0 or 1. -/
def Regs.codeVal (r : Regs) (c lane : Nat) : Word :=
  if c < 256 then sget r.v (32 * c + lane)
  else if c < 512 then sget r.s (c - 256)
  else if (sget r.p (c - 512)).getLsbD lane then 1 else 0

/-- An outstanding write is not over in a cycle. -/
def Pend.stands (p : Pend) (now : Nat) : Bool := match p.done with | some d => decide (now < d) | none => true

/-- Adds outstanding writes of registers (R187): those of fixed latency keep the old values (R188). Writes that still stand stay: a
replayed load may write a register for which another lane's load is still out (R209). -/
def Gang.addPend (g : Gang) (codes : List Nat) (lanes : List Nat) (done : Option Nat) (id now : Nat) (fixed : Bool) : Gang :=
  { g with pend :=
      g.pend.filter (fun p => p.stands now) ++
      codes.map (fun c => { reg := c, done := done, id := id, fixed := fixed,
                            old := if fixed then (if 256 ≤ c ∧ c < 512 then [(0, g.regs.codeVal c 0)]
                                                  else lanes.map (fun l => (l, g.regs.codeVal c l))) else [] }) }

/-- An operand group that begins at an index and is `n` registers long holds `sp.clk`. -/
def namesClk (n : Nat) (o : Opnd) : Bool := match o with | .s i => decide (i.toNat ≤ 76) && decide (76 < i.toNat + n) | _ => false

/-- The instruction reads `sp.clk`. -/
def Instr.readsClk (i : Instr) : Bool :=
  let f := i.fields
  let sh := i.shape
  (sh.a.rd && namesClk sh.a.regs f.a) || (sh.b.rd && namesClk sh.b.regs f.b) || (sh.c.rd && namesClk sh.c.regs f.c)

/-- Reading `sp.clk` latches the high half of the counter for `sp.clkh` (R416), once for each issue of a word. A word that reads both
gets the latch from before its own read (DESIGN CHOICE, log 109). -/
def State.latchClk (s : State) (i : Instr) (e : Lanes) : State :=
  if Instr.readsClk i && e != 0 && s.cur.snap.isNone then
    s.modGang s.cur.gid (fun g => { g with clkh := BitVec.ofNat 32 (s.cur.iss.clk / 2 ^ 32) })
  else s

/-- A result of the current bundle: the values per lane (one for a uniform destination), written to D at once, with the
taint of R125 and an outstanding write of latency `lat` (R186). -/
def State.writeBack (s : State) (i : Instr) (e : Lanes) (n : Nat) (vals : List (Nat × BitVec 128)) (lat : Nat) (fixed : Bool) : State :=
  let o := i.fields.d
  let codes := opCodes n o
  let last := s.lastBeat i e
  s.modGang s.cur.gid (fun g =>
    let t := g.newTaint i e
    let g := g.addPend codes (vals.map Prod.fst) (some (last + lat)) 0 s.cur.t fixed
    let g := { g with regs := vals.foldl (fun r (v : Nat × BitVec 128) => r.writeGroup v.1 n o v.2) g.regs }
    g.setTaint codes e t)

end Sys2Proof.Machine
end

