-- ==== Sys2Proof/Machine/Flags.lean ====
section
/-! DEFINITION. The arithmetic flags and traps (R84 to R86), and the one shape that every arithmetic instruction has: read
the sources of each executing thread, compute, write the results, set the flags, move on, trap where a flag is enabled. -/

namespace Sys2Proof.Machine

/-- Ends an arithmetic instruction: the bundle moves past the word, the flags are set (R85), and an enabled one traps
before the gang issues again (R86, R198). -/
def State.finishArith (s : State) (e : Lanes) (fl : Flags) : State :=
  let gid := s.cur.gid
  let s := s.retire.modGang gid (fun g => { g with flags := g.flags ||| fl })
  if fl &&& (s.gang gid).ten ≠ 0 then s.takeTrap gid 0x03 0 (fl.setWidth 32) s.cur.pc e none else s

/-- Results of the executing threads: one per thread of a vector form, one in all for a uniform form (R60), which reads
per-thread values from the lowest executing lane (R124). A predicate result of a uniform form goes to every executing thread. -/
def perThread (uni toPred : Bool) (e : Lanes) (fn : Nat → BitVec 64 × Flags) : List (Nat × BitVec 128) × Flags :=
  if e = 0 then ([], 0)
  else if uni then
    let r := fn (lowLane e)
    ((if toPred then lanesOf e else [lowLane e]).map (fun l => (l, r.1.setWidth 128)), r.2)
  else
    let rs := (lanesOf e).map (fun l => (l, fn l))
    (rs.map (fun r => (r.1, r.2.1.setWidth 128)), rs.foldl (fun f r => f ||| r.2.2) 0)

/-- The second source: the immediate in an I form (R57, R121). -/
def State.srcB (s : State) (f : Fields) (r : Regs) (lane : Nat) : BitVec 64 :=
  if f.immForm then immOp f.ty f.imm else s.readOp r lane (tyWide f.ty) f.b

/-- The third source: D itself in layout 3I (R121). -/
def State.srcC (s : State) (f : Fields) (r : Regs) (lane : Nat) : BitVec 64 :=
  if f.immForm then s.readOp r lane false f.d else s.readOp r lane false f.c

/-- An arithmetic instruction of fixed latency `lat` (R121, R125, R126, R186) whose effect on one thread is `fn`. -/
def arithLane (i : Instr) (lat : Nat) (fn : State → Regs → Nat → BitVec 64 × Flags) (s : State) : Out :=
  let f := i.fields
  let e := s.execLanes f
  let r := s.view
  let toPred := match f.d with | .p _ => true | _ => false
  let res := perThread f.uni toPred e (fn s r)
  let s := if e = 0 then s else (s.writeBack i e (if tyWide f.ty then 2 else 1) res.1 lat true).latchClk i e
  .next (s.finishArith e res.2)

/-- An arithmetic instruction of layouts 1R, 2R, 3R, 2I or 3I (R121) that computes `fn` of its sources a, b and c. -/
def arith (i : Instr) (lat : Nat) (fn : AluFn) (s : State) : Out :=
  let f := i.fields
  arithLane i lat (fun s r lane => fn (s.readOp r lane (tyWide f.ty) f.a) (s.srcB f r lane) (s.srcC f r lane)) s

end Sys2Proof.Machine
end

