-- ==== Sys2Proof/Machine/Arith.lean ====
section
/-! DEFINITION. Integer, predicate and move instructions (R127 to R134, R143). -/

namespace Sys2Proof.Machine

/-- `add` (R127, R128): a + b, wrapping or saturating; 64-bit uniform forms under R133. -/
def execAdd (f : Fields) (s : State) : Out := arith (.add f) 5 (intAlu f.ty (f.opx == 1) (fun a b _ => a + b)) s

/-- `sub` (R127, R128): a - b. -/
def execSub (f : Fields) (s : State) : Out := arith (.sub f) 5 (intAlu f.ty (f.opx == 1) (fun a b _ => a - b)) s

/-- `mul` (R127, R128): a × b. -/
def execMul (f : Fields) (s : State) : Out := arith (.mul f) 5 (intAlu f.ty (f.opx == 1) (fun a b _ => a * b)) s

/-- `mulh` (R127, R128): floor(a × b ÷ 2^32). -/
def execMulh (f : Fields) (s : State) : Out := arith (.mulh f) 5 (intAlu f.ty (f.opx == 1) (fun a b _ => (a * b) / 2 ^ 32)) s

/-- `mad` (R127, R128): a × b + c; in the I form c is the old D (R121). -/
def execMad (f : Fields) (s : State) : Out := arith (.mad f) 5 (intAlu f.ty (f.opx == 1) (fun a b c => a * b + c)) s

/-- `neg` (R127, R128). -/
def execNeg (f : Fields) (s : State) : Out := arith (.neg f) 5 (intAlu f.ty (f.opx == 1) (fun a _ _ => -a)) s

/-- `abs` (R127, R128). -/
def execAbs (f : Fields) (s : State) : Out := arith (.abs f) 5 (intAlu f.ty (f.opx == 1) (fun a _ _ => (a.natAbs : Int))) s

/-- `min` (R127, R128). -/
def execMin (f : Fields) (s : State) : Out := arith (.min f) 5 (intAlu f.ty (f.opx == 1) (fun a b _ => Min.min a b)) s

/-- `max` (R127, R128). -/
def execMax (f : Fields) (s : State) : Out := arith (.max f) 5 (intAlu f.ty (f.opx == 1) (fun a b _ => Max.max a b)) s

/-- `and` (R127). -/
def execAnd (f : Fields) (s : State) : Out := arith (.and f) 5 (bitAlu (fun a b => a &&& b)) s

/-- `or` (R127). -/
def execOr (f : Fields) (s : State) : Out := arith (.or f) 5 (bitAlu (fun a b => a ||| b)) s

/-- `xor` (R127). -/
def execXor (f : Fields) (s : State) : Out := arith (.xor f) 5 (bitAlu (fun a b => a ^^^ b)) s

/-- `andn` (R127). -/
def execAndn (f : Fields) (s : State) : Out := arith (.andn f) 5 (bitAlu (fun a b => a &&& ~~~b)) s

/-- `shl` (R127, R129): a × 2^k with k = b[4:0], or b[5:0] in the 64-bit form (R61). -/
def execShl (f : Fields) (s : State) : Out := arith (.shl f) 5 (fun a b _ => (writeInt f.ty (readInt f.ty a * 2 ^ shiftCount f.ty b), 0)) s

/-- `shr` (R127, R129): floor(a ÷ 2^k), a unsigned. -/
def execShr (f : Fields) (s : State) : Out := arith (.shr f) 5 (fun a b _ => (writeInt f.ty (intOf false 32 a / 2 ^ shiftCount f.ty b), 0)) s

/-- `sar` (R127, R129): floor(a ÷ 2^k), a signed. -/
def execSar (f : Fields) (s : State) : Out := arith (.sar f) 5 (fun a b _ => (writeInt f.ty (intOf true 32 a / 2 ^ shiftCount f.ty b), 0)) s

/-- `clz` (R127). -/
def execClz (f : Fields) (s : State) : Out := arith (.clz f) 5 (fun a _ _ => (BitVec.ofNat 64 (clz32 (a.setWidth 32)), 0)) s

/-- `popc` (R127). -/
def execPopc (f : Fields) (s : State) : Out := arith (.popc f) 5 (fun a _ _ => (BitVec.ofNat 64 (popc32 (a.setWidth 32)), 0)) s

/-- `bfx` (R130). -/
def execBfx (f : Fields) (s : State) : Out := arith (.bfx f) 5 (fun a b _ => (bfxFn f.ty a b, 0)) s

/-- `bfi` (R130): the R form reads the base from b and the control word from c; the I form takes the control word from
the immediate and the base from D (R121). -/
def execBfi (f : Fields) (s : State) : Out := arith (.bfi f) 5 (fun a b c => (if f.immForm then bfiFn a c b else bfiFn a b c, 0)) s

/-- `sel` (R131): a where predicate k of the thread is 1, else b. -/
def execSel (f : Fields) (s : State) : Out :=
  arithLane (.sel f) 5 (fun s r lane =>
    (if (sget r.p f.opx.toNat).getLsbD lane then s.readOp r lane false f.a else s.srcB f r lane, 0)) s

/-- `setp` (R132). -/
def execSetp (f : Fields) (s : State) : Out := arith (.setp f) 5 (fun a b _ => (boolBits (setpCond f.opx (readInt f.ty a) (readInt f.ty b)), 0)) s

/-- `plop` (R134). -/
def execPlop (f : Fields) (s : State) : Out := arith (.plop f) 5 (fun a b _ => (boolBits (plopFn f.opx (a != 0) (b != 0)), 0)) s

/-- `p2v` (R134): 1 where the predicate holds. -/
def execP2v (f : Fields) (s : State) : Out := arith (.p2v f) 5 (fun a _ _ => (a, 0)) s

/-- `v2p` (R134): the predicate is 1 where a is not zero. -/
def execV2p (f : Fields) (s : State) : Out := arith (.v2p f) 5 (fun a _ _ => (boolBits (a != 0), 0)) s

/-- `mov` (R143): the bits of the source, or of the immediate, unchanged. -/
def execMov (f : Fields) (s : State) : Out := arith (.mov f) 5 (fun a b _ => (if f.immForm then b else a, 0)) s

end Sys2Proof.Machine
end

