-- ==== Sys2Proof/Machine/FpArith.lean ====
section
/-! DEFINITION. Floating-point instructions: fp32 (R135 to R139), packed 16-bit (R140), conversions (R141, R142). -/

namespace Sys2Proof.Machine

/-- `fadd` (R135, R136): a + b rounded under RND. -/
def execFadd (f : Fields) (s : State) : Out := arith (.fadd f) 5 (fun a b _ => fpRes (addFp fp32 f.rnd (fp a) (fp b))) s

/-- `fsub` (R135, R136): a - b rounded once; a NaN operand is not negated. -/
def execFsub (f : Fields) (s : State) : Out := arith (.fsub f) 5 (fun a b _ => fpRes (addFp fp32 f.rnd (fp a) (fp b).neg)) s

/-- `fmul` (R135, R136). -/
def execFmul (f : Fields) (s : State) : Out := arith (.fmul f) 5 (fun a b _ => fpRes (mulFp fp32 f.rnd (fp a) (fp b))) s

/-- `ffma` (R135, R136): a × b + c rounded once (R80). -/
def execFfma (f : Fields) (s : State) : Out := arith (.ffma f) 5 (fun a b c => fpRes (fmaFp fp32 f.rnd (fp a) (fp b) (fp c))) s

/-- `fmin` (R82, R135): minimumNumber. -/
def execFmin (f : Fields) (s : State) : Out := arith (.fmin f) 5 (fun a b _ => fpRes (minMaxFp fp32 false (a.toNat % 2 ^ 32) (b.toNat % 2 ^ 32))) s

/-- `fmax` (R82, R135): maximumNumber. -/
def execFmax (f : Fields) (s : State) : Out := arith (.fmax f) 5 (fun a b _ => fpRes (minMaxFp fp32 true (a.toNat % 2 ^ 32) (b.toNat % 2 ^ 32))) s

/-- `fsetp` (R137). -/
def execFsetp (f : Fields) (s : State) : Out := arith (.fsetp f) 5 (fun a b _ =>
  let c := fsetpCond f.opx (a.toNat % 2 ^ 32) (b.toNat % 2 ^ 32)
  (boolBits c.1, c.2)) s

/-- `frcp` (R83, R135): 1 ÷ a, correctly rounded; latency 24 (R186). -/
def execFrcp (f : Fields) (s : State) : Out := arith (.frcp f) 24 (fun a _ _ => fpRes (rcpFp f.rnd (fp a))) s

/-- `frsq` (R83, R135): 1 ÷ √a, correctly rounded; latency 24 (R186). -/
def execFrsq (f : Fields) (s : State) : Out := arith (.frsq f) 24 (fun a _ _ => fpRes (rsqFp f.rnd (fp a))) s

/-- `fsqrt` (R83, R135): √a, correctly rounded; latency 24 (R186). -/
def execFsqrt (f : Fields) (s : State) : Out := arith (.fsqrt f) 24 (fun a _ _ => fpRes (sqrtFp f.rnd (fp a))) s

/-- `fex2` (R83, R135): 2^a, correctly rounded; latency 24 (R186). -/
def execFex2 (f : Fields) (s : State) : Out := arith (.fex2 f) 24 (fun a _ _ => fpRes (ex2Fp f.rnd (fp a))) s

/-- `flg2` (R83, R135): log2 a, correctly rounded; latency 24 (R186). -/
def execFlg2 (f : Fields) (s : State) : Out := arith (.flg2 f) 24 (fun a _ _ => fpRes (lg2Fp f.rnd (fp a))) s

/-- `frnd` (R138). -/
def execFrnd (f : Fields) (s : State) : Out := arith (.frnd f) 5 (fun a _ _ => fpRes (rndFp f.rnd (a.toNat % 2 ^ 32))) s

/-- `fclass` (R139). -/
def execFclass (f : Fields) (s : State) : Out := arith (.fclass f) 5 (fun a _ _ => (fclassFn f.ty a, 0)) s

/-- `cvt` (R89, R141). -/
def execCvt (f : Fields) (s : State) : Out := arith (.cvt f) 5 (fun a _ _ => cvtFn f.ty (cvtSrcTy f.opx) f.rnd a) s

/-- `hadd2` (R140). -/
def execHadd2 (f : Fields) (s : State) : Out := arith (.hadd2 f) 5 (packedAlu f.ty (fun g a b _ => addFp g f.rnd (Fp.read g a) (Fp.read g b))) s

/-- `hmul2` (R140). -/
def execHmul2 (f : Fields) (s : State) : Out := arith (.hmul2 f) 5 (packedAlu f.ty (fun g a b _ => mulFp g f.rnd (Fp.read g a) (Fp.read g b))) s

/-- `hfma2` (R140). -/
def execHfma2 (f : Fields) (s : State) : Out := arith (.hfma2 f) 5 (packedAlu f.ty (fun g a b c => fmaFp g f.rnd (Fp.read g a) (Fp.read g b) (Fp.read g c))) s

/-- `hmax2` (R140). -/
def execHmax2 (f : Fields) (s : State) : Out := arith (.hmax2 f) 5 (packedAlu f.ty (fun g a b _ => minMaxFp g true a b)) s

/-- `pack` (R142). -/
def execPack (f : Fields) (s : State) : Out := arith (.pack f) 5 (packFn f.ty f.rnd) s

/-- `unpk` (R142). -/
def execUnpk (f : Fields) (s : State) : Out := arith (.unpk f) 5 (fun a _ _ => unpkFn f.ty f.opx a) s

end Sys2Proof.Machine
end

