-- ==== Sys2Proof/Machine/Sync.lean ====
section
/-! DEFINITION. Synchronisation and resource instructions (R157 to R182): mask registers, `reform`, block and named barriers,
`twait`, `xacq`, `xrel`, `region`, `ppoint`, `tret`, and the shared operations of arrivals, the Sifter and the allocator. -/

namespace Sys2Proof.Machine

/-! ## Drains (R158) and completion waits (R204) -/

/-- Every request that has not been performed: on its way, at a bank, or waiting on an arriving tile. -/
def State.openReqs (s : State) : List Req := s.reqs ++ (s.tiles.map (fun kv => kv.2.waiting)).flatten

/-- An arrival of the thread that issued the access waits for it (R158, R283): every access to block memory, and each `atom`, `cas`,
`red` and scoped store to another space, but nothing that a post performs (R158 waits for posts only until they have issued). -/
def Req.drains (r : Req) : Bool :=
  match r.loc with
  | .blk _ _ => r.kind != .waddr
  | _ => r.path != .x && (r.kind == .atom || r.kind == .cas || r.kind == .red || (r.kind == .store && r.direct))

/-- The accesses of a thread that have not been performed or appended and that its arrival waits for (R158), in whichever gang of its block
it issued them: a thread that the Sifter has drawn is the one that filed (R110). -/
def State.drainIds (s : State) (gid lane : Nat) : List Nat :=
  let tid := ((s.gang gid).thread lane).tid
  (s.openReqs.filter (fun r => (s.gang r.gid).block == (s.gang gid).block && r.who.contains tid && r.drains)).map (fun r => r.id)

/-- The accesses of a list have all been performed. -/
def State.allDone (s : State) (ids : List Nat) : Bool := ids.all (fun id => !(s.openReqs.any (fun r => r.id == id)))

/-- The loads that `WaitTaint` waits for (R251). -/
def Gang.taintLoads (g : Gang) (t : Taint) : List Nat :=
  (if t.getLsbD 16 then g.loads.filter (fun l => decide (l.tag ≤ 16)) else g.loads.filter (fun l => decide (l.tag < 16) && t.getLsbD l.tag)).map (fun l => l.id)

/-- The block states of a set of threads, by lane. -/
def Gang.blksOf (g : Gang) (m : Lanes) : List (Nat × Option Blk) := (lanesOf m).map (fun l => (l, (g.thread l).blk))

/-- The number of the current bundle's outstanding writes: the one it kept while it was held, or a new one. -/
def State.pendId (s : State) : Nat × State := if s.cur.pid = 0 then s.fresh else (s.cur.pid, s)

/-- Puts the executing threads of the current bundle into a completion wait (R204); the others of the bundle go on. The
operands are those read at issue, and the registers that it is to write count as outstanding (R187). -/
def State.hold (s : State) (e : Lanes) (cond : HoldCond) (stage : Nat) (i : Instr) : State :=
  let r := s.view
  let codes := Instr.writes i
  let (pid, s) := s.pendId
  let s := s.advance (s.cur.mask &&& ~~~e)
  let b : Bundle := { s.cur with mask := e, exec := some e, word := some (encode i), snap := some r, stage := stage, pid := pid }
  s.modGang s.cur.gid (fun g =>
    let parked := Held.parked { bundle := b, cond := cond }
    let g := g.modLanes e (fun t => if parked then { t with st := .parked } else { t with st := .waiting, wait := .comp })
    { g.addPend codes [] none pid s.cur.t false with held := g.held ++ [{ bundle := b, cond := cond }] })

/-- The union of the taints that a memory or engine instruction waits for (R251). -/
def Gang.waitTaint (g : Gang) (i : Instr) (e : Lanes) : Taint := g.newTaint i e

/-! ## Mask registers (R105, R160 to R162) -/

def maskIdx (o : Opnd) : Nat := o.index - 16

/-- Changes the membership of the executing threads and runs the release test (R105, R106). -/
def maskMember (join : Bool) (f : Fields) (s : State) : Out :=
  let e := s.execLanes f
  let m := maskIdx f.d
  let s := s.retire
  .next (if e = 0 then s else s.modGang s.cur.gid (fun g =>
    let x := sget g.mM m
    { g with mM := sset g.mM m (if join then x ||| e else x &&& ~~~e) }.checkRelease m))

/-- `mjoin` (R105, R160). -/
def execMjoin (f : Fields) (s : State) : Out := maskMember true f s

/-- `mleave` (R105, R160). -/
def execMleave (f : Fields) (s : State) : Out := maskMember false f s

/-- An `mwait` arrival takes effect (R105, R158): the A bit is set and the release test runs. -/
def Gang.maskArrive (g : Gang) (m : Nat) (lanes : Lanes) : Gang :=
  { g with mA := sset g.mA m (sget g.mA m ||| lanes) }.checkRelease m

/-- `mwait` (R105, R158, R160): the executing threads wait; those whose accesses are not yet drained arrive later. -/
def execMwait (f : Fields) (s : State) : Out :=
  let e := s.execLanes f
  let gid := s.cur.gid
  let m := maskIdx f.d
  let ds := (lanesOf e).filterMap (fun l =>
    let ids := s.drainIds gid l
    if ids.isEmpty then none else some ({ kind := 0, lane := l, obj := m, gen := 0, ids := ids } : Drain))
  let late := lanesFrom (ds.map (fun d => d.lane))
  let s := s.retire
  .next (if e = 0 then s else s.modGang gid (fun g =>
    { g.modLanes e (fun t => { t with st := .waiting, wait := .mask m }) with drains := g.drains ++ ds }.maskArrive m (e &&& ~~~late)))

/-- `mpoll` (R161). -/
def execMpoll (f : Fields) (s : State) : Out :=
  let i := Instr.mpoll f
  let e := s.execLanes f
  let g := s.gang s.cur.gid
  let m := maskIdx f.a
  let live := sget g.mM m &&& ~~~(g.lanesWith Thread.gone)
  let rel := ((sget g.mA m ||| e) &&& live) == live
  let vals := (lanesOf e).map (fun l =>
    (l, if (if f.mod.getLsbD 0 then (sget g.mM m).getLsbD l else rel) then 1#128 else 0))
  let s := if e = 0 then s else s.writeBack i e 1 vals 5 true
  .next s.retire

/-- `mrd` (R162). -/
def execMrd (f : Fields) (s : State) : Out :=
  let i := Instr.mrd f
  let e := s.execLanes f
  let g := s.gang s.cur.gid
  let m := maskIdx f.a
  let x := match (f.mod.extractLsb' 0 2).toNat with
    | 0 => sget g.mM m
    | 1 => sget g.mA m
    | _ => sget g.mM m &&& ~~~(g.lanesWith Thread.gone)
  let vals := match f.d with
    | .s _ => [(0, x.setWidth 128)]
    | _ => (lanesOf e).map (fun l => (l, x.setWidth 128))
  let s := if e = 0 then s else s.writeBack i e 1 vals 5 true
  .next s.retire

/-! ## The Sifter (R110, R111, R164) -/

/-- Files one thread if a bin takes it (R111): the open bin with its key, else a free one. -/
def State.fileThread (s : State) (gid lane n : Nat) (target : Word) (r : Regs) : Option State :=
  let g := s.gang gid
  let c := s.core g.core
  let t := g.thread lane
  let pkt : Packet := { v := (List.range n).map (fun k => sget r.v (32 * k + lane)), p := r.preds lane, tid := t.tid,
                        ten := g.ten, chk := g.chk }
  let open_ := c.bins.find? (fun kv => kv.2.block == g.block && kv.2.pc == target && decide (kv.2.packets.length < 32))
  let place := match open_ with
    | some kv => some (kv.1, { kv.2 with packets := kv.2.packets ++ [pkt], n := max kv.2.n n })
    | none => ((List.range 32).find? (fun k => (kfind c.bins k).isNone)).map (fun k =>
        (k, { block := g.block, pc := target, n := n, packets := [pkt], since := s.now g.core, aged := false }))
  place.map (fun kb => (s.modCore g.core (fun c => { c with bins := kset c.bins kb.1 kb.2 })).modGang gid (fun g =>
    g.modThread lane (fun t => { t with st := .filed, wait := .none, pc := target, blk := none })))

/-- A gang whose last thread exits or files performs the effect of `phase.rel` before it ends (R109). -/
def State.lastGone (s : State) (gid : Nat) : State :=
  if (s.gang gid).lanesWith (fun t => !(t.gone || t.st == .filed)) = 0 then s.closeGang gid else s

/-- `reform` (R110, R164): illegal-operation for the whole bundle when an executing thread is a member of a mask; otherwise,
once the loads in the taint of what is carried have performed, each thread files, or waits for a bin. -/
def execReform (f : Fields) (s : State) : Out :=
  let i := Instr.reform f
  let e := s.execLanes f
  let gid := s.cur.gid
  let g := s.gang gid
  let n := (f.imm.extractLsb' 0 5).toNat
  let member := (List.range 12).any (fun m => sget g.mM m &&& e != 0)
  let carried := (List.range n) ++ (List.range 7).map (512 + ·)
  let ids := g.taintLoads (g.taintOf carried)
  if e = 0 then .next s.retire
  else if member then .next (s.illop gid s.cur.pc e)
  else if !ids.isEmpty then .next ((s.hold e (.loads ids) 1 i).latchClk i e)
  else
    -- the target is read at issue; what is carried, once the loads in its taint have performed (R110)
    let r := g.view s.cur.t
    let targets := (lanesOf e).map (fun l => (l, s.readReg s.view l 0 f.a))
    let s := (s.latchClk i e).retire
    let s := targets.foldl (fun s (lt : Nat × Word) =>
      match s.fileThread gid lt.1 n lt.2 r with
      | some s' => s'
      | none =>
        let o := (s.core g.core).order
        (s.modCore g.core (fun c => { c with order := o + 1 })).modGang gid (fun g =>
          g.modThread lt.1 (fun t => { t with st := .waiting, wait := .reform n lt.2 o }))) s
    .next (s.lastGone gid)

/-! ## Block barriers (R165 to R168) -/

/-- One arrival is counted (R166); a generation that is complete takes no count. -/
def State.barCount (s : State) (b bar gid lane gen : Nat) : State :=
  let t := (s.gang gid).thread lane
  let r := kget (s.block b).bars bar
  if t.pend.contains (bar, gen) && r.gen == gen then
    (s.modBlock b (fun k => { k with bars := kset k.bars bar { r with count := r.count + 1 } })).checkBar b bar
  else s

/-- The count operand of a block barrier instruction (R166). -/
def State.barN (s : State) (f : Fields) (e : Lanes) : Nat :=
  if f.slot = 0 then (s.readReg s.view (lowLane e) 0 f.a).toNat else f.imm.toNat

/-- `barv` and `bsync` (R166): every check at issue; each thread's count once its drain is over. -/
def barArrive (wait : Bool) (i : Instr) (s : State) : Out :=
  let f := i.fields
  let e := s.execLanes f
  let gid := s.cur.gid
  let g := s.gang gid
  let b := g.block
  let blk := s.block b
  let bar := (f.mod.extractLsb' 0 2).toNat
  let r := kget blk.bars bar
  let n := s.barN f e
  if e = 0 then .next s.retire
  else if 32 * blk.ngang < n ∨ (lanesOf e).any (fun l => (g.thread l).pend.any (fun p => p.1 == bar)) ∨ (r.fixed ∧ n ≠ r.n) then
    .next (s.illop gid s.cur.pc e)
  else
    let ds := (lanesOf e).filterMap (fun l =>
      let ids := s.drainIds gid l
      if ids.isEmpty then none else some ({ kind := 1, lane := l, obj := bar, gen := r.gen, ids := ids } : Drain))
    let late := lanesFrom (ds.map (fun d => d.lane))
    let s := (s.latchClk i e).retire
    let s := s.modBlock b (fun k => { k with bars := kset k.bars bar { r with n := n, fixed := true } })
    let s := s.modGang gid (fun g =>
      { g.modLanes e (fun t => { t with
          pend := t.pend ++ [(bar, r.gen)]
          st := if wait then .waiting else t.st
          wait := if wait then .bar bar r.gen 0 else t.wait }) with drains := g.drains ++ ds })
    .next ((lanesOf (e &&& ~~~late)).foldl (fun s l => s.barCount b bar gid l r.gen) s)

/-- `bsync` (R166). -/
def execBsync (f : Fields) (s : State) : Out := barArrive true (.bsync f) s

/-- `barv` (R166). -/
def execBarv (f : Fields) (s : State) : Out := barArrive false (.barv f) s

/-- `bwt` (R166): threads with no pending arrival go on; the others wait for their generation, or for a partial count. -/
def execBwt (f : Fields) (s : State) : Out :=
  let e := s.execLanes f
  let gid := s.cur.gid
  let g := s.gang gid
  let blk := s.block g.block
  let bar := (f.mod.extractLsb' 0 2).toNat
  let r := kget blk.bars bar
  let n := s.barN f e
  if e = 0 then .next s.retire
  else if 32 * blk.ngang < n then .next (s.illop gid s.cur.pc e)
  else
    let s := (s.latchClk (.bwt f) e).retire
    .next (s.modGang gid (fun g => g.modLanes e (fun t =>
      match t.pend.find? (fun p => p.1 == bar) with
      | none => t
      | some p =>
        if n ≠ 0 ∧ p.2 = r.gen ∧ n ≤ r.count then t
        else { t with st := .waiting, wait := .bar bar p.2 n })))

/-! ## Named barriers (R169 to R172) -/

/-- The record of a name for a gang's cluster instance (R169). -/
def State.namedId (s : State) (gid : Nat) (name : Word) : Option Nat :=
  let b := s.block (s.gang gid).block
  ((kget s.clusters (s.clusterOf gid)).bars.find? (fun kv =>
    kv.2.launch == b.launch && kv.2.stk == b.stk && kv.2.clu == b.clu && kv.2.name == name)).map Prod.fst

def State.named (s : State) (gid id : Nat) : NamedBar := kget (kget s.clusters (s.clusterOf gid)).bars id

def State.setNamed (s : State) (gid id : Nat) (r : NamedBar) : State :=
  let cl := s.clusterOf gid
  let c := kget s.clusters cl
  { s with clusters := kset s.clusters cl { c with bars := kset c.bars id r } }

/-- The name operand. -/
def State.nbName (s : State) (f : Fields) (e : Lanes) : Word :=
  if f.slot = 0 then s.readReg s.view (lowLane e) 0 f.a else f.imm

/-- `nbatt` (R170, R171): illegal-operation in the listed cases; the barrier-spill trap when a new entry finds all 256 in use. -/
def execNbatt (f : Fields) (s : State) : Out :=
  let e := s.execLanes f
  let gid := s.cur.gid
  let pc := s.cur.pc
  let r := s.view
  let name := s.readReg r (lowLane e) 0 f.a
  let n := if f.slot = 0 then (s.readReg r (lowLane e) 0 f.b).toNat else f.imm.toNat
  let cl := s.clusterOf gid
  let c := kget s.clusters cl
  let held := (c.bars.filter (fun kv => kv.2.attached.contains gid)).length
  let b := s.block (s.gang gid).block
  if e = 0 then .next s.retire
  else
    match s.namedId gid name with
    | some id =>
      let x := s.named gid id
      if n = 0 ∨ 768 < n then .next (s.illop gid pc e)
      else if x.attached.contains gid then
        (if x.n ≠ n then .next (s.illop gid pc e) else .next (s.latchClk (.nbatt f) e).retire)
      else if x.n ≠ n ∨ x.n ≤ x.attached.length ∨ 8 ≤ held then .next (s.illop gid pc e)
      else .next ((s.latchClk (.nbatt f) e).retire.setNamed gid id { x with attached := x.attached ++ [gid] })
    | none =>
      if n = 0 ∨ 768 < n ∨ 8 ≤ held then .next (s.illop gid pc e)
      else if 256 ≤ c.bars.length then .next (s.takeTrap gid 0x08 0 name pc e none)
      else
        let x : NamedBar := { asid := (s.launch b.launch).asid, launch := b.launch, stk := b.stk, clu := b.clu, name := name, n := n,
                              attached := [gid], issued := [], arrived := [], gen := 0 }
        let (id, s) := (s.latchClk (.nbatt f) e).retire.fresh
        .next { s with clusters := kset s.clusters cl { c with bars := kset c.bars id x } }

/-- A named-barrier arrival takes effect (R170). -/
def State.namedArrive (s : State) (gid id : Nat) : State :=
  let r := s.named gid id
  (s.setNamed gid id { r with arrived := r.arrived ++ [gid] }).checkNamed (s.clusterOf gid) id

/-- `nbarv` (R170): marked at issue, counted once R158 holds for every executing thread. -/
def execNbarv (f : Fields) (s : State) : Out :=
  let e := s.execLanes f
  let gid := s.cur.gid
  let pc := s.cur.pc
  if e = 0 then .next s.retire
  else
    match s.namedId gid (s.nbName f e) with
    | none => .next (s.illop gid pc e)
    | some id =>
      let r := s.named gid id
      if !r.attached.contains gid || r.issued.contains gid then .next (s.illop gid pc e)
      else
        let ids := ((lanesOf e).map (fun l => s.drainIds gid l)).flatten
        let s := ((s.latchClk (.nbarv f) e).retire).setNamed gid id { r with issued := r.issued ++ [gid] }
        if ids.isEmpty then .next (s.namedArrive gid id)
        else .next (s.modGang gid (fun g =>
          { g with drains := g.drains ++ [{ kind := 2, lane := lowLane e, obj := id, gen := r.gen, ids := ids }] }))

/-- `nbwt` (R170): waits when the gang has arrived in the current generation. -/
def execNbwt (f : Fields) (s : State) : Out :=
  let e := s.execLanes f
  let gid := s.cur.gid
  if e = 0 then .next s.retire
  else
    match s.namedId gid (s.nbName f e) with
    | none => .next (s.illop gid s.cur.pc e)
    | some id =>
      let r := s.named gid id
      let s := (s.latchClk (.nbwt f) e).retire
      .next (if r.issued.contains gid then
          s.modGang gid (fun g => g.modLanes e (fun t => { t with st := .waiting, wait := .named id r.gen }))
        else s)

/-- `nbdet` (R170). -/
def execNbdet (f : Fields) (s : State) : Out :=
  let e := s.execLanes f
  let gid := s.cur.gid
  if e = 0 then .next s.retire
  else
    match s.namedId gid (s.nbName f e) with
    | none => .next (s.illop gid s.cur.pc e)
    | some id =>
      if !(s.named gid id).attached.contains gid then .next (s.illop gid s.cur.pc e)
      else .next ((s.latchClk (.nbdet f) e).retire.detach (s.clusterOf gid) id gid)

/-- The live gangs with threads that wait on a generation of a named barrier, those that have detached since as well (R170, R172). -/
def State.waitersOn (s : State) (id gen : Nat) : List Nat :=
  (s.gangs.filter (fun kv => kv.2.live && kv.2.lanesWith (fun t => t.st == .waiting && t.wait == .named id gen) != 0)).map Prod.fst

/-- The classes after one round of lending (R172): a gang with threads in `nbwt` lends its class to every attached gang that has
not arrived. -/
def State.lend (s : State) (cl : Nat) (classes : KMap Nat) : KMap Nat :=
  (kget s.clusters cl).bars.foldl (fun cs kv =>
    let r := kv.2
    let lenders := s.waitersOn kv.1 r.gen
    let top := lenders.foldl (fun m g => max m (match kfind cs g with | some c => c | none => (s.launchOf g).prio)) 0
    (r.attached.filter (fun g => !r.issued.contains g)).foldl (fun cs g => kset cs g (max (kget cs g) top)) cs) classes

/-- The effective priority class of a gang (R172): the highest of its queue's class and its loans, which are transitive. -/
def State.effClass (s : State) (gid : Nat) : Nat :=
  let cl := s.clusterOf gid
  let bars := (kget s.clusters cl).bars
  if bars.all (fun kv => !kv.2.attached.contains gid) then (s.launchOf gid).prio
  else
    let gs := (bars.map (fun kv => kv.2.attached)).flatten
    let base : KMap Nat := gs.foldl (fun m g => kset m g (s.launchOf g).prio) []
    max (s.launchOf gid).prio (kget (iter (s.lend cl) bars.length base) gid)

/-! ## Time (R174) -/

/-- `twait` (R174). -/
def execTwait (f : Fields) (s : State) : Out :=
  let i := Instr.twait f
  let e := s.execLanes f
  let r := s.view
  let gid := s.cur.gid
  let from_ := s.lastBeat i e + 1
  let acq := if f.mod.getLsbD 0 then (s.gang gid).serial + 1 else 0
  let n := fun l => min 1048575 (if f.slot = 0 then (s.readReg r l 0 f.a).toNat else f.imm.toNat)
  let s' := (s.latchClk i e).retire
  .next (s'.modGang gid (fun g => (lanesOf e).foldl (fun g l =>
    g.modThread l (fun t => { t with st := .waiting, wait := .sleep (from_ + n l) acq })) { g with serial := g.serial + 1 }))

/-! ## Extended registers (R115, R177, R178) -/

/-- A start for a block of `size` granules among 512 (R115): the lowest multiple of the size that no allocated block meets. -/
def findGranules (allocs : List Alloc) (size : Nat) : Option Nat :=
  ((List.range (512 / size)).map (· * size)).find? (fun st =>
    allocs.all (fun a => decide (a.start + a.size ≤ st) || decide (st + size ≤ a.start)))

/-- Free granules of a core. -/
def freeGranules (allocs : List Alloc) : Nat := 512 - (allocs.map (fun a => a.size)).sum

/-- The gangs that live on a core's active bank, lowest place first. -/
def State.residents (s : State) (c : Nat) : List Nat :=
  let l := s.gangs.filter (fun kv => kv.2.live && kv.2.active && kv.2.core == c)
  ((List.range 192).filterMap (fun p => l.find? (fun kv => kv.2.place == p))).map Prod.fst

/-- Withdraws a gang's queued request for an extended block (R117, R178). -/
def State.withdraw (s : State) (gid : Nat) : State :=
  let c := (s.gang gid).core
  (s.modCore c (fun co => { co with
      allocQ := co.allocQ.filter (fun a => !(a.ext && a.gid == gid))
      allocs := co.allocs.filter (fun a => !(a.ext && a.gid == gid))
      clearQ := co.clearQ.filter (fun x => !(x.kind == 2 && x.owner == gid)) })).modGang gid (fun g => { g with ext := .none })

/-- The allocation deadlock (R117): when every resident gang of the core waits in `xacq` and the head request cannot be
served, the lowest-numbered one takes the trap. A gang counts while its request is queued, no thread of it is ready and some thread of it
stands in `xacq` (DESIGN CHOICE, log 141). -/
def State.allocDeadlock (s : State) (c : Nat) : State :=
  let rs := s.residents c
  let waits := fun gid =>
    let g := s.gang gid
    g.ext == .queued && g.lanesWith (fun t => t.st == .ready) == 0 && g.lanesWith (fun t => t.wait == .xacq) != 0
  match (s.core c).allocQ, rs with
  | h :: _, gid :: _ =>
    if rs.all waits && decide (freeGranules (s.core c).allocs < h.size) then
      let g := s.gang gid
      let lanes := g.lanesWith (fun t => t.wait == .xacq)
      let pc := (g.thread (lowLane lanes)).pc
      let s := (s.withdraw gid).modGang gid (fun g => g.modLanes lanes (fun t => { t with wait := .none }))
      s.takeTrap gid 0x07 0 (BitVec.ofNat 32 (2 ^ g.extK)) pc lanes none
    else s
  | _, _ => s

/-- `xacq` (R177): queues the request once for the bundle; the executing threads wait at this word until the block is granted
and cleared. -/
def execXacq (f : Fields) (s : State) : Out :=
  let e := s.execLanes f
  let gid := s.cur.gid
  let g := s.gang gid
  let k := if f.slot = 0 then (s.readReg s.view (lowLane e) 0 f.a).toNat else f.imm.toNat
  if e = 0 then .next s.retire
  else if 3 < k ∨ (g.ext ≠ .none ∧ g.extK ≠ k) then .next (s.illop gid s.cur.pc e)
  else if g.ext = .held then .next (s.latchClk (.xacq f) e).retire
  else
    let s := (s.latchClk (.xacq f) e).advance (s.cur.mask &&& ~~~e)
    let s := s.modGang gid (fun g => g.modLanes e (fun t => { t with st := .waiting, wait := .xacq }))
    if g.ext = .none then
      let s := (s.modGang gid (fun g => { g with ext := .queued, extK := k })).modCore g.core (fun c =>
        { c with allocQ := c.allocQ ++ [{ gid := gid, ext := true, start := 0, size := 2 ^ k }] })
      .next (s.allocDeadlock g.core)
    else .next s

/-- The extended registers of a gang, as register numbers. -/
def Gang.extCodes (g : Gang) : List Nat := (List.range (16 * 2 ^ g.extK)).map (g.nb + ·)

/-- An extended register has a write outstanding (R178). -/
def Gang.extBusy (g : Gang) (now : Nat) : Bool :=
  g.pend.any (fun p => decide (g.nb ≤ p.reg) && decide (p.reg < 256) && (match p.done with | some d => decide (now < d) | none => true))

/-- Frees a gang's extended block (R115, R178): values and taints of its registers are lost. -/
def State.freeExt (s : State) (gid : Nat) : State :=
  (s.withdraw gid).modGang gid (fun g => { g with
    regs := { g.regs with v := skeep g.regs.v (fun k => decide (k < 32 * g.nb)) }
    taint := skeep g.taint (fun k => decide (k < g.nb ∨ 256 ≤ k))
    pend := g.pend.filter (fun p => decide (p.reg < g.nb ∨ 256 ≤ p.reg)) })

/-- `xrel` (R178). In a handler whose gang's waits in `xacq` are saved, no thread stands in `xacq`: the request is withdrawn with no
illegal-operation, and after `tret` those threads issue their `xacq` again (DESIGN CHOICE, log 143). -/
def execXrel (f : Fields) (s : State) : Out :=
  let e := s.execLanes f
  let gid := s.cur.gid
  let g := s.gang gid
  if e = 0 ∨ g.ext = .none then .next s.retire
  else if g.ext = .held then
    (if g.extBusy (s.now g.core) then .next (s.hold e .extIdle 1 (.xrel f))
     else .next (s.freeExt gid).retire)
  else
    let lanes := g.lanesWith (fun t => t.wait == .xacq)
    let pc := (g.thread (lowLane lanes)).pc
    let s := (s.withdraw gid).retire
    if lanes = 0 then .next s
    else .next ((s.modGang gid (fun g => g.modLanes lanes (fun t => { t with wait := .none }))).illop gid pc lanes)

/-! ## Restart and pre-emption points (R179 to R182) -/

/-- `region` (R179). -/
def execRegion (f : Fields) (s : State) : Out :=
  let e := s.execLanes f
  let off := f.mod.getLsbD 0
  let pc := s.cur.pc + 12
  let s := s.retire
  .next (s.modGang s.cur.gid (fun g => g.modLanes e (fun t =>
    { t with region := if off then none else some pc, regionBlk := if off then none else t.blk })))

/-- `ppoint` (R180). -/
def execPpoint (f : Fields) (s : State) : Out :=
  let e := s.execLanes f
  let gid := s.cur.gid
  let m : BitVec 16 := if f.slot = 0 then (s.readReg s.view (lowLane e) 0 f.a).setWidth 16 else f.imm.setWidth 16
  let n := (s.block (s.gang gid).block).slabs
  let s' := (s.latchClk (.ppoint f) e).retire
  .next (if e = 0 then s.retire else s'.modGang gid (fun g => { g with ppValid := true, ppMask := m &&& BitVec.ofNat 16 (2 ^ n - 1) }))

end Sys2Proof.Machine
end

