-- ==== Sys2Proof/Machine/Control.lean ====
section
/-! DEFINITION. Control instructions (R151 to R155) and `pblk` (R67, R68). -/

namespace Sys2Proof.Machine

/-- The executing threads go to a PC of their own, every other thread of the bundle to the next word (R152). -/
def State.transfer (s : State) (e : Lanes) (target : Nat → Word) : State :=
  let s := s.retire
  s.modGang s.cur.gid (fun g => (lanesOf e).foldl (fun g l => g.modThread l (fun t => { t with pc := target l })) g)

/-- The target of a word count (R57, R152): PC + 12 + 12 × n, a byte offset of 32 bits; an offset outside them is never
fetchable. -/
def branchTarget (pc : Word) (n : Int) : Word :=
  let x := (pc.toNat : Int) + 12 + 12 * n
  if 0 ≤ x ∧ x < 2 ^ 32 then BitVec.ofInt 32 x else 0xFFFFFFFF#32

/-- `bra` (R152). -/
def execBra (f : Fields) (s : State) : Out :=
  let e := s.execLanes f
  let r := s.view
  let t := fun l => if f.slot = 0 then s.readReg r l 0 f.a else branchTarget s.cur.pc f.imm.toInt
  .next ((s.latchClk (.bra f) e).transfer e t)

/-- `brx` (R152): the exact sum of the immediate and the register's signed value. -/
def execBrx (f : Fields) (s : State) : Out :=
  let e := s.execLanes f
  let r := s.view
  let t := fun l => branchTarget s.cur.pc (f.imm.toInt + (s.readReg r l 0 f.a).toInt)
  .next ((s.latchClk (.brx f) e).transfer e t)

/-- `call` (R152): the target is read before the link is written; the link's taint is the guard's. -/
def execCall (f : Fields) (s : State) : Out :=
  let i := Instr.call f
  let e := s.execLanes f
  let r := s.view
  let gid := s.cur.gid
  let t := fun l => if f.slot = 0 then s.readReg r l 0 f.a else branchTarget s.cur.pc f.imm.toInt
  let link := (lanesOf e).map (fun l => (l, (s.cur.pc + 12).setWidth 128))
  let gt := (s.gang gid).guardTaint f.guard e
  let s' := if e = 0 then s
    else ((s.writeBack i e 1 link 5 true).modGang gid (fun g =>
      { g with taint := (s.gang gid).taint } |>.setTaint (opCodes 1 f.d) e gt)).latchClk i e
  .next (s'.transfer e t)

/-- `ret` (R152). -/
def execRet (f : Fields) (s : State) : Out :=
  let e := s.execLanes f
  let r := s.view
  .next ((s.latchClk (.ret f) e).transfer e (fun l => s.readReg r l 0 f.a))

/-- The executing threads of a gang exit (R107): they leave M and A of every mask register, whose release tests run. -/
def Gang.exitLanes (g : Gang) (e : Lanes) : Gang :=
  let g := g.modLanes e (fun t => { t with st := .exited, wait := .none, blk := none })
  let off := fun (m : Sparse 32) => (List.range 12).foldl (fun m k => sset m k (sget m k &&& ~~~e)) m
  { g with mM := off g.mM, mA := off g.mA }.checkAll

/-- `exit` (R107, R153): the masks' and the block barriers' tests follow (R166); the gang ends by GANG_END (R109). When the
last thread goes, the gang's buffered stores leave as by `phase.rel` (R109). -/
def execExit (f : Fields) (s : State) : Out :=
  let e := s.execLanes f
  let gid := s.cur.gid
  if e = 0 then .next s.retire
  else
    let s := (s.retire.modGang gid (fun g => g.exitLanes e)).lastGone gid
    .next (s.checkBars (s.gang gid).block)

/-- `nop` (R153). -/
def execNop (_f : Fields) (s : State) : Out := .next s.retire

/-- `pblk` (R67, R68): each thread takes a snapshot of its predicate and that predicate's taint, for the next n words. -/
def execPblk (f : Fields) (s : State) : Out :=
  let gid := s.cur.gid
  let r := s.view
  let n := (f.imm.extractLsb' 0 3).toNat + 1
  let k := f.a.index
  let e := s.execLanes f
  let t := sget (s.gang gid).taint (512 + k)
  let s := s.retire
  .next (s.modGang gid (fun g => (lanesOf e).foldl (fun g l =>
    g.modThread l (fun th => { th with blk := some { left := n, pat := f.imm.extractLsb' 8 8, b := (sget r.p k).getLsbD l, taint := t } })) g))

/-- The debug enable of the gang's queue (R383). -/
def State.debugOn (s : State) (gid : Nat) : Bool := bitsOf (s.qdesc (s.launchOf gid).queue) 400 400 == 1

/-- Stops a gang for the debugger (R154, R195): a record of `type` is posted, DBG.RESUME with its SEQ resumes it. -/
def State.debugStop (s : State) (gid type kind : Nat) (pc : Word) (lanes : Lanes) (code : Nat) : State :=
  let c := (s.gang gid).core
  let (seq, s) := s.post c { s.gangRec gid type kind pc lanes with code := code }
  (s.modGang gid (fun g => { g with stop := .debug c seq, pend := g.pend.filter (fun p => !p.fixed), stallTo := s.beatsEnd gid, starve := 0 })).clearLast gid

/-- `brk` (R154). The record's KIND, HANDLE, PATH, SRC and OFFSET, to which R154 and R207 give no meaning in a BREAK record, are 0 (DESIGN
CHOICE, log 136). -/
def execBrk (f : Fields) (s : State) : Out :=
  let e := s.execLanes f
  let gid := s.cur.gid
  let pc := s.cur.pc
  let s := s.retire
  .next (if e ≠ 0 ∧ s.debugOn gid then s.debugStop gid 4 0 pc e (f.imm.extractLsb' 0 16).toNat else s)

/-- `trap` (R155): SOFT, the saved PC the next word. -/
def execTrap (f : Fields) (s : State) : Out :=
  let e := s.execLanes f
  let gid := s.cur.gid
  let code := if f.slot = 0 then (s.readReg s.view (lowLane e) 0 f.a).extractLsb' 0 16 else f.imm.extractLsb' 0 16
  let pc := s.cur.pc
  let s := (s.latchClk (.trap f) e).retire
  .next (if e = 0 then s else s.takeTrap gid 0x05 0 (code.setWidth 32) pc e none)

end Sys2Proof.Machine
end

