-- ==== Sys2Proof/Machine/Mem.lean ====
section
/-! DEFINITION. The points of service (chapters 10 and 12): reads and writes with their path, crumb logs and their
compaction (R236, R237), tiles (R234 to R244), main memory's lines and keys (R405 to R409), `waddr` wake-ups (R176), slice
watches (R213), and the performing of requests. -/

namespace Sys2Proof.Machine

/-! ## Fault records without a parked lane -/

/-- A FAULT record that needs no acknowledgement (R241, R379). -/
def State.postFault (s : State) (core : Nat) (kind : Nat) (asid gang : Nat) (pc : Word) (handle path off : Nat) : State :=
  (s.post core { type := 1, kind := kind, seq := 0, asid := asid, core := core, gang := gang, pc := pc, lanes := 0,
                 handle := handle % 2 ^ 16, path := path, src := 0, code := 0, off := off }).2

/-- A RAS record (R410), posted through the first core of the stack's first cluster. -/
def State.postRas (s : State) (kind stack off : Nat) : State :=
  (s.post (16 * stack) { type := 7, kind := kind, seq := 0, asid := 0, core := 16 * stack, gang := 0, pc := 0, lanes := 0,
                         handle := 0, path := 0, src := 0, code := stack, off := off }).2

/-! ## Pages under re-encryption (R408) -/

/-- An access that waits at a page is still to come. -/
def State.tokLive (s : State) (t : PageTok) : Bool :=
  match t with
  | .evict t => (s.tile t).st == .resident && (s.tile t).dirty
  | .read t k => s.hbmQ.any (fun q => q.tile == t && q.chunk == k)
  | .copy key serial chunk =>
    let c := kget s.copies key
    c.serial == serial && c.state != 0 && c.state != 1 && c.failed.isNone && sget c.moved chunk == 0
  | .place b put => (kget s.bags b).placing.any (fun r => r.id == put)
  | .claim op => (kfind s.bagOps op).any (fun o => !o.ended)

/-- The page of an address lets an access go on: it is not being encrypted again, and no other access waits there before it. -/
def State.pageTurn (s : State) (pa : Nat) (tok : Option PageTok) : Bool :=
  let p := kget s.pages (pa / 4096)
  !p.reenc && (match p.wait.find? s.tokLive with | none => true | some t => tok == some t)

/-- Writes of these ranges, as addresses and lengths, would take a minor counter past 127 (R408): each counts once for every line that it
meets. -/
def State.minorFull (s : State) (ws : List (Nat × Nat)) : Bool :=
  let lines := (ws.map (fun w => linesOf w.1 w.2)).flatten
  lines.any (fun l => decide (127 < (kget s.lineInfo l).minor + lines.count l))

def State.modPage (s : State) (pa : Nat) (f : PageInfo → PageInfo) : State := { s with pages := kmod s.pages (pa / 4096) f }

/-- An access reaches the page of `pa` (R408): it may be performed now, or it waits there in its order of arrival; a write that would take a
minor counter too far (`full`) makes the page re-encrypt and waits before all others. -/
def State.gate (s : State) (pa key : Nat) (full : Bool) (tok : PageTok) : Bool × State :=
  if !s.pageTurn pa (some tok) then
    (false, s.modPage pa (fun p => if p.wait.contains tok then p else { p with wait := p.wait ++ [tok] }))
  else if full then
    (false, s.modPage pa (fun p => { p with reenc := true, key := key, wait := tok :: p.wait.filter (fun t => t != tok) }))
  else if (kget s.pages (pa / 4096)).wait.isEmpty then (true, s)
  else (true, s.modPage pa (fun p => { p with wait := p.wait.filter (fun t => t != tok) }))

/-- The page's lines stand under the next major counter with minor counters of 0; a major counter that would run out spends the key slot
instead (R408, R409). -/
def State.reencrypt (s : State) (page : Nat) : State :=
  let p := kget s.pages page
  if p.major = 2 ^ 56 - 1 then
    { s with pages := kset s.pages page { p with reenc := false }, keys := kmod s.keys p.key (fun k => { k with spent := true }) }
  else
    { s with
      pages := kset s.pages page { p with reenc := false, major := p.major + 1 }
      lineInfo := s.lineInfo.map (fun kv => if kv.1 / 64 = page then (kv.1, { kv.2 with minor := 0 }) else kv) }

/-! ## Accesses of main memory (R387, R405, R408) -/

/-- A read of the lines of [pa, pa + n): whether it fails, and the state after it. A line that fails its key's or the tree's check is a
RAS record of KIND 2 (R408). -/
def State.readLines (s : State) (pa n key : Nat) : Bool × State :=
  let s := (linesOf pa n).foldl State.meetLine s
  let bad := (linesOf pa n).filter (s.lineBad key)
  (!bad.isEmpty, (bad.filter (fun l => !(kget s.lineInfo l).poison)).foldl (fun s l => s.postRas 2 (l * 64 / 2 ^ 36) (l * 64 % 2 ^ 36)) s)

/-- A table, a descriptor or code is read at [pa, pa + n): its controllers meet the lines (R405), and a line that fails the tree check is a RAS
record of KIND 2 (R408). What the read gives where one fails is `tableBad`'s. -/
def State.readTable (s : State) (pa n : Nat) : State :=
  (linesOf pa n).foldl (fun s l =>
    let x := kget s.lineInfo l
    let s := if x.flips = 0 then s else s.applyEcc l (match s.classOf l with | .open_ => .uncorrectable | c => c)
    if x.forged && !x.poison then s.postRas 2 (l * 64 / 2 ^ 36) (l * 64 % 2 ^ 36) else s) s

/-- The tables that the checks of a handle read: the context descriptor and the buffer's entry (R226, R402). -/
def State.readEnt (s : State) (asid idx : Nat) : State :=
  let s := s.readTable (s.ctxAddr asid) 128
  if (s.bufEnt asid idx).isSome then s.readTable (s.hbmRead (s.ctxAddr asid) 8 + 32 * idx) 32 else s

/-- Words of the code of running launches that a write of [pa, pa + n) meets are undefined from then on, each by itself (R8, R387). -/
def State.noteCode (s : State) (pa n : Nat) : State :=
  s.launches.foldl (fun s kv =>
    let l := kv.2
    if l.phase ≠ 1 ∧ l.phase ≠ 2 then s
    else
      let hit := (List.range l.kwords).filter (fun w => (List.range 12).any (fun k => match s.codeLoc l (12 * w + k) with
        | some (.hbm a) => decide (pa ≤ a) && decide (a < pa + n)
        | _ => false))
      hit.foldl (fun s w =>
        let (n, s) := s.undefCount l.asid
        s.modLaunch kv.1 (fun l => { l with rewritten := kset l.rewritten w n })) s) s

/-- A write of [pa, pa + n) that reaches a queue's descriptor outside its TAIL rewrites it, so that a queue that its ring had stopped is
examined again (R383, R384). -/
def State.noteDesc (s : State) (pa n : Nat) : State :=
  let a := s.mg64 0x0048
  if s.queues.all (fun kv => kv.2.stop.isNone) then s
  else { s with queues := s.queues.map (fun kv =>
    if pa < a + 64 * kv.1 + 60 ∧ a + 64 * kv.1 < pa + n then (kv.1, { kv.2 with stop := none }) else kv) }

/-- Accounts for a write of [pa, pa + n): minor counters, the key, and the poison and errors of lines that it covers whole; a line that it
covers in part is read first (R405, R408). -/
def State.touchLines (s : State) (pa n key : Nat) : State :=
  let whole := fun l => decide (pa ≤ l * 64) && decide (l * 64 + 64 ≤ pa + n)
  let s := ((linesOf pa n).filter (fun l => !whole l)).foldl State.meetLine s
  { (s.noteCode pa n).noteDesc pa n with lineInfo := (linesOf pa n).foldl (fun m l =>
      let x := kget m l
      kset m l { x with minor := x.minor + 1, keyGen := s.keyGen key,
                        poison := x.poison && !whole l, forged := x.forged && !whole l, flips := if whole l then 0 else x.flips }) s.lineInfo }

/-! ## Channel controllers (R230, R397, R403) -/

/-- The channel of a physical address within its stack (R230). -/
def channelOf (pa : Nat) : Nat := bitsOf pa 12 8 ^^^ bitsOf pa 21 17

/-- The channel of an address among the 384. -/
def chanOf (pa : Nat) : Nat := 32 * (pa / 2 ^ 36) + channelOf pa

/-- The channels of [pa, pa + n), each with the 64-byte transfers that it makes there. -/
def chansOf (pa n : Nat) : List Nat := (linesOf pa n).map (fun l => chanOf (64 * l))

/-- AGECAP of a stack in controller cycles (R403). -/
def State.ageCap (s : State) (stack : Nat) : Nat := max 16 ((s.mg (0x0100 + 16 * stack)).setWidth 8).toNat

/-- A read at a channel is past the age cap. -/
def State.overAge (s : State) (r : HbmReq) : Bool := decide (s.ageCap (r.chan / 32) < s.mcNow r.chan - r.since)

/-- What is used of a budget counter in the period that runs (R397). -/
def State.budgetUsed (s : State) (k period : Nat) : Nat :=
  let b := kget s.spent k
  if b.period = period then b.used else 0

/-- The budget of a hardware slot at a channel (R397). -/
def State.chanFill (resv : List Nat) (chan : Nat) : Nat := (resv.getD (chan / 32) 0 + 31) / 32

/-- A transfer for a queue finds budget left at its channel. -/
def State.reserved (s : State) (queue chan : Nat) : Bool :=
  let (slot, resv) := s.slotOf queue
  decide (slot < 64) && decide (s.budgetUsed (64 * chan + slot) (s.mcNow chan / 1024) < State.chanFill resv chan)

/-- A transfer for a queue counts against the budget that it finds left. -/
def State.takeBudget (s : State) (queue chan : Nat) : State :=
  if s.reserved queue chan then
    let slot := (s.slotOf queue).1
    let period := s.mcNow chan / 1024
    { s with spent := kset s.spent (64 * chan + slot) { period := period, used := s.budgetUsed (64 * chan + slot) period + 1 } }
  else s

/-- An access of [pa, pa + n) that its engine makes in one step gets its turn at its channels (R403, R397): it is the youngest there, so
no read past the age cap waits, and no reserved one unless it is reserved too. -/
def State.chanOpen (s : State) (queue pa n : Nat) : Bool :=
  (chansOf pa n).all (fun c =>
    let q := s.hbmQ.filter (fun r => r.chan == c)
    q.all (fun r => !s.overAge r) && (s.reserved queue c || q.all (fun r => !r.resv)))

/-- The transfers of such an access count against its queue's budgets. -/
def State.chanTake (s : State) (queue pa n : Nat) : State := (chansOf pa n).foldl (fun s c => s.takeBudget queue c) s

/-- The number that stands for no queue: 2^16 (R383). -/
abbrev noQueue : Nat := 2 ^ 16

/-- A walk of an address finds every entry that it reads free at its page and its channel (R397, R403, R408). -/
def State.walkOpen (s : State) (queue asid space va : Nat) : Bool :=
  (s.walkPas asid space va).all (fun a => s.pageTurn a none && s.chanOpen queue a 8)

/-- The tables that a walk of an address reads (R231), for a queue. -/
def State.readWalk (s : State) (queue asid space va : Nat) : State :=
  (s.walkPas asid space va).foldl (fun s a => (s.readTable a 8).chanTake queue a 8) (s.readTable (s.ctxAddr asid) 128)

/-- The walk with a buffer's entry on the way to offset `off`: whether it may be made, and what it reads, with what its leaf says of its page
(R231, R232). -/
def State.pageOpen (s : State) (queue asid : Nat) (e : BufEnt) (off : Nat) : Bool :=
  s.walkOpen queue asid (e.interleave off).1 (e.interleave off).2

def State.readPage (s : State) (queue asid : Nat) (e : BufEnt) (off : Nat) : State :=
  (s.readWalk queue asid (e.interleave off).1 (e.interleave off).2).learnPage asid e off

/-- The queue of a gang's launch; gang 0 stands for none. -/
def State.queueOf (s : State) (gid : Nat) : Nat := if gid = 0 then noQueue else (s.launchOf gid).queue

/-! ## Paths (R21, R272) -/

def enginePaths : List Path := [.c, .b, .x]

/-- A write comes before an access on path `p` of a gang, `serial` being the number of its copy on path C: a launch that the gang's launch
waited on wrote it (R392), or the gang that enqueued the launch had released it (R394), or a fence or the end of a copy stands between
(R266, R301). -/
def State.lagBefore (s : State) (p : Path) (gid serial : Nat) (g : Lag) : Bool :=
  let l := s.launchOf gid
  l.after.contains g.launch || l.ring.any g.kids.contains ||
    g.seen.any (fun x => x.gid == gid && x.path == p && decide (x.after < serial))

/-- The writes of a byte, oldest first, that its contents have stood behind. -/
def State.lagsAt (s : State) (l : Loc) : List Lag := s.lags.filter (fun g => decide (g.loc = l))

/-- What an access may miss of the writes of a byte (R273): those after the last that comes before it. -/
def State.lagsOf (s : State) (p : Path) (gid serial : Nat) (l : Loc) : List Lag :=
  ((s.lagsAt l).reverse.takeWhile (fun g => !s.lagBefore p gid serial g)).reverse

/-- A copy meets these writes of a byte. -/
def State.meet (s : State) (l : List Lag) (serial : Nat) : State :=
  if l.isEmpty then s
  else { s with lags := s.lags.map (fun g => if l.contains g && !g.met.contains serial then { g with met := g.met ++ [serial] } else g) }

/-- A byte as a gang's copy on path `p` reads it: the writes that nothing has put before it may be missed (R21, R273). It meets those that
stand before what it reads (R301). -/
def State.readByte (s : State) (p : Path) (gid serial : Nat) (l : Loc) : Byte × State :=
  let all := s.lagsAt l
  let open_ := s.lagsOf p gid serial l
  if open_.isEmpty then (s.peek l, s.meet all serial)
  else
    let (k, s) := s.choose (open_.length + 1)
    match open_[k]? with
    | none => (s.peek l, s.meet all serial)
    | some g => (g.old, s.meet (all.take (all.length - open_.length + k)) serial)

/-- `n` bytes on a path, little-endian. -/
def State.readPath (s : State) (p : Path) (gid serial : Nat) (l : Loc) : Nat → Nat × State
  | 0 => (0, s)
  | n + 1 =>
    let (b, s) := s.readByte p gid serial l
    let (x, s) := s.readPath p gid serial (l.plus 1) n
    (b.toNat + 256 * x, s)

/-- A write lies in block memory. -/
def Loc.isBlk (l : Loc) : Bool := match l with | .blk _ _ => true | _ => false

/-- The writes of paths `ws` that stand before number `upto`, and the gang's own stores to block memory that were issued before it, come
before the gang's accesses on paths `rs` from here on (R266, R272). -/
def State.order (s : State) (ws rs : List Path) (gid upto : Nat) : State :=
  let new := (rs.filter enginePaths.contains).map (fun r => ({ gid := gid, path := r, after := s.next } : Seen))
  { s with lags := s.lags.map (fun g =>
      if ws.contains g.from_ && (decide (g.num ≤ upto) || (g.gid == gid && g.loc.isBlk && decide (g.req ≤ upto)))
      then { g with seen := g.seen ++ new.filter (fun x => g.seen.all (fun y => !(y.gid == x.gid && y.path == x.path))) } else g) }

/-- A gang has observed the end of a copy (R301): what the copy wrote or met comes before the gang's later copies. -/
def State.observe (s : State) (gid serial : Nat) : State :=
  { s with lags := s.lags.map (fun g =>
      if g.met.contains serial && g.seen.all (fun x => !(x.gid == gid && x.path == .c))
      then { g with seen := g.seen ++ [{ gid := gid, path := .c, after := s.next }] } else g) }

def Copy.complete (c : Copy) : Bool := c.state == 0 || c.state == 1

/-- A gang that reads a completion record in block memory, as it was written, has observed the end of its copy (R301). -/
def State.observeRecord (s : State) (gid : Nat) (l : Loc) (n : Nat) : State :=
  match l with
  | .blk b off => (s.block b).records.foldl (fun s x =>
      if off < x.1 + 8 ∧ x.1 < off + n ∧ s.peekN (.blk b x.1) 8 = x.2.2 then s.observe gid x.2.1 else s) s
  | _ => s

def Path.code : Path → Nat
  | .t => 0 | .c => 1 | .b => 2 | .x => 3

/-! ## `waddr` (R175, R176) -/

/-- The condition of `waddr`. -/
def waddrCond (cond : BitVec 3) (v c : BitVec 64) : Bool :=
  match cond.toNat with
  | 0 => v == c
  | 1 => v != c
  | 2 => decide (c.toNat ≤ v.toNat)
  | 3 => decide (c.toNat < v.toNat)
  | _ => v &&& c != 0

/-- A thread's `waddr` ends with the value `v`: D receives it and the thread is ready. -/
def Gang.waddrHit (g : Gang) (lane : Nat) (w : WaddrWait) (v : BitVec 64) : Gang :=
  let n := if w.wide then 2 else 1
  let g := g.modThread lane (fun t => if t.st == .waiting then t.wake else { t with savedWait := .none })
  { g with regs := g.regs.writeGroup lane n w.dst (v.setWidth 128) }.leaveWaddr lane w.load

/-- The word that a `waddr` watches, as it stands. -/
def State.waddrVal (s : State) (w : WaddrWait) : BitVec 64 := BitVec.ofNat 64 (s.peekN w.loc (if w.wide then 8 else 4))

/-- Two ranges of bytes meet. -/
def Loc.meets (a : Loc) (n : Nat) (b : Loc) (m : Nat) : Bool :=
  match a, b with
  | .hbm x, .hbm y | .host x, .host y => decide (x < y + m) && decide (y < x + n)
  | .blk i x, .blk j y => i == j && decide (x < y + m) && decide (y < x + n)
  | _, _ => false

/-- Tests every monitored word that a write of `n` bytes at `l` meets (R176), in ascending gang and lane. -/
def State.wakeWaddr (s : State) (l : Loc) (n : Nat) : State :=
  s.gangs.foldl (fun s kv =>
    let g := kv.2
    (lanesOf (g.lanesWith (fun t => match t.st, t.wait with | .waiting, .waddr _ => true | _, _ => false))).foldl (fun s lane =>
      match ((s.gang kv.1).thread lane).wait with
      | .waddr w =>
        if w.entry && !w.fresh && w.loc.meets (if w.wide then 8 else 4) l n && waddrCond w.cond (s.waddrVal w) w.cmp
        then (s.modGang kv.1 (fun g => g.waddrHit lane w (s.waddrVal w))).observeRecord kv.1 l n else s
      | _ => s) s) s

/-! ## Writes -/

/-- A slice write watch matches (R213): a SLICEWATCH record, posted through the first core of the slice's cluster; SRC is 0xFF for a write
of the queue scheduler too, which no cluster makes (DESIGN CHOICE, log 144). -/
def State.sliceWatch (s : State) (l : Loc) (n : Nat) (p : Path) (src : Nat) : State :=
  match l with
  | .hbm pa =>
    let cl := homeSlice (pa / 4096)
    let lo := s.mg64 (clusterMg cl 0x0900)
    let hi := s.mg64 (clusterMg cl 0x0908)
    let a := pa % 2 ^ 36
    if hi < lo ∨ hi < a ∨ a + n ≤ lo then s
    else (s.post (4 * cl) { type := 6, kind := 0, seq := 0, asid := 0, core := 4 * cl, gang := 0, pc := 0, lanes := 0, handle := 0,
                            path := p.code, src := if src < 192 then src / 4 else 0xFF, code := 0, off := a }).2
  | _ => s

/-- Correctable soft errors in the words of on-chip memory that an access of [l, l + n) meets are counted and corrected; those of words that a
write covers are gone without a read (R401, R405). -/
def State.meetWords (s : State) (l : Loc) (n : Nat) (write : Bool) : State :=
  let hit := s.soft.filter (fun e => match e with | .word w => l.meets n w 4 | _ => false)
  let read := hit.filter (fun e => match e with
    | .word w => !(write && (List.range 4).all (fun k => l.meets n (w.plus k) 1))
    | _ => false)
  if hit.isEmpty then s else iter (fun s => s.countMg 0x0200) read.length { s with soft := s.soft.filter (fun e => !hit.contains e) }

/-- A gang that took these bytes from a crumb log in its open phase could now read another value: its OVF is set, unless the write is its
own (R254, R275; DESIGN CHOICE, log 137). -/
def State.markLogged (s : State) (p : Path) (gid : Nat) (l : Loc) (n : Nat) : State :=
  match l with
  | .hbm pa =>
    let hit := fun (kv : Nat × Gang) => kv.2.live && kv.2.active && !(kv.1 == gid && p == .t) &&
      kv.2.logged.any (fun x => decide (x.1 < pa + n) && decide (pa < x.1 + x.2))
    if s.gangs.any hit then { s with gangs := s.gangs.map (fun kv => if hit kv then (kv.1, { kv.2 with ovf := true }) else kv) } else s
  | _ => s

/-- Changes the stored bytes at a place: the host's memory, block memory, the frame of a resident tile, or main memory. -/
def State.store (s : State) (l : Loc) (n x key : Nat) : State :=
  match l with
  | .host pa => { s with host := memWrite s.host pa n x }
  | .blk b off => s.modBlock b (fun k => { k with mem := memWrite k.mem off n x })
  | .hbm pa =>
    let t := pa / 4096
    if (s.tile t).st = .resident then s.modTile t (fun y => { y with data := memWrite y.data (pa % 4096) n x, dirty := true, key := key })
    else (s.touchLines pa n key).hbmWrite pa n x

/-- The bytes at a place may be missed by engines' accesses until something orders them (R21), a copy's also by other copies (R301, R302).
`serial` is the number of the request, of the copy on path C, or of the post. -/
def State.noteLag (s : State) (p : Path) (gid serial : Nat) (l : Loc) (n : Nat) : State :=
  let lag := fun k =>
    ({ loc := l.plus k, old := s.peek (l.plus k), from_ := p, gid := gid, num := s.next + 1, req := serial,
       launch := (s.block (s.gang gid).block).launch, met := if p = .c then [serial] else [], seen := [], kids := [] } : Lag)
  let s' := if p = .c then
      { s with lags := s.lags.map (fun g =>
        if (List.range n).any (fun k => decide (g.loc = l.plus k)) && !g.met.contains serial then { g with met := g.met ++ [serial] } else g) }
    else s
  { s' with lags := s'.lags ++ (List.range n).map lag, next := s.next + 1 }

/-- Performs a write of `n` bytes at its point on path `p`; `src` is the source core, 192 or above for none, `gid` the gang on whose
behalf it is made, or 0, and `serial` the number of its request, of its copy on path C, or of its post. -/
def State.write (s : State) (p : Path) (src gid serial : Nat) (l : Loc) (n x key : Nat) : State :=
  ((((((s.markLogged p gid l n).meetWords l n true).noteLag p gid serial l n).store l n x key).sliceWatch l n p src).wakeWaddr l n)

/-! ## Crumb logs (R236, R237) -/

def Crumb.covers (p e : Crumb) : Bool := decide (p.off ≤ e.off) && decide (e.off + e.width ≤ p.off + p.width)
def Crumb.overlaps (p e : Crumb) : Bool := decide (p.off < e.off + e.width) && decide (e.off < p.off + p.width)
def Crumb.same (p e : Crumb) : Bool := p.off == e.off && p.width == e.width

/-- `Combinable` and `Combine` (R237). -/
def Crumb.combine (p e : Crumb) : Option Crumb :=
  let at_ := fun (v : Nat) =>
    -- e's bytes within p's operand
    let sh := 8 * (e.off - p.off)
    let m := 2 ^ (8 * e.width)
    let x := p.val.toNat
    BitVec.ofNat 64 (x / 2 ^ sh / m * m * 2 ^ sh + v % m * 2 ^ sh + x % 2 ^ sh)
  let old := p.val.toNat / 2 ^ (8 * (e.off - p.off))
  let join := fun (op : MemOp) => BitVec.ofNat 64 (memOpNew op e.signed e.width p.val.toNat e.val.toNat)
  match p.op, e.op with
  | .store, .store => if p.covers e then some { p with val := at_ e.val.toNat } else none
  | .store, .fadd => if p.same e then some { p with val := at_ (memOpNew .fadd false 4 old e.val.toNat) } else none
  | .store, op => if p.covers e then some { p with val := at_ (memOpNew op e.signed e.width old e.val.toNat) } else none
  | .add, .add => if p.same e then some { p with val := join .add } else none
  | .fadd, .fadd => if p.same e then some { p with val := join .fadd } else none
  | .min, .min => if p.same e && p.signed == e.signed then some { p with val := join .min } else none
  | .max, .max => if p.same e && p.signed == e.signed then some { p with val := join .max } else none
  | .and, .and => if p.same e then some { p with val := join .and } else none
  | .or, .or => if p.same e then some { p with val := join .or } else none
  | .xor, .xor => if p.same e then some { p with val := join .xor } else none
  | _, _ => none

/-- The index of the last entry whose bytes overlap e's. -/
def lastOverlap (out : List Crumb) (e : Crumb) : Option Nat :=
  ((List.range out.length).filter (fun k => match out[k]? with | some p => p.overlaps e | none => false)).getLast?

/-- The `while` of `Compact`: a store removes the last overlapping entries that it covers. -/
def compactDrop (e : Crumb) : Nat → List Crumb → List Crumb
  | 0, out => out
  | n + 1, out =>
    match lastOverlap out e with
    | some k => (match out[k]? with
      | some p => if e.op = .store ∧ e.covers p then compactDrop e n (out.eraseIdx k) else out
      | none => out)
    | none => out

/-- `Compact` (R237). -/
def compact (log : List Crumb) : List Crumb :=
  log.foldl (fun out e =>
    let out := compactDrop e out.length out
    match lastOverlap out e with
    | none => out ++ [e]
    | some k => (match out[k]? with
      | none => out ++ [e]
      | some p => (match p.combine e with
        | some q => out.set k q
        | none => out ++ [e]))) []

/-- Log entries held in a slice (R243). -/
def State.poolUsed (s : State) (slice : Nat) : Nat :=
  ((s.tiles.filter (fun kv => homeSlice kv.1 == slice)).map (fun kv => kv.2.log.length)).sum

/-- The bytes [off, off + n) of a tile are each covered by a store entry that is the latest entry for it (R236): the value. -/
def logServe (log : List Crumb) (off n : Nat) : Option Nat :=
  let byte := fun k => (log.filter (fun e => decide (e.off ≤ off + k) && decide (off + k < e.off + e.width))).getLast?
  if (List.range n).all (fun k => match byte k with | some e => e.op == .store | none => false) then
    some ((List.range n).foldl (fun x k =>
      match byte k with
      | some e => x + (e.val.toNat / 2 ^ (8 * (off + k - e.off)) % 256) * 2 ^ (8 * k)
      | none => x) 0)
  else none

/-! ## The hot-tile tracker (R244) -/

/-- The counts of a slice are halved for every instant, a multiple of 2^DECAY cycles, that has passed since they last were. -/
def State.hotSettle (s : State) (slice : Nat) : State :=
  let decay := ((s.mg (clusterMg slice 0x0800)).extractLsb' 0 5).toNat
  let now := s.now (4 * slice)
  let at_ := (kget s.clusters slice).hotAt
  let n := now / 2 ^ decay - at_ / 2 ^ decay
  if at_ = now then s
  else
    let s := { s with clusters := kmod s.clusters slice (fun c => { c with hotAt := now }) }
    if n = 0 then s
    else { s with tiles := s.tiles.map (fun kv =>
      if homeSlice kv.1 = slice then
        (kv.1, { kv.2 with count := kv.2.count.map (· / 2 ^ n),
                           barred := kv.2.barred && (match kv.2.count with | some c => c / 2 ^ n != 0 | none => false) })
      else kv) }

/-- A counted event of an absent tile. -/
def State.hotCount (s : State) (tile : Nat) (pin : Bool) : State :=
  let slice := homeSlice tile
  let ctl := s.mg (clusterMg slice 0x0800)
  let s := s.hotSettle slice
  let t := s.tile tile
  if !ctl.getLsbD 31 then s
  else if pin then s.countMg (clusterMg slice 0x0804)
  else if t.barred then s
  else match t.count with
    | some c => s.setTile tile { t with count := some (c + 1) }
    | none =>
      let held := s.tiles.filter (fun kv => homeSlice kv.1 == slice && kv.2.count.isSome)
      if held.length < 256 then s.setTile tile { t with count := some 1 }
      else match held.find? (fun kv => kv.2.count == some 0) with
        | some kv => (s.modTile kv.1 (fun y => { y with count := none })).setTile tile { t with count := some 1 }
        | none => s

/-! ## Frames and evictions (R234, R242) -/

/-- Tiles of a slice that hold one of its 2,048 frames. -/
def State.frames (s : State) (slice : Nat) : List Nat :=
  (s.tiles.filter (fun kv => homeSlice kv.1 == slice && (kv.2.st == .resident || (kv.2.st == .arriving && kv.2.framed)))).map Prod.fst

/-- Evicts a resident tile (R242): a dirty one is written back first, once its page and its channels let it. Under a spent key that write
fails with KEYEXH (R409): a FAULT record says so, and the tile is absent with what main memory holds. -/
def State.evict (s : State) (tile : Nat) : Bool × State :=
  let t := s.tile tile
  let pa := tile * 4096
  if t.st ≠ .resident then (false, s)
  else if !t.dirty then (true, { s.meetWords (.hbm pa) 4096 true with tiles := kdel s.tiles tile })
  else if (kget s.keys t.key).spent then
    (true, { s.postFault (4 * homeSlice tile) fkKeyExh 0 0 0 0 0 (pa % 2 ^ 36) with tiles := kdel s.tiles tile })
  else if !s.chanOpen noQueue pa 4096 then (false, s)
  else match s.gate pa t.key (s.minorFull [(pa, 4096)]) (.evict tile) with
    | (false, s) => (false, s)
    | (true, s) =>
      (true, { ((s.meetWords (.hbm pa) 4096 false).putTileMem tile t.data).touchLines pa 4096 t.key with tiles := kdel s.tiles tile })

/-- A frame for an arrival (R238 step 2): with all 2,048 in use, one victim leaves, a tile that `tevict` marked before any other. -/
def State.makeRoom (s : State) (slice : Nat) : Bool × State :=
  let fs := (s.frames slice)
  let fr := fs.filter (fun t => (s.tile t).st == .resident)
  if fs.length < 2048 then (true, s)
  else
    let marked := fr.filter (fun t => (s.tile t).victim)
    let cands := if marked.isEmpty then fr else marked
    let (k, s) := s.choose cands.length
    match cands[k]? with
    | some t => s.evict t
    | none => (false, s)

/-! ## Arrival (R238) -/

/-- An arriving tile takes its frame, and its 16 reads of main memory then wait at their channels (R238 steps 2 and 3). -/
def State.takeFrame (s : State) (tile : Nat) : State :=
  if (s.tile tile).st ≠ .arriving ∨ (s.tile tile).framed then s
  else match s.makeRoom (homeSlice tile) with
    | (false, s) => s
    | (true, s) =>
      let q := s.queueOf (s.tile tile).asker
      let (reqs, s) := (List.range 16).foldl (fun (acc : List HbmReq × State) k =>
        let pa := tile * 4096 + 256 * k
        let chan := chanOf pa
        let resv := acc.2.reserved q chan
        (acc.1 ++ [{ chan := chan, tile := tile, chunk := k, since := acc.2.mcNow chan, resv := resv }], acc.2.chanTake q pa 256)) ([], s)
      { s.modTile tile (fun t => { t with framed := true }) with hbmQ := s.hbmQ ++ reqs }

/-- A tile's arrival begins (R238 step 1) on behalf of a gang, or of none (0). -/
def State.arrive (s : State) (tile : Nat) (cause : List Req) (gid : Nat) (reclaim : Bool) : State :=
  let t := s.tile tile
  if t.st = .absent then
    (s.setTile tile { t with st := .arriving, waiting := cause, caused := !cause.isEmpty, bad := false, framed := false, reclaim := reclaim,
                             asker := gid, key := (match cause with | [] => t.key | r :: _ => r.key) }).takeFrame tile
  else s

/-- The tile of a slice whose oldest log entry is oldest (R243); one whose read has failed is passed over (R241). -/
def State.oldestLog (s : State) (slice : Nat) : Option Nat :=
  let cands := s.tiles.filter (fun kv => homeSlice kv.1 == slice && kv.2.st == .absent && !kv.2.log.isEmpty && !kv.2.barred)
  let age := fun (kv : Nat × Tile) => (kv.2.log.map (fun e => e.stamp)).min?.getD 0
  (cands.foldl (fun best kv => match best with
    | none => some kv
    | some b => if age kv < age b then some kv else some b) none).map Prod.fst

/-- A slice reclaims log entries, one tile at a time (R243, R245). -/
def State.reclaimLog (s : State) (slice : Nat) : State :=
  if s.tiles.any (fun kv => homeSlice kv.1 == slice && kv.2.st == .arriving && kv.2.reclaim) then s
  else match s.oldestLog slice with
    | some old => s.arrive old [] 0 true
    | none => s

/-! ## Posts (R372, R374, R379) -/

def State.postAt (s : State) (k : Nat) : Post := kget s.posts k
def State.setPost (s : State) (k : Nat) (p : Post) : State := { s with posts := kset s.posts k p }

/-- A post is over: with the last one of its broadcast, OUT falls by 1 (R373, R374). -/
def State.dropPost (s : State) (k : Nat) : State :=
  let p := s.postAt k
  let s := { s with posts := kdel s.posts k }
  if s.posts.any (fun kv => kv.2.gid == p.gid && kv.2.out == p.out) then s
  else s.modGang p.gid (fun g => { g with posts := g.posts.filter (· != p.out) })

/-- A post fails after its issue checks (R379): FAB.STAT and a FAULT record. `src` is the cluster that was reset, for TRUNC; a fetch that
a unit or the add forced reports no lanes (R241). -/
def State.failPost (s : State) (k kind src : Nat) (named : Bool) : State :=
  match kfind s.posts k with
  | none => s
  | some p =>
    let s := s.modGang p.gid (fun g => { g with fabFail := min 255 (g.fabFail + 1), fabKind := kind })
    let s := (s.post (s.gang p.gid).core { s.gangRec p.gid 1 kind p.pc (if named then p.lanes else 0) with
      handle := p.handle % 2 ^ 16, path := 3, src := src, off := p.off }).2
    s.dropPost k

/-! ## Answers -/

/-- The number of a request, or of the post that it belongs to. -/
def Req.origin (r : Req) : Nat := if r.path = .x then r.load else r.id

/-- An access that returns a value has performed: its bytes join the lane's value (R251). -/
def State.answer (s : State) (r : Req) (x : Nat) : State :=
  s.modGang r.gid (fun g => { g with loads := g.loads.map (fun l =>
    if l.id = r.load then
      let keep := (List.range 16).foldl (fun m k => if r.bytes.getLsbD k then m ||| ((0xFF#128) <<< (8 * k)) else m) 0
      { l with
        vals := sset l.vals r.lane (sget l.vals r.lane ||| ((BitVec.ofNat 128 x <<< (8 * r.shift)) &&& keep) ||| r.val)
        reqs := l.reqs.filter (· != r.id) }
    else l) })

/-- A store, reduction or metadata write has been performed or appended (R264). -/
def State.markPerformed (s : State) (r : Req) : State :=
  if r.path = .x then
    match kfind s.posts r.load with
    | some p => s.setPost r.load { p with open_ := p.open_.filter (· != r.id) }
    | none => s
  else if r.acked then s.modGang r.gid (fun g => { g with out := g.out.map (fun o => if o.1 = r.id then (o.1, true) else o) }) else s

/-- The core's copy of the line of `pa` that a gang hits (R253): the oldest whose stamp is at least its acquire generation. -/
def State.lineHit (s : State) (gid pa : Nat) : Option Line :=
  let g := s.gang gid
  (kget (s.core g.core).lines (pa / 64)).find? (fun ln => decide (g.acq ≤ ln.stamp))

/-- Copies of lines that a core's phase cache holds. -/
def Core.lineCount (c : Core) : Nat := (c.lines.map (fun kv => kv.2.length)).sum

/-- One copy leaves the phase cache; the end of one that a resident gang may still hit sets OVF (R254). -/
def State.dropCopy (s : State) (core line : Nat) (ln : Line) : State :=
  (s.markCopies core [ln] none).modCore core (fun c =>
    let rest := (kget c.lines line).erase ln
    { c with lines := if rest.isEmpty then kdel c.lines line else kset c.lines line rest })

/-- Room for one more line among the 8,192 (R13, R254): one that no resident gang may hit leaves before any other, which one is not
fixed. -/
def State.lineRoom (s : State) (core : Nat) : State :=
  let c := s.core core
  if c.lineCount < 8192 then s
  else
    let all := (c.lines.map (fun kv => kv.2.map (fun ln => (kv.1, ln)))).flatten
    let idle := all.filter (fun x => !s.lineKept core x.2)
    let cands := if idle.isEmpty then all else idle
    let (k, s) := s.choose cands.length
    match cands[k]? with
    | some (line, ln) => s.dropCopy core line ln
    | none => s

/-- A miss puts a copy of the line that holds `pa` in place, stamped with the core's generation (R253). Copies that resident gangs may
still hit stay beside it (R254, R275). -/
def State.fillLine (s : State) (core pa : Nat) (data : Sparse 8) : State :=
  let d := (skeep data (fun k => decide (k / 64 = pa % 4096 / 64))).map (fun kv => (kv.1 % 64, kv.2))
  let s := s.modCore core (fun c =>
    let kept := (kget c.lines (pa / 64)).filter (s.lineKept core)
    { c with lines := if kept.isEmpty then kdel c.lines (pa / 64) else kset c.lines (pa / 64) kept })
  (s.lineRoom core).modCore core (fun c =>
    { c with lines := kset c.lines (pa / 64) (kget c.lines (pa / 64) ++ [{ stamp := c.acqGen, data := d }]) })

/-- Lanes of a bundle fail after its checks have passed (R205, R241): they are parked at their word in the block state they had there, and
their access is taken back. The bundle has one record, of the lowest lane; it names as well a thread that takes part in a handler now,
which stands at the word again once it returns, and one that has exited meanwhile (DESIGN CHOICE, log 145). A gang whose block has been
ended parks none (R219). -/
def State.parkLane (s : State) (r : Req) (kind : Nat) : State :=
  let g := s.gang r.gid
  let op := (g.loads.find? (fun l => l.id == r.load)).getD default
  let all := op.lanes &&& (if op.uni || op.tag == 18 then r.lanes else laneBit r.lane)
  let none_ := if g.stop = .ending then all else 0
  let out := all &&& ~~~none_ &&& g.lanesWith (fun t => t.gone || t.st == .filed)
  let away := if g.trap && decide (r.serial ≤ g.trapAt) then all &&& ~~~none_ &&& ~~~out &&& g.lanesWith (fun t => t.inTrap) else 0
  let lanes := all &&& ~~~none_ &&& ~~~out &&& ~~~away
  let told := out ||| away
  let blkAt := fun l => ((op.blks.find? (fun b => b.1 == l)).map Prod.snd).getD none
  let loads := g.loads.map (fun l => if l.id = r.load then { l with lanes := l.lanes &&& ~~~all, reqs := l.reqs.filter (· != r.id) } else l)
  let g := if op.tag = 18 then (lanesOf all).foldl (fun g l => g.leaveWaddr l r.load) g else { g with loads := loads }
  let low := lowLane (lanes ||| told)
  let new : FailSet := { lanes := lanes, kind := kind, handle := r.handle, off := r.off, path := r.path.code, word := op.word, pc := r.pc, regs := op.snap,
                         iss := op.iss, serial := r.serial, low := low, told := told }
  let fails := if lanes ||| told = 0 then g.fails else if g.fails.any (fun f => f.serial == r.serial) then
      g.fails.map (fun f => if f.serial = r.serial then
        { (if low < f.low then { new with lanes := f.lanes } else f) with lanes := f.lanes ||| lanes, told := f.told ||| told } else f)
    else g.fails ++ [new]
  let g := (lanesOf lanes).foldl (fun g l => g.modThread l (fun t => { t with st := .parked, wait := .none, pc := r.pc, blk := blkAt l })) g
  let g := (lanesOf away).foldl (fun g l => g.modThread l (fun t => { t with savedPc := r.pc, savedWait := .none, savedBlk := blkAt l })) g
  let g := { g with drains := g.drains.filter (fun d => !(d.kind == 0 && away.getLsbD d.lane)) }
  s.setGang r.gid { g with fails := fails }

/-! ## Long operations and failed copies (R210, R294) -/

/-- A long operation is abandoned (R210): a LONGOP record that names the threads that issued it; those still there park at their next issue
boundary, where those that are ready stand; a thread that takes part in a handler parks once it has returned. -/
def State.longop (s : State) (gid : Nat) (lanes : Lanes) (blks : List (Nat × Option Blk)) (pc : Word) (kind handle off path : Nat) : State :=
  let g := s.gang gid
  let live := lanes &&& ~~~(g.lanesWith (fun t => t.gone || t.st == .filed))
  let (seq, s) := s.post g.core { s.gangRec gid 2 kind pc lanes with handle := handle % 2 ^ 16, path := path, off := off }
  if g.stop = .ending then s
  else s.modGang gid (fun g =>
    { g.modLanes live (fun t => { t with longPark := true, st := if t.st == .ready && !t.inTrap then .parked else t.st }) with
      replay := g.replay ++ [{ seq := seq, core := g.core, word := 0, pc := pc, lanes := lanes, regs := default, kind := kind,
                               handle := handle, off := off, path := path, type := 2, blks := blks, iss := default }] })

/-- A fault met after a copy's checks ends it FAILED (R294), once: a record that needs no answer, or a long operation where an armed
`mma` goes with the copy (R298), whose pending arm is abandoned with it. -/
def State.failCopy (s : State) (key serial kind handle off : Nat) : State :=
  match kfind s.copies key with
  | none => s
  | some c =>
    if c.serial ≠ serial ∨ c.failed.isSome ∨ c.state = 0 ∨ c.state = 1 then s
    else
      let g := s.gang c.gid
      let s := if c.armed then
          (s.longop c.gid c.lanes c.blks c.pc kind handle off 1).modGang c.gid (fun g => { g with arm := if g.arm = some key then none else g.arm })
        else s.postFault (key / 512) kind c.asid g.place c.pc handle 1 off
      { s with copies := kset s.copies key { c with failed := some kind } }

/-! ## Performing (R235, R259) -/

/-- The watch of a thread on the word that a request reads: in its wait, or saved while it takes part in a handler. -/
def Thread.watch (t : Thread) : Option WaddrWait :=
  match t.st, t.wait with
  | .waiting, .waddr w => some w
  | _, _ => if t.inTrap then (match t.savedWait with | .waddr w => some w | _ => none) else none

/-- The word of a `waddr` has been read for one thread, in its first read or one made again: the thread goes on, or its word is watched from
here on. In trap state the test waits for the return from the handler (R175, R182). -/
def State.watchLane (s : State) (gid load lane n : Nat) : State :=
  let t := (s.gang gid).thread lane
  match t.watch with
  | none => s
  | some w =>
    let v := s.waddrVal w
    if w.load ≠ load then s
    else if t.st = .waiting ∧ !t.inTrap ∧ waddrCond w.cond v w.cmp then (s.modGang gid (fun g => g.waddrHit lane w v)).observeRecord gid w.loc n
    else s.modGang gid (fun g => g.modThread lane (fun t =>
      let w := { w with fresh := false }
      if t.inTrap then { t with savedWait := .waddr w } else { t with wait := .waddr w }))

/-- The word of a `waddr` has been read, once for all threads of its bundle that watch it (R175, R176). -/
def State.watchRead (s : State) (r : Req) : State :=
  (lanesOf r.lanes).foldl (fun s lane => s.watchLane r.gid r.load lane r.width) s

/-- What a request does at a bank, at the fabric port, or on a resident tile. -/
def State.performAt (s : State) (r : Req) : State :=
  let n := r.width
  let old := s.peekN r.loc n
  match r.kind with
  | .load => (s.answer r old).observeRecord r.gid r.loc n
  | .line =>
    match r.loc with
    | .hbm pa =>
      -- a line that has come meanwhile and that the gang hits supplies the bytes (R253, R275)
      match s.lineHit r.gid pa with
      | some ln => s.answer r (memRead ln.data (pa % 64) n)
      | none => (s.fillLine r.src pa (s.tile (pa / 4096)).data).answer r old
    | _ => s.answer r old
  | .store => (s.write r.path r.src r.gid r.origin r.loc n r.val.toNat r.key).markPerformed r
  | .red => (s.write r.path r.src r.gid r.origin r.loc n (memOpNew r.op r.signed n old r.val.toNat) r.key).markPerformed r
  | .atom =>
    let s := s.write r.path r.src r.gid r.origin r.loc n (memOpNew r.op r.signed n old r.cmp.toNat) r.key
    s.answer { r with val := 0 } old
  | .cas =>
    let s := if old = r.cmp.toNat % 2 ^ (8 * n) then s.write r.path r.src r.gid r.origin r.loc n r.val.toNat r.key else s
    s.answer { r with val := 0 } old
  | .mdld | .mdst =>
    match r.loc with
    | .hbm pa =>
      -- the capacity of the line is its page's (R270), in `cmp`
      let cap := r.cmp.toNat
      let x := (s.line pa).meta_.toNat % 2 ^ cap
      if r.kind = .mdld then
        -- a frame that is mapped at two grades (R8, R232)
        if s.gradeOf (pa / 64) = 3 then
          let (u, s) := s.undef (s.launchOf r.gid).asid 64
          s.answer { r with val := 0 } (u.toNat % 2 ^ (8 * n))
        else s.answer { r with val := 0 } (x % 2 ^ (8 * n))
      else
        let k := min cap (8 * n)
        let y := (s.line pa).meta_.toNat / 2 ^ k * 2 ^ k + r.val.toNat % 2 ^ k
        ({ s with lineInfo := kset s.lineInfo (pa / 64) { s.line pa with meta_ := BitVec.ofNat 56 y } }).markPerformed r
    | _ => s
  | .tfetch | .copy => s
  | .waddr => s.watchRead r

/-- A request is performed: soft errors in the words that it reads on chip are corrected first (R405). -/
def State.perform (s : State) (r : Req) : State :=
  (match r.kind with
    | .store | .mdld | .mdst | .tfetch | .copy => s
    | _ => s.meetWords r.loc r.width false).performAt r

/-- A request cannot be performed (R241 step 2; R409 for a write under a spent key). -/
def State.failReq (s : State) (r : Req) (kind : Nat) : State :=
  match r.kind with
  | .store | .red | .mdst =>
    let g := s.gang r.gid
    if r.path = .x then s.failPost r.load kind 0 (kind != fkUncorr) else
    (s.postFault (if r.src < 192 then r.src else g.core) kind (s.launchOf r.gid).asid g.place r.pc r.handle r.path.code r.off).markPerformed r
  | .tfetch => s
  | .copy => s.failCopy r.load r.serial kind r.handle r.off
  | _ => s.parkLane r kind

/-- `Append` (R237) of a store or reduction to an absent tile whose log has room. -/
def State.append (s : State) (tile : Nat) (r : Req) : State :=
  let t := s.tile tile
  let off := match r.loc with | .hbm pa => pa % 4096 | _ => 0
  let e : Crumb := { op := if r.kind = .store then .store else r.op, signed := r.signed, width := r.width, off := off,
                     val := r.val.setWidth 64, stamp := s.next }
  let s := (s.markLogged r.path r.gid r.loc r.width).noteLag r.path r.gid r.origin r.loc r.width
  let log := t.log ++ [e]
  let s := { s.setTile tile { t with log := (if 24 ≤ log.length then compact log else log), key := r.key } with next := s.next + 1 }
  (((s.sliceWatch r.loc r.width r.path r.src).wakeWaddr r.loc r.width).markPerformed r).hotCount tile r.pin

/-- A plain load took bytes from a crumb log, which fills no line (R253). -/
def State.noteLogged (s : State) (gid pa n : Nat) : State :=
  s.modGang gid (fun g => if g.logged.contains (pa, n) then g else { g with logged := g.logged ++ [(pa, n)] })

/-- The request writes main memory's data (R409). -/
def Req.writes (r : Req) : Bool := match r.kind with | .store | .red | .atom | .cas | .mdst => true | _ => false

/-- The home slice takes a request (R235 to R240). `failed` is set while the accesses that waited on a failed arrival are
served again: what would need the tile then fails without another read (R241 step 3). A write under a spent key fails (R409). -/
def State.serve (s : State) (r : Req) (failed : Bool) : State :=
  match r.loc with
  | .hbm pa =>
    let tile := pa / 4096
    let t := s.tile tile
    if r.writes && (kget s.keys r.key).spent then s.failReq r fkKeyExh
    else match t.st with
    | .resident => s.perform r
    | .arriving => s.setTile tile { t with waiting := t.waiting ++ [r] }
    | .absent =>
      let needs := if failed then s.failReq r fkUncorr else s.arrive tile [r] r.gid false
      match r.kind with
      | .store | .red =>
        if t.log.length = 32 then needs
        else if 16384 ≤ s.poolUsed (homeSlice tile) then
          -- the append waits while the slice reclaims (R243)
          { s with reqs := r :: s.reqs }.reclaimLog (homeSlice tile)
        else s.append tile r
      | .load | .line =>
        (match logServe t.log (pa % 4096) r.width with
        | some x => ((if r.kind = .line then s.noteLogged r.gid pa r.width else s).hotCount tile r.pin).answer r x
        | none => needs)
      | .tfetch => if failed then s else (s.setTile tile { t with key := r.key }).arrive tile [] r.gid false
      | _ => needs
  | _ => s.perform r

/-! ## Block-memory banks (R222, R223) -/

/-- `Bank` (R222): the bank of a block offset under swizzle field `w`. -/
def bankOf (w a : Nat) : Nat :=
  let b := bitsOf a 6 2
  if w = 0 then b else b ^^^ bitsOf a (w + 7) (w + 3)

/-- The word numbers of block memory that a request reaches, with its block. -/
def Req.words (r : Req) : Option (Nat × List Nat) :=
  match r.loc with
  | .blk b off => some (b, (List.range ((off + r.width + 3) / 4 - off / 4)).map (off / 4 + ·))
  | _ => none

/-- Request `q` at a bank comes before `r`: an earlier access of one thread to one word (R272), or a lower lane of its bundle at one bank
(R104). Nothing else orders them. -/
def State.bankBefore (s : State) (q r : Req) : Bool :=
  match q.words, r.words with
  | some (b, ws), some (c, vs) =>
    let w := (s.launch (s.block b).launch).swizzle
    b == c &&
      ((decide (q.id < r.id) && q.who.any r.who.contains && ws.any vs.contains) ||
        (q.gid == r.gid && q.serial == r.serial && decide (q.order < r.order) &&
          ws.any (fun x => vs.any (fun y => bankOf w (4 * x) == bankOf w (4 * y)))))
  | _, _ => false

/-- The requests that a bank may perform next. -/
def State.bankReady (s : State) : List Req :=
  s.reqs.filter (fun r => r.words.isSome && s.reqs.all (fun q => !s.bankBefore q r))

/-- A bank performs a request; the lanes of a bundle that load one word are served together (R223). -/
def State.bankServe (s : State) (r : Req) : State :=
  let together := fun (q : Req) => q.id == r.id ||
    (r.kind == .load && q.kind == .load && q.gid == r.gid && q.serial == r.serial && decide (q.words = r.words))
  (s.reqs.filter together).foldl State.perform { s with reqs := s.reqs.filter (fun q => !together q) }

/-- Requests at the banks for some of a block's words, and for what they come after, are performed: a thread's own read of a word in one
step comes after its earlier accesses of it (R272). -/
def State.bankFlush (s : State) (who : List Word) (block off n : Nat) : State :=
  let l := s.reqs.filter (fun q => match q.loc with
    | .blk b o => b == block && q.who.any who.contains && decide (o < off + n) && decide (off < o + q.width)
    | _ => false)
  match l.getLast? with
  | none => s
  | some last => (s.reqs.filter (fun q => q.gid == last.gid && q.words.isSome && decide (q.id ≤ last.id))).foldl (fun s q =>
      if s.reqs.any (fun x => x.id == q.id) then s.bankServe q else s) s

/-- The oldest request of an input queue of a home slice leaves it (R235, R257). -/
def State.takeReq (s : State) (p : Req → Bool) : Option (Req × State) :=
  match s.reqs.find? p with
  | none => none
  | some r => some (r, { s with reqs := s.reqs.eraseP p })

def Req.slice (r : Req) : Option Nat :=
  match r.loc with
  | .hbm pa => some (homeSlice (pa / 4096))
  | _ => none

/-! ## The end of a block (R109, R219) -/

/-- A block's filed packets. -/
def State.filedIn (s : State) (b : Nat) : Bool := (s.core (s.block b).core).bins.any (fun kv => kv.2.block == b)

/-- The stores and reductions that stand at a block's banks are performed, the oldest first. -/
def State.flushBlock (s : State) (b : Nat) : State :=
  let here := fun (r : Req) => match r.words with | some (c, _) => c == b | none => false
  (s.reqs.filter here).foldl State.perform { s with reqs := s.reqs.filter (fun r => !here r) }

/-- Every gang of a block has ended and no packet of it is filed: its resources are free. What its block memory held stays in the
core's (R221). -/
def State.endBlock (s : State) (b : Nat) : State :=
  let k := s.block b
  if !k.live || k.gangs.any (fun g => (s.gang g).live) || s.filedIn b then s
  else
    let s := s.flushBlock b
    let k := s.block b
    let size := k.blkmem + 32 * k.ngang * k.stack
    let kept := skeep (s.core k.core).bmem (fun a => decide (a < k.memBase ∨ k.memBase + size ≤ a))
    let left := (skeep k.mem (fun a => decide (a < size))).foldl (fun (m : Memory) kv => memSet m (k.memBase + kv.1) kv.2) kept
    let s := if k.where_ = .active then s.modCore k.core (fun c => { c with bmem := left }) else s
    let s := { s with
      cursors := s.cursors.filter (fun kv => kv.2.block != b)
      lags := s.lags.filter (fun g => match g.loc with | .blk c _ => c != b | _ => true)
      soft := s.soft.filter (fun e => match e with | .word (.blk c _) => c != b | _ => true) }
    s.setBlock b { k with live := false, mem := [], slab := [], bars := [], records := [] }

end Sys2Proof.Machine
end

