-- ==== Sys2Proof/Machine/Access.lean ====
section
/-! DEFINITION. The check of an access (R196, R221, R224, R228) and the course that every fault-capable word takes: the taint
wait (R251), the checks with their translation walks (R196, R233), the parking of lanes that fail (R205), the effect for the
lanes that pass, and the watchpoints (R212). -/

namespace Sys2Proof.Machine

/-- What a lane's access asks of its checks: the rights, the kinds permitted, its width, the alignment of its offset, whether
it writes, and whether it goes to block memory. -/
structure Ask where
  rights : Nat
  kinds  : List Nat
  width  : Nat
  align  : Nat
  write  : Bool
  blk    : Bool
  deriving DecidableEq, Repr, Inhabited

/-- Where an access that passes goes. -/
structure Target where
  loc    : Loc
  /-- Handle and kind are 0 for block memory. -/
  handle : Nat
  off    : Nat
  kind   : Nat
  pin    : Bool
  key    : Nat
  grade  : Nat
  deriving DecidableEq, Repr, Inhabited

/-- What the checks of a lane give. -/
inductive Chk where
  | ok (t : Target)
  | fail (kind handle off : Nat)
  | walk (space vpn : Nat)
  deriving DecidableEq, Repr, Inhabited

/-- The offset as a record holds it, 64 bits. -/
def recOff (off : Int) : Nat := (off % 2 ^ 64).toNat

/-- Check 7 of R228, and KEYEXH, which comes only after every check (R205, R409): the translation caches answer, or a walk is
needed, or this bundle's walk found the page absent. -/
def State.checkPage (s : State) (core asid : Nat) (e : BufEnt) (handle off : Nat) (write : Bool) : Chk :=
  let (space, va) := e.interleave off
  match s.cachedEnt core asid space va with
  | none => if s.cur.absent.contains (space, va / 2 ^ 16) then .fail fkNotPresent handle off else .walk space (va / 2 ^ 16)
  | some x =>
    if write && e.kind != kindHost && (kget s.keys e.key).spent then .fail fkKeyExh handle off
    else .ok { loc := locOf space (x.frame + va % 2 ^ 16), handle := handle, off := off, kind := e.kind, pin := e.pin,
               key := e.key, grade := x.grade }

/-- The checks of R228 for a handle. -/
def State.checkHandle (s : State) (gid handle : Nat) (off : Int) (m : Ask) : Chk :=
  let asid := (s.launchOf gid).asid
  match s.checkBuf asid handle off m.width m.rights m.kinds m.align with
  | .error k => .fail k handle (recOff off)
  | .ok e => s.checkPage (s.gang gid).core asid e handle off.toNat m.write

/-- The checks of R221 for block memory: BOUNDS, then ALIGN. -/
def State.checkBlk (s : State) (gid : Nat) (off : Int) (m : Ask) : Chk :=
  let b := (s.gang gid).block
  if off < 0 ∨ ((s.block b).blkmem : Int) < off + (m.width : Int) then .fail fkBounds 0 (recOff off)
  else if off.toNat % m.align != 0 then .fail fkAlign 0 off.toNat
  else .ok { loc := .blk b off.toNat, handle := 0, off := off.toNat, kind := 0, pin := false, key := 0, grade := 0 }

/-- The offset of a memory operand (R35): register, unsigned, plus the signed immediate, exactly. -/
def State.memOff (s : State) (r : Regs) (lane : Nat) (f : Fields) : Int :=
  ((s.readReg r lane 0 f.b).toNat : Int) + f.imm24.toInt

/-- The checks of one lane's memory operand. -/
def State.checkLane (s : State) (r : Regs) (lane : Nat) (f : Fields) (m : Ask) : Chk :=
  let off := s.memOff r lane f
  if m.blk then s.checkBlk s.cur.gid off m
  else s.checkHandle s.cur.gid (s.readReg r lane 0 f.a).toNat off m

/-- The kinds that a scope permits (R19, R229, R246). -/
def kindsOf (ss : BitVec 3) : List Nat :=
  match ss.toNat with
  | 0 => [kindTiled, kindHost]
  | 1 => [kindTiled]
  | _ => [kindHost]

/-- The watchpoint that an access matches (R212): word 0 ASID and kind, word 1 handle index, words 2 and 3 the offsets. -/
def State.watchHit (s : State) (core asid : Nat) (t : Target) (m : Ask) (i : Nat) : Bool :=
  let w := fun k => (s.mg (coreMg core (0x500 + 16 * i + 4 * k))).toNat
  let kind := bitsOf (w 0) 13 12
  t.kind != 0 && bitsOf (w 0) 9 0 == asid && w 1 % 2 ^ 16 == t.handle % 2 ^ 16 &&
    decide (w 2 < t.off + m.width) && decide (t.off ≤ w 3) &&
    (kind == 3 || (kind == 1 && m.rights != rightW) || (kind == 2 && m.write))

/-- A gang takes WATCH, or stops where the table has no entry for it (R212, R201 does not apply). -/
def State.takeWatch (s : State) (gid idx : Nat) (pc : Word) (lanes : Lanes) : State :=
  if (s.gang gid).trap = false ∧ (s.trapEntry gid 0x0A).isSome then s.takeTrap gid 0x0A 0 (BitVec.ofNat 32 idx) pc lanes none
  else if (s.trapEntry gid 0x0A).isSome then s.escalate gid 0x0A 0 pc lanes none
  else s.debugStop gid 5 idx pc lanes 0

/-- Lanes of a bundle fail their checks (R205): they are parked at the word, which has no effect for them. The record and the
replay entry are MEMORY_FAULT_PARK's. -/
def State.failLanes (s : State) (i : Instr) (lanes : Lanes) (kind handle off path : Nat) : State :=
  let r := s.view
  let pc := s.cur.pc
  s.modGang s.cur.gid (fun g =>
    { g.modLanes lanes (fun t => { t with st := .parked, wait := .none, pc := pc }) with
      fails := g.fails ++ [{ lanes := lanes, kind := kind, handle := handle, off := off, path := path, word := encode i, pc := pc, regs := r, iss := s.cur.iss, serial := s.cur.serial, low := lowLane lanes }] })

/-- The gang does not issue before every check has a result (R196): 8 cycles when the caches answer. An access to block memory or
to the stack asks no cache, and the issue trace of that chapter shows the next word at once (DEDUCED, log 124). -/
def State.suspend (s : State) (i : Instr) (e : Lanes) : State :=
  let toward := s.lastBeat i e + 9
  s.modGang s.cur.gid (fun g => { g with stallTo := max g.stallTo toward })

/-- The handles whose entries a bundle's checks have read: those of its targets and of its failures. -/
def Chk.handle (c : Chk) : Option Nat :=
  match c with
  | .ok t => if t.kind = 0 then none else some t.handle
  | .fail k h _ => if h = 0 ∧ (k = fkBounds ∨ k = fkAlign) then none else some h
  | .walk _ _ => none

/-- The context descriptor and the entries of some handles have been read (R226, R402, R405). -/
def State.readHandles (s : State) (asid : Nat) (hs : List Nat) : State :=
  (hs.map (· % 2 ^ 16)).eraseDups.foldl (fun s h => s.readEnt asid h) s

/-- The checks of a bundle have read the context descriptor and the entries of its handles. -/
def State.readEnts (s : State) (asid : Nat) (cs : List Chk) : State := s.readHandles asid (cs.filterMap Chk.handle)

/-- The checks `cs` of a word have been made: `sp.clk` is latched where it is read, the gang is held where the checks ask a translation cache
(R196), and the tables have been read. -/
def State.checked (s : State) (i : Instr) (asks : Bool) (cs : List Chk) : State :=
  let e := s.execLanes i.fields
  (if asks then (s.latchClk i e).suspend i e else s.latchClk i e).readEnts (s.launchOf s.cur.gid).asid cs

/-- The course of a fault-capable word whose lanes each make one access on a path. `act` is the effect for the lanes that pass. -/
def memBundle (i : Instr) (m : Ask) (waits : Bool) (path : Nat) (chk : State → Regs → Nat → Chk)
    (act : State → Regs → Lanes → List (Nat × Target) → State) (s : State) : Out :=
  let e := s.execLanes i.fields
  let gid := s.cur.gid
  let g := s.gang gid
  let ids := g.taintLoads (g.waitTaint i e)
  if e = 0 then .next s.retire
  else if waits && s.cur.stage == 0 && !ids.isEmpty then .next ((s.hold e (.loads ids) 1 i).latchClk i e)
  else
    let r := s.view
    let cs := (if Instr.uniform i then [lowLane e] else lanesOf e).map (fun l => (l, chk s r l))
    let walks := (cs.filterMap (fun c => match c.2 with | .walk sp vpn => some (sp, vpn) | _ => none)).eraseDups
    let fails := cs.filterMap (fun c => match c.2 with | .fail k h o => some (c.1, k, h, o) | _ => none)
    let oks := cs.filterMap (fun c => match c.2 with | .ok t => some (c.1, t) | _ => none)
    if !walks.isEmpty then .next ((s.hold e (.walk walks) 1 i).latchClk i e)
    else if oks.any (fun o => match o.2.loc with | .hbm pa => !hbmExists pa | _ => false) then .fault .noSuchAddress
    else
      let bad := if fails.isEmpty then 0 else if Instr.uniform i then e else lanesFrom (fails.map (fun x => x.1))
      let good := e &&& ~~~bad
      let asid := (s.launchOf gid).asid
      let s := s.checked i (!m.blk) (cs.map Prod.snd)
      let s := match fails with
        | [] => s
        | (_, k, h, o) :: _ => s.failLanes i bad k h o path
      let s := if oks.isEmpty then s else act s r good oks
      let s := s.advance (s.cur.mask &&& ~~~bad)
      match (if path = 0 then List.range 4 else []).find? (fun k => oks.any (fun o => s.watchHit g.core asid o.2 m k)) with
      | none => .next s
      | some k =>
        let hit := if Instr.uniform i then good
          else lanesFrom ((oks.filter (fun o => s.watchHit g.core asid o.2 m k)).map (fun o => o.1))
        .next (s.takeWatch gid k s.cur.pc hit)

/-! ## Commands to engines (R292, R294) -/

/-- The place of a check in the order of R228, by fault kind. -/
def checkRank (kind : Nat) : Nat := if kind = fkNotPresent then 7 else if kind ≤ 7 then kind - 1 else kind

/-- The failure that a record names: the check that comes first, and among ends that fail the same one, the first end (R294). -/
def firstFail (fs : List (Nat × Nat × Nat)) : Option (Nat × Nat × Nat) :=
  fs.foldl (fun best f => match best with
    | none => some f
    | some b => if checkRank f.1 < checkRank b.1 then some f else some b) none

/-- Checks 1 to 7 of R228 for an extent of `width` bytes at `off`, of which only the first byte is translated (R294). -/
def State.checkExtent (s : State) (gid handle : Nat) (off : Int) (width rights : Nat) (kinds : List Nat) (empty write : Bool) : Chk :=
  let asid := (s.launchOf gid).asid
  match s.checkBuf asid handle off width rights kinds 1 with
  | .error k => .fail k handle (recOff off)
  | .ok e =>
    if empty then .ok { loc := .blk 0 0, handle := handle, off := off.toNat, kind := e.kind, pin := e.pin, key := e.key, grade := 0 }
    else s.checkPage (s.gang gid).core asid e handle off.toNat write

/-- An extent of block memory (R221, R293): BOUNDS alone. -/
def State.checkBlkExtent (s : State) (gid : Nat) (off : Int) (width : Nat) : Chk :=
  let b := (s.gang gid).block
  if off < 0 ∨ ((s.block b).blkmem : Int) < off + (width : Int) then .fail fkBounds 0 (recOff off)
  else .ok { loc := .blk b off.toNat, handle := 0, off := off.toNat, kind := 0, pin := false, key := 0, grade := 0 }

/-- The course of a command that acts once for its bundle: the taint wait, what raises illegal-operation, the checks of its
ends, the parking of every executing thread when one fails, and the effect. -/
def cmdBundle (i : Instr) (path : Nat) (illop : State → Regs → Lanes → Bool) (ends : State → Regs → Lanes → List Chk)
    (act : State → Regs → Lanes → List Target → Out) (s : State) : Out :=
  let e := s.execLanes i.fields
  let gid := s.cur.gid
  let g := s.gang gid
  let ids := g.taintLoads (g.waitTaint i e)
  if e = 0 then .next s.retire
  else if s.cur.stage = 0 ∧ !ids.isEmpty then .next ((s.hold e (.loads ids) 1 i).latchClk i e)
  else
    let r := s.view
    if illop s r e then .next (s.illop gid s.cur.pc e)
    else
      let cs := ends s r e
      let walks := (cs.filterMap (fun c => match c with | .walk sp vpn => some (sp, vpn) | _ => none)).eraseDups
      let oks := cs.filterMap (fun c => match c with | .ok t => some t | _ => none)
      let fails := cs.filterMap (fun c => match c with | .fail k h o => some (k, h, o) | _ => none)
      -- what the checks name comes before KEYEXH (R205), and a command that waits for a slot has passed them (R293)
      let named := if walks.isEmpty then fails else fails.filter (fun x => x.1 != fkKeyExh)
      match (if s.cur.cmd.isSome then none else firstFail named) with
      | some (k, h, o) =>
        let s := (s.checked i true cs).failLanes i e k h o path
        .next (s.advance (s.cur.mask &&& ~~~e))
      | none =>
        if s.cur.cmd.isSome then act s r e []
        else if !walks.isEmpty then .next ((s.hold e (.walk walks) 1 i).latchClk i e)
        else if oks.any (fun t => match t.loc with | .hbm pa => !hbmExists pa | _ => false) then .fault .noSuchAddress
        else
          let near := oks.all (fun t => match t.loc with | .blk _ _ => true | _ => false)
          act (s.checked i (!near) cs) r e oks

/-- A command's result for D, of variable latency (R186). -/
def State.result (s : State) (i : Instr) (e : Lanes) (x : Word) : State := s.writeBack i e 1 [(lowLane e, x.setWidth 128)] 4 false

end Sys2Proof.Machine
end

