-- ==== Sys2Proof/Machine/MemIsa.lean ====
section
/-! DEFINITION. The memory instructions (R246 to R271) and `waddr` (R175, R176). -/

namespace Sys2Proof.Machine

/-! ## Requests -/

/-- A request of the current bundle for one lane, of `width` bytes. -/
def State.baseReq (s : State) (lane : Nat) (lanes : Lanes) (kind : ReqKind) (t : Target) (width : Nat) : Req :=
  { id := 0, src := (s.gang s.cur.gid).core, gid := s.cur.gid, lane := lane, kind := kind, op := .store, signed := false, loc := t.loc,
    width := width, val := 0, cmp := 0, path := .t, load := 0, bytes := BitVec.ofNat 16 (2 ^ width - 1), shift := 0, acked := false,
    pin := t.pin, key := t.key, handle := t.handle, off := t.off, lanes := lanes, pc := s.cur.pc, serial := s.cur.serial,
    order := lane, direct := false, who := (lanesOf lanes).map (fun l => ((s.gang s.cur.gid).thread l).tid) }

/-- A request leaves the core (R257); one that will be acknowledged joins the unacknowledged-store counter (R264). -/
def State.send (s : State) (r : Req) : Nat × State :=
  let (id, s) := s.fresh
  let s := { s with reqs := s.reqs ++ [{ r with id := id }] }
  (id, if r.acked then s.modGang r.gid (fun g => { g with out := g.out ++ [(id, false)] }) else s)

/-! ## Loads (R250) -/

/-- The tag that the next load takes: the lowest free one, or SAT. -/
def Gang.freeTag (g : Gang) : Nat := ((List.range 16).find? (fun k => g.loads.all (fun l => l.tag != k))).getD 16

/-- The taint of a tag. -/
def tagTaint (tag : Nat) : Taint := if tag ≤ 16 then 1#17 <<< tag else 0

/-- A load is under way: its destination has an outstanding write (R187) and the taint `t` with the tag's (R250). -/
def State.startLoad (s : State) (i : Instr) (n : Nat) (l : LoadOp) (t : Taint) : State :=
  let codes := opCodes n i.fields.d
  let r := s.view
  s.modGang s.cur.gid (fun g =>
    let g := g.addPend codes [] none l.id s.cur.t false
    let l := { l with word := encode i, snap := r, iss := s.cur.iss, serial := s.cur.serial, blks := g.blksOf l.lanes }
    { g with loads := g.loads ++ [l] }.setTaint codes l.lanes (t ||| tagTaint l.tag))

/-- Bytes of a load that its gang's store buffer supplies (R253): the latest entry that covers each. -/
def Gang.forward (g : Gang) (l : Loc) (width : Nat) : List (Nat × Byte) :=
  (List.range width).filterMap (fun k =>
    ((g.sb.filter (fun e => e.loc.meets e.width (l.plus k) 1)).getLast?).map (fun e =>
      let d : Nat := match l, e.loc with
        | .hbm x, .hbm y | .host x, .host y => x + k - y
        | _, _ => 0
      (k, (e.val.ushiftRight (8 * d)).setWidth 8)))

/-- Bytes at their places of a lane's value. -/
def packBytes (bs : List (Nat × Byte)) : BitVec 128 :=
  bs.foldl (fun (x : BitVec 128) b => x ||| ((BitVec.setWidth 128 b.2) <<< (8 * b.1 : Nat))) 0

/-- The accesses of `width` bytes that a plain access makes: one, or two 8-byte halves for 16 bytes (R236). -/
def halvesOf (width : Nat) : List (Nat × Nat) := if width = 16 then [(0, 8), (8, 8)] else [(0, width)]

/-- The words that an access of block memory reaches one by one (R223): the offset of each in the access, and its width. -/
def wordsOf (width : Nat) : List (Nat × Nat) := if width ≤ 4 then [(0, width)] else (List.range (width / 4)).map (fun k => (4 * k, 4))

/-- One lane of `ld` (R255): bytes already known, and the requests for the others. -/
def State.loadLane (s : State) (f : Fields) (id : Nat) (width lane : Nat) (lanes : Lanes) (t : Target) :
    BitVec 128 × List Nat × State :=
  match t.loc with
  | .blk _ _ =>
    (wordsOf width).foldl (fun (acc : BitVec 128 × List Nat × State) h =>
      let (rid, s) := acc.2.2.send { acc.2.2.baseReq lane lanes .load { t with loc := t.loc.plus h.1, off := t.off + h.1 } h.2 with
        load := id, bytes := BitVec.ofNat 16 ((2 ^ h.2 - 1) * 2 ^ h.1), shift := h.1 }
      (0, acc.2.1 ++ [rid], s)) (0, [], s)
  | _ =>
    if f.ss = 0 then
      let fw := (s.gang s.cur.gid).forward t.loc width
      (halvesOf width).foldl (fun (acc : BitVec 128 × List Nat × State) h =>
        let (x, ids, s) := acc
        let need := (List.range h.2).filter (fun k => fw.all (fun b => b.1 != h.1 + k))
        let loc := t.loc.plus h.1
        if need.isEmpty then acc
        else
          let hit := match loc with | .hbm pa => (s.lineHit s.cur.gid pa).map (fun ln => (pa, ln)) | _ => none
          match hit with
          | some (pa, ln) =>
            (x ||| packBytes (need.map (fun k => (h.1 + k, sget ln.data (pa % 64 + k)))), ids, s)
          | none =>
            let r := s.baseReq lane lanes (if t.kind = kindTiled then .line else .load) { t with loc := loc, off := t.off + h.1 } h.2
            let bytes : BitVec 16 := need.foldl (fun m k => m ||| (1#16 <<< (h.1 + k))) 0
            -- the low half comes first (R271)
            let (rid, s) := s.send { r with load := id, bytes := bytes, shift := h.1, half := ids.headD 0 }
            (x, ids ++ [rid], s)) (packBytes fw, [], s)
    else
      let (rid, s) := s.send { s.baseReq lane lanes .load t width with load := id }
      (0, [rid], s)

/-- A load of any kind: `one` gives each lane its known bytes and requests. -/
def State.loadAll (s : State) (i : Instr) (good : Lanes) (oks : List (Nat × Target)) (n tag : Nat) (t : Taint)
    (one : State → Nat → Nat → Target → BitVec 128 × List Nat × State) : State :=
  let (id, s) := s.fresh
  let res := oks.foldl (fun (acc : Sparse 128 × List Nat × State) o =>
    let (x, ids, s') := one acc.2.2 id o.1 o.2
    (sset acc.1 o.1 x, acc.2.1 ++ ids, s')) (([], [], s) : Sparse 128 × List Nat × State)
  res.2.2.startLoad i n { id := id, tag := tag, dst := i.fields.d, ty := i.fields.mty, lanes := good, uni := Instr.uniform i,
                          reqs := res.2.1, vals := res.1, word := 0, snap := default, iss := default, serial := 0, blks := [] } t

/-- The bytes of a memory type. -/
def mtyBytes (t : BitVec 5) : Nat := tyBits t / 8

/-- What a plain or scoped access of the M forms asks (R246, R248). -/
def askOf (f : Fields) (rights : Nat) (write : Bool) : Ask :=
  { rights := rights, kinds := kindsOf f.ss, width := mtyBytes f.mty, align := mtyBytes f.mty, write := write, blk := f.ss == 3 || f.ss == 4 }

/-- The lanes of an access: one lane, or every executing thread for the one access of a uniform form. -/
def accLanes (i : Instr) (good : Lanes) (lane : Nat) : Lanes := if Instr.uniform i then good else laneBit lane

/-- `ld` (R255). -/
def execLd (f : Fields) (s : State) : Out :=
  let i := Instr.ld f
  memBundle i (askOf f rightR false) true 0 (fun s r l => s.checkLane r l f (askOf f rightR false)) (fun s _ good oks =>
    let g := s.gang s.cur.gid
    s.loadAll i good oks (mtyRegs f.mty) g.freeTag (g.newTaint i good) (fun s id lane t =>
      s.loadLane f id (mtyBytes f.mty) lane (accLanes i good lane) t)) s

/-! ## Stores (R252, R256) -/

/-- A store is of the same buffer, offset and width as an entry (R252). -/
def SbEntry.same (a b : SbEntry) : Bool := a.handle % 2 ^ 16 == b.handle % 2 ^ 16 && a.off == b.off && a.width == b.width

/-- One store enters the buffer, over an entry of the same place, or as a new one. -/
def sbPut (sb : List SbEntry) (e : SbEntry) : List SbEntry := sb.filter (fun x => !x.same e) ++ [e]

/-- A bundle's plain stores enter the store buffer (R252); without room for them the gang first sends every entry. -/
def State.enterStores (s : State) (gid : Nat) (es : List SbEntry) : State :=
  let g := s.gang gid
  let full := es.foldl sbPut g.sb
  if full.length ≤ 64 then s.setGang gid { g with sb := full }
  else (s.release gid).modGang gid (fun g => { g with sbf := true, sb := es.foldl sbPut g.sb })

/-- The data operand of a store-like word. -/
def State.dataOf (s : State) (r : Regs) (lane : Nat) (f : Fields) : BitVec 128 := s.readGroup r lane (mtyRegs f.mty) f.c

/-- `st` (R256): to block memory, a `.b128` is four word stores and any other width one step (R271). -/
def execSt (f : Fields) (s : State) : Out :=
  let i := Instr.st f
  let w := mtyBytes f.mty
  memBundle i (askOf f rightW true) true 0 (fun s r l => s.checkLane r l f (askOf f rightW true)) (fun s r good oks =>
    let gid := s.cur.gid
    let core := (s.gang gid).core
    if f.ss = 3 then
      oks.foldl (fun s o =>
        (if w = 16 then wordsOf 16 else [(0, w)]).foldl (fun s h =>
          (s.send { s.baseReq o.1 (accLanes i good o.1) .store { o.2 with loc := o.2.loc.plus h.1, off := o.2.off + h.1 } h.2 with
            val := (s.dataOf r o.1 f >>> (8 * h.1)) &&& BitVec.ofNat 128 (2 ^ (8 * h.2) - 1) }).2) s) s
    else if f.ss = 0 then
      s.enterStores gid (oks.map (fun o =>
        { handle := o.2.handle, off := o.2.off, width := w, val := s.dataOf r o.1 f, loc := o.2.loc, pin := o.2.pin, key := o.2.key,
          lanes := accLanes i good o.1, pc := s.cur.pc }))
    else
      oks.foldl (fun s o =>
        ((s.dropLine core o.2.loc).send
          { s.baseReq o.1 (accLanes i good o.1) .store o.2 w with val := s.dataOf r o.1 f, acked := true, direct := true }).2) s) s

/-! ## The spill stack (R224, R225, R258) -/

/-- The block offset of a lane's spill word (R224). -/
def State.spillOff (s : State) (gid lane word : Nat) : Nat :=
  let g := s.gang gid
  let b := s.block g.block
  b.blkmem + 32 * g.idx * b.stack + 128 * word + 4 * lane

/-- The checks of a `stk` operand (R224, R258): BOUNDS, then ALIGN; the handle reads zero. -/
def State.checkStk (s : State) (f : Fields) : Chk :=
  let gid := s.cur.gid
  let b := s.block (s.gang gid).block
  let n := f.imm24.toInt
  let w := mtyBytes f.mty
  if n < 0 ∨ (b.stack : Int) < n + (w : Int) then .fail fkBounds 0 (recOff n)
  else if n.toNat % w != 0 then .fail fkAlign 0 n.toNat
  else .ok { loc := .blk (s.gang gid).block 0, handle := 0, off := n.toNat, kind := 0, pin := false, key := 0, grade := 0 }

def stkAsk (write : Bool) : Ask := { rights := 0, kinds := [], width := 4, align := 4, write := write, blk := true }

/-- `spill` (R225, R258): a uniform form writes its register into the words of every executing thread. -/
def execSpill (f : Fields) (s : State) : Out :=
  let i := Instr.spill f
  memBundle i (stkAsk true) false 0 (fun s _ _ => s.checkStk f) (fun s r good oks =>
    match oks with
    | [] => s
    | (_, t) :: _ =>
      let gid := s.cur.gid
      let g := s.gang gid
      let n := mtyRegs f.mty
      let word := t.off / 4
      let src := fun l => s.dataOf r (if Instr.uniform i then lowLane good else l) f
      let s := (lanesOf good).foldl (fun s l =>
        (List.range n).foldl (fun s k =>
          s.write .t g.core gid 0 (.blk g.block (s.spillOff gid l (word + k))) 4 ((src l >>> (32 * k)).setWidth 32).toNat 0) s) s
      let regs := match f.c with
        | .v x => if x = 255 then [] else (List.range n).map (fun k => x.toNat + k)
        | .s x => (List.range n).map (fun k => 256 + x.toNat + k)
        | _ => []
      let full := (g.lanesWith (fun t => !t.gone)) &&& ~~~good == 0
      s.modGang gid (fun g => { g with
        spTaint := (List.range n).foldl (fun m k =>
          let tn : Taint := match regs[k]? with | some c => sget g.taint c | none => 0
          sset m (word + k) (if full then tn else sget m (word + k) ||| tn)) g.spTaint
        spSet := (lanesOf good).foldl (fun m l => (List.range n).foldl (fun m k => sset m (32 * (word + k) + l) 1) m) g.spSet })) s

/-- A spill word as `fill` reads it: one that nothing has written is an undefined value (R225), which it then holds. -/
def State.fillWord (s : State) (gid lane word : Nat) : Word × State :=
  let g := s.gang gid
  let off := s.spillOff gid lane word
  if sget g.spSet (32 * word + lane) = 1 then (BitVec.ofNat 32 (s.peekN (.blk g.block off) 4), s)
  else
    let (x, s) := s.undef (s.launchOf gid).asid 32
    let s := s.modBlock g.block (fun b => { b with mem := memWrite b.mem off 4 x.toNat })
    (x, s.modGang gid (fun g => { g with spSet := sset g.spSet (32 * word + lane) 1 }))

/-- `fill` (R225, R258): no tag; the shadows of the words read become the destination's taint, with the guard's. -/
def execFill (f : Fields) (s : State) : Out :=
  let i := Instr.fill f
  memBundle i (stkAsk false) false 0 (fun s _ _ => s.checkStk f) (fun s _ good oks =>
    let gid := s.cur.gid
    let g := s.gang gid
    let n := mtyRegs f.mty
    let word := (match oks with | [] => 0 | o :: _ => o.2.off / 4)
    let t := (List.range n).foldl (fun t k => t ||| sget g.spTaint (word + k)) (g.guardTaint f.guard good)
    s.loadAll i good oks n 17 t (fun s _ lane _ =>
      (List.range n).foldl (fun (acc : BitVec 128 × List Nat × State) k =>
        let (x, s') := acc.2.2.fillWord gid lane (word + k)
        (acc.1 ||| (x.setWidth 128 <<< (32 * k)), acc.2.1, s')) (0, [], s))) s

/-! ## Atomics (R259 to R262) -/

/-- The operation of `atom` and `red` (R259). -/
def atomOp (f : Fields) : MemOp :=
  match f.opx.toNat with
  | 0 => if f.mty = tyF32 then .fadd else .add
  | 1 => .min
  | 2 => .max
  | 3 => .and
  | 4 => .or
  | 5 => .xor
  | 6 => .exch
  | _ => .binc

/-- An atomic or a reduction leaves for its point, past the phase cache, whose line goes (R253). -/
def State.sendPoint (s : State) (r : Req) : Nat × State := (s.dropLine r.src r.loc).send r

/-- `atom` (R259). -/
def execAtom (f : Fields) (s : State) : Out :=
  let i := Instr.atom f
  let w := mtyBytes f.mty
  let m := askOf f rightA true
  memBundle i m true 0 (fun s r l => s.checkLane r l f m) (fun s r good oks =>
    let g := s.gang s.cur.gid
    s.loadAll i good oks (mtyRegs f.mty) g.freeTag (g.newTaint i good) (fun s id lane t =>
      let c := (s.dataOf r lane f).setWidth 64
      let q := { s.baseReq lane (accLanes i good lane) .atom t w with op := atomOp f, signed := tySigned f.mty, cmp := c, load := id }
      let (rid, s) := s.sendPoint q
      (0, [rid], s))) s

/-- `cas` (R260): the comparand is what D holds when the bundle issues. -/
def execCas (f : Fields) (s : State) : Out :=
  let i := Instr.cas f
  let w := mtyBytes f.mty
  let m := askOf f rightA true
  memBundle i m true 0 (fun s r l => s.checkLane r l f m) (fun s r good oks =>
    let g := s.gang s.cur.gid
    s.loadAll i good oks (mtyRegs f.mty) g.freeTag (g.newTaint i good) (fun s id lane t =>
      let c := s.dataOf r lane f
      let cmp := (s.readGroup r lane (mtyRegs f.mty) f.d).setWidth 64
      let (rid, s) := s.sendPoint { s.baseReq lane (accLanes i good lane) .cas t w with val := c, cmp := cmp, load := id }
      (0, [rid], s))) s

/-- `red` (R261). -/
def execRed (f : Fields) (s : State) : Out :=
  let i := Instr.red f
  let w := mtyBytes f.mty
  let m := askOf f rightA true
  memBundle i m true 0 (fun s r l => s.checkLane r l f m) (fun s r good oks =>
    oks.foldl (fun s o =>
      (s.sendPoint { s.baseReq o.1 (accLanes i good o.1) .red o.2 w with
        op := atomOp f, signed := tySigned f.mty, val := s.dataOf r o.1 f, acked := true }).2) s) s

/-! ## Phases, fences and waits (R263 to R268) -/

/-- Waits until the unacknowledged-store counter is zero, then acts. -/
def stWait (i : Instr) (send : Bool) (after : State → State) (s : State) : Out :=
  let e := s.execLanes i.fields
  let gid := s.cur.gid
  if e = 0 then .next s.retire
  else
    let s := if send && s.cur.stage == 0 then s.release gid else s
    if s.cur.stage = 0 ∧ !(s.gang gid).out.isEmpty then .next (s.hold e .stores 1 i)
    else .next (after s).retire

/-- `phase.rel` (R263). -/
def execPhaseRel (f : Fields) (s : State) : Out := stWait (.phaseRel f) true id s

/-- `phase.acq` (R263, R265). -/
def execPhaseAcq (f : Fields) (s : State) : Out :=
  .next (if s.execLanes f = 0 then s.retire else (s.acquire s.cur.gid).retire)

/-- `phase.ar` (R263). -/
def execPhaseAr (f : Fields) (s : State) : Out := stWait (.phaseAr f) true (fun s => s.acquire s.cur.gid) s

/-- `sbwait` (R264). -/
def execSbwait (f : Fields) (s : State) : Out := stWait (.sbwait f) false id s

/-- The paths that a set of MOD names (R266), lowest bit T, then C, B and X. -/
def pathSet (x : BitVec 4) : List Path :=
  (if x.getLsbD 0 then [.t] else []) ++ (if x.getLsbD 1 then [.c] else []) ++ (if x.getLsbD 2 then [.b] else []) ++
    (if x.getLsbD 3 then [.x] else [])

/-- The gang's own stores to block memory that have not been performed yet. -/
def State.bankStores (s : State) (gid : Nat) : List Nat :=
  (s.reqs.filter (fun r => r.gid == gid && r.path == .t && r.writes && r.loc.isBlk)).map (fun r => r.id)

/-- `pfence` (R266): the writes performed before its issue on the writer paths come before the gang's later accesses on the reader paths. With
T among the writers it waits for the gang's own stores to block memory, which a copy after it is to find (R281). -/
def execPfence (f : Fields) (s : State) : Out :=
  let e := s.execLanes f
  let gid := s.cur.gid
  let ws := pathSet (f.mod.extractLsb' 6 4)
  let rs := pathSet (f.mod.extractLsb' 2 4)
  let own := if ws.contains .t then s.bankStores gid else []
  if e = 0 then .next s.retire
  else if s.cur.stage = 0 ∧ !own.isEmpty then .next ({ s with cur := { s.cur with pkt := s.next } }.hold e (.done own) 1 (.pfence f))
  else .next (s.order ws rs gid (if s.cur.stage = 0 then s.next else s.cur.pkt)).retire

/-- Clears taint marks of every register and shadow. -/
def Gang.clearTaint (g : Gang) (t : Taint) : Gang :=
  let off := fun (m : Sparse 17) => (m.map (fun kv => (kv.1, kv.2 &&& ~~~t))).filter (fun kv => kv.2 != 0)
  { g with taint := off g.taint, spTaint := off g.spTaint }

/-- `tsync` (R267). -/
def execTsync (f : Fields) (s : State) : Out :=
  let i := Instr.tsync f
  let e := s.execLanes f
  let gid := s.cur.gid
  let g := s.gang gid
  let all := f.opx == 1
  let codes := if all then [] else opCodes 1 f.a
  let ids := if all then (g.loads.filter (fun l => decide (l.tag ≤ 16))).map (fun l => l.id) else g.taintLoads (g.taintOf codes)
  if e = 0 then .next s.retire
  else if s.cur.stage = 0 ∧ !ids.isEmpty then .next (s.hold e (.loads ids) 1 i)
  else
    let s := s.latchClk i e
    .next (s.modGang gid (fun g =>
      if all then g.clearTaint (tagTaint 16)
      else { g with taint := codes.foldl (fun m c => sset m c (sget m c &&& ~~~tagTaint 16)) g.taint })).retire

/-- `untaint` (R268). -/
def execUntaint (f : Fields) (s : State) : Out :=
  .next (if s.execLanes f = 0 then s.retire
    else (s.modGang s.cur.gid (fun g => { g with taint := (opCodes 1 f.d).foldl (fun m c => sset m c 0) g.taint })).retire)

/-! ## Tiles and metadata (R269, R270) -/

def tileAsk : Ask := { rights := rightR, kinds := [kindTiled], width := 1, align := 1, write := false, blk := false }

/-- The distinct tiles of a bundle, each with the first target in it. -/
def tilesOf (oks : List (Nat × Target)) : List (Nat × Nat × Target) :=
  oks.foldl (fun acc o =>
    match o.2.loc with
    | .hbm pa => if acc.any (fun x => x.1 == pa / 4096) then acc else acc ++ [(pa / 4096, o)]
    | _ => acc) []

/-- `tfetch` (R269): asks each distinct tile to arrive. -/
def execTfetch (f : Fields) (s : State) : Out :=
  let i := Instr.tfetch f
  memBundle i tileAsk true 0 (fun s r l => s.checkLane r l f tileAsk) (fun s _ good oks =>
    (tilesOf oks).foldl (fun s x => (s.send (s.baseReq x.2.1 (accLanes i good x.2.1) .tfetch x.2.2 1)).2) s) s

/-- `tevict` (R269, R242): marks each tile as the next victim. -/
def execTevict (f : Fields) (s : State) : Out :=
  memBundle (.tevict f) tileAsk false 0 (fun s r l => s.checkLane r l f tileAsk) (fun s _ _ oks =>
    (tilesOf oks).foldl (fun s x =>
      if (s.tile x.1).st = .resident then s.modTile x.1 (fun t => { t with victim := true }) else s) s) s

def metaAsk (f : Fields) (rights : Nat) (write : Bool) : Ask :=
  { rights := rights, kinds := [kindTiled], width := mtyBytes f.mty, align := 64, write := write, blk := false }

/-- The metadata bits of a line at an ECC grade (R270). -/
def metaCap (grade : Nat) : BitVec 64 := if grade = 1 then 28 else if grade = 2 then 56 else 0

/-- `mdld` (R270). -/
def execMdld (f : Fields) (s : State) : Out :=
  let i := Instr.mdld f
  let m := metaAsk f rightR false
  memBundle i m true 0 (fun s r l => s.checkLane r l f m) (fun s _ good oks =>
    let g := s.gang s.cur.gid
    s.loadAll i good oks (mtyRegs f.mty) g.freeTag (g.newTaint i good) (fun s id lane t =>
      let (rid, s) := s.send { s.baseReq lane (accLanes i good lane) .mdld t (mtyBytes f.mty) with cmp := metaCap t.grade, load := id }
      (0, [rid], s))) s

/-- `mdst` (R270). -/
def execMdst (f : Fields) (s : State) : Out :=
  let i := Instr.mdst f
  let m := metaAsk f rightW true
  memBundle i m true 0 (fun s r l => s.checkLane r l f m) (fun s r good oks =>
    let g := s.gang s.cur.gid
    oks.foldl (fun s o =>
      ((s.dropLine g.core o.2.loc).send { s.baseReq o.1 (accLanes i good o.1) .mdst o.2 (mtyBytes f.mty) with
        cmp := metaCap o.2.grade, val := s.dataOf r o.1 f, acked := true }).2) s) s

/-! ## `waddr` (R175, R176) -/

/-- The words that the core's monitor entries watch (R176). -/
def State.monitors (s : State) (core : Nat) : List (Loc × Bool) :=
  ((s.gangs.map (fun kv =>
    if kv.2.live && kv.2.active && kv.2.core == core then
      (List.range 32).filterMap (fun l =>
        match (kv.2.thread l).watch with
        | some w => if w.entry then some (w.loc, w.wide) else none
        | none => none)
    else [])).flatten).eraseDups

def waddrAsk (f : Fields) : Ask :=
  let w := if f.mod.getLsbD 2 then 8 else 4
  { rights := rightR, kinds := [kindTiled, kindHost], width := w, align := w, write := false, blk := f.mod.getLsbD 0 }

/-- The word that threads of a `waddr` watch is read at its point, once for all of them (R175, R176). -/
def State.readWatched (s : State) (gid : Nat) (lanes : Lanes) (w : WaddrWait) (pc : Word) (serial : Nat) : State :=
  (s.send { (default : Req) with
    src := (s.gang gid).core, gid := gid, lane := lowLane lanes, kind := .waddr, op := .store, loc := w.loc, width := if w.wide then 8 else 4, path := .t,
    load := w.load, key := w.key, handle := w.handle, off := w.off, lanes := lanes, pc := pc, serial := serial, order := lowLane lanes
    who := (lanesOf lanes).map (fun l => ((s.gang gid).thread l).tid) }).2

/-- The words that waits ask to be read, each with its threads: those of one bundle on one word share the read. -/
def watchGroups (ws : List (Nat × WaddrWait)) : List (WaddrWait × Lanes) :=
  ws.foldl (fun acc x =>
    let same := fun (y : WaddrWait) => y.load == x.2.load && decide (y.loc = x.2.loc) && y.handle == x.2.handle && y.off == x.2.off
    if acc.any (fun y => same y.1) then acc.map (fun y => if same y.1 then (y.1, y.2 ||| laneBit x.1) else y)
    else acc ++ [(x.2, laneBit x.1)]) []

/-- The number of the bundle that made a load. -/
def Gang.loadSerial (g : Gang) (id : Nat) : Nat := ((g.loads.find? (fun l => l.id == id)).getD default).serial

/-- Threads of a gang that wait in `waddr` have their words read again. -/
def State.readAgain (s : State) (gid : Nat) (ws : List (Nat × WaddrWait)) : State :=
  (watchGroups ws).foldl (fun s x =>
    s.readWatched gid x.2 x.1 (((s.gang gid).thread (lowLane x.2)).pc - 12) ((s.gang gid).loadSerial x.1.load)) s

/-- One thread begins its `waddr`: a monitor entry if there is one. -/
def State.startWaddr (s : State) (i : Instr) (r : Regs) (id lane : Nat) (t : Target) : WaddrWait × State :=
  let f := i.fields
  let wide := f.mod.getLsbD 2
  let gid := s.cur.gid
  let core := (s.gang gid).core
  let ms := s.monitors core
  let w : WaddrWait := { loc := t.loc, wide := wide, cond := f.mod.extractLsb' 3 3, cmp := s.readOp r lane wide f.c, dst := f.d, load := id,
                         entry := ms.contains (t.loc, wide) || decide (ms.length < 64), next := s.cur.t + 128, fresh := true, handle := t.handle, off := t.off, key := t.key }
  (w, s.modGang gid (fun g => g.modThread lane (fun t => { t with st := .waiting, wait := .waddr w })))

/-- `waddr` (R175): each thread waits at the next word until its condition holds; the first read is made at the point, once for each word. -/
def execWaddr (f : Fields) (s : State) : Out :=
  let i := Instr.waddr f
  memBundle i (waddrAsk f) true 0 (fun s r l => s.checkLane r l f (waddrAsk f)) (fun s r good oks =>
    let g := s.gang s.cur.gid
    let (id, s) := s.fresh
    let n := if f.mod.getLsbD 2 then 2 else 1
    let s := s.startLoad i n { id := id, tag := 18, dst := f.d, ty := 0, lanes := good, uni := false, reqs := [], vals := [], word := 0, snap := default, iss := default, serial := 0, blks := [] } (g.newTaint i good)
    let (ws, s) := oks.foldl (fun (acc : List (Nat × WaddrWait) × State) o =>
      let (w, s) := acc.2.startWaddr i r id o.1 o.2
      (acc.1 ++ [(o.1, w)], s)) (([], s) : List (Nat × WaddrWait) × State)
    (watchGroups ws).foldl (fun s x => s.readWatched s.cur.gid x.2 x.1 s.cur.pc s.cur.serial) s) s

end Sys2Proof.Machine
end

