-- ==== Sys2Proof/Machine/System.lean ====
section
/-! DEFINITION. Control registers (R34, R84, R145, R163, R172, R179, R180, R189, R190, R202, R203, R254, R308, R374): `rdsp` and
`wrsp`. -/

namespace Sys2Proof.Machine

/-- THREAD.WAIT (R202). -/
def Wait.code (w : Wait) : Word :=
  match w with
  | .none | .comp => 0
  | .mask m => BitVec.ofNat 32 (256 * m + 1)
  | .bar b _ _ => BitVec.ofNat 32 (256 * b + 2)
  | .named _ _ => 3
  | .sleep _ _ => 4
  | .waddr _ => 5
  | .xacq => 6
  | .reform _ _ _ => 7

/-- SLAB.CFG (R308). -/
def Slab.cfg (x : Slab) : Word := BitVec.ofNat 32 (x.ty.toNat * 2 ^ 21 + (x.rows - 1) % 32 * 2 ^ 16 + x.rbytes)

/-- A gang-scope control register. -/
def State.ctlGang (s : State) (gid n : Nat) : Word :=
  let g := s.gang gid
  match n with
  | 0x010 => (g.flags.setWidth 32) ||| (g.ten.setWidth 32 <<< 8)
  | 0x011 => s.mg (coreMg g.core 0)
  | 0x012 => if g.chk then 1 else 0
  | 0x013 => (if g.ovf then 1 else 0) + (if g.sbf then 2 else 0)
  | 0x014 => g.tCause.setWidth 32 ||| (g.tSub.setWidth 32 <<< 8)
  | 0x015 => g.tPc
  | 0x016 => g.tInfo
  | 0x017 => g.tMask
  | 0x018 => BitVec.ofNat 32 (g.fabFail * 2 ^ 24 + g.fabKind * 2 ^ 20 + g.posts.length)
  | 0x020 => (if g.ppValid then 0x80000000#32 else 0) ||| g.ppMask.setWidth 32
  | 0x021 => BitVec.ofNat 32 (16 * (s.launchOf gid).prio + s.effClass gid)
  | _ =>
    if 0x030 ≤ n ∧ n ≤ 0x03B then sget g.mM (n - 0x030)
    else if 0x040 ≤ n ∧ n ≤ 0x04B then sget g.mA (n - 0x040)
    else if 0x050 ≤ n ∧ n ≤ 0x05F then (kget (s.block g.block).slab (n - 0x050)).cfg
    else 0

/-- A thread-scope control register. -/
def Thread.ctl (t : Thread) (n : Nat) : Word :=
  match n with
  | 0x100 => t.savedPc
  | 0x101 => t.savedWait.code
  | 0x102 => t.savedP.setWidth 32
  | 0x120 => t.region.getD 0xFFFFFFFF
  | _ => 0

/-- `rdsp` (R145): the value carries no taint beyond the guard's. -/
def execRdsp (f : Fields) (s : State) : Out :=
  let i := Instr.rdsp f
  let e := s.execLanes f
  let gid := s.cur.gid
  let g := s.gang gid
  let n := f.ctlNum
  let val := fun l => if n < 0x100 then s.ctlGang gid n else (g.thread l).ctl n
  let vals := if f.uni then [(0, (val (lowLane e)).setWidth 128)] else (lanesOf e).map (fun l => (l, (val l).setWidth 128))
  .next ((if e = 0 then s else
    (s.writeBack i e 1 vals 5 true).modGang gid (fun g' =>
      { g' with taint := g.taint }.setTaint (opCodes 1 f.d) e (g.guardTaint f.guard e))).retire)

/-- A thread's saved wait ends (R159, R203): what it still had under way for that wait goes. Where it was the last sleeper of a `twait.acq`
bundle, no thread of that bundle wakes any more, and its `phase.acq` is not performed (DESIGN CHOICE, log 135). -/
def Gang.endWait (g : Gang) (lane : Nat) : Gang :=
  let t := g.thread lane
  let g := match t.savedWait with
    | .mask m => { g with drains := g.drains.filter (fun d => !(d.kind == 0 && d.obj == m && d.lane == lane)) }
    | .waddr w => g.leaveWaddr lane w.load
    | _ => g
  g.modThread lane (fun t => { t with savedWait := .none })

/-- Every wait on a mask register ends, the saved ones of threads that take part in the handler and those of the handler itself (R159,
R163, R203). A thread that takes no part keeps the THREAD.WAIT of its last trap (R202). -/
def Gang.endMaskWaits (g : Gang) (m : Nat) : Gang :=
  let g := (lanesOf (g.lanesWith (fun t => t.inTrap && t.savedWait == .mask m))).foldl Gang.endWait g
  let w := g.lanesWith (fun t => t.st == .waiting && t.wait == .mask m)
  { g.modLanes w Thread.wake with drains := g.drains.filter (fun d => !(d.kind == 0 && d.obj == m && w.getLsbD d.lane)) }

/-- The control numbers that only a handler may write (R202). -/
def trapOnly (n : Nat) : Bool :=
  decide (0x030 ≤ n ∧ n ≤ 0x03B) || decide (0x040 ≤ n ∧ n ≤ 0x04B) || n == 0x100 || n == 0x102

/-- SLAB.CFG accepts a value (R308). -/
def cfgOk (x : Word) : Bool :=
  let ty := x.extractLsb' 21 5
  let rb := (x.extractLsb' 0 10).toNat
  (ty == tyF32 || tyBfp ty) && rb % 4 == 0 && decide (4 ≤ rb ∧ rb ≤ 512) && (ty == tyF32 || rb % (4 * tyBfpBits ty) == 0)

/-- A slab of the block is written: PPOINT.LIVE.VALID clears in every gang (R181). -/
def State.slabWritten (s : State) (b : Nat) : State :=
  (s.block b).gangs.foldl (fun s gid => s.modGang gid (fun g => { g with ppValid := false })) s

/-- A write of a gang-scope control register (R6, R203). -/
def State.setCtlGang (s : State) (gid n : Nat) (x : Word) : State :=
  match n with
  | 0x010 => s.modGang gid (fun g => { g with flags := g.flags &&& ~~~(x.setWidth 5), ten := x.extractLsb' 8 5 })
  | 0x012 => s.modGang gid (fun g => { g with chk := x.getLsbD 0 })
  | 0x013 => s.modGang gid (fun g => { g with ovf := g.ovf && !x.getLsbD 0, sbf := g.sbf && !x.getLsbD 1 })
  | 0x018 => s.modGang gid (fun g => { g with fabFail := (x.extractLsb' 24 8).toNat })
  | _ =>
    if trapOnly n then
      let m := n % 16
      s.modGang gid (fun g =>
        let g := if n < 0x040 then { g with mM := sset g.mM m x } else { g with mA := sset g.mA m x }
        (g.endMaskWaits m).checkRelease m)
    else if 0x050 ≤ n ∧ n ≤ 0x05F then
      let b := (s.gang gid).block
      (s.modBlock b (fun k => { k with slab := kmod k.slab (n - 0x050) (fun sl =>
        { sl with ty := x.extractLsb' 21 5, rows := (x.extractLsb' 16 5).toNat + 1, rbytes := (x.extractLsb' 0 10).toNat }) })).slabWritten b
    else s

/-- A write of a thread-scope control register (R203). -/
def Gang.setCtlThread (g : Gang) (lane n : Nat) (x : Word) : Gang :=
  match n with
  | 0x100 => (g.endWait lane).modThread lane (fun t => { t with savedPc := x, savedBlk := none })
  | 0x102 => g.modThread lane (fun t => { t with savedP := x.setWidth 7 })
  | _ => g

/-- `wrsp` (R145, R202, R308): illegal-operation for a handler's register outside trap state and for a refused slab configuration. -/
def execWrsp (f : Fields) (s : State) : Out :=
  let i := Instr.wrsp f
  let e := s.execLanes f
  let gid := s.cur.gid
  let n := f.ctlNum
  let r := s.view
  let x := s.readReg r (lowLane e) 0 f.a
  if e = 0 then .next s.retire
  else if (trapOnly n && !(s.gang gid).trap) || (decide (0x050 ≤ n ∧ n ≤ 0x05F) && !cfgOk x) then .next (s.illop gid s.cur.pc e)
  else
    -- a slab configuration is a slab write, as `scfg` makes it (R308)
    let s := if (cfgCode n).isEmpty then s else s.modGang gid (fun g => g.addPend (cfgCode n) [] (some (s.lastBeat i e + 4)) 0 s.cur.t false)
    let s' := (s.latchClk i e).retire
    .next (if n < 0x100 then s'.setCtlGang gid n x
      else s'.modGang gid (fun g => (lanesOf e).foldl (fun g l => g.setCtlThread l n (s.readReg r l 0 f.a)) g))

end Sys2Proof.Machine
end

