-- ==== Sys2Proof/Machine/Copy.lean ====
section
/-! DEFINITION. The copy engine's instructions (R290 to R303): slots, batches, `cp`, `cpq`, `cpflag`, `cpcommit`, `cpwait`, `cpst`. -/

namespace Sys2Proof.Machine

/-! ## Slots, status and batches -/

/-- The status word (R295); a copy that a fault has ended reads FAILED from then on (R294, R296). -/
def Copy.status (c : Copy) : Word :=
  match c.failed with
  | some k => BitVec.ofNat 32 (256 * k + 1)
  | none => BitVec.ofNat 32 (256 * (if c.state = 1 then c.kind else 0) + c.state)

/-- The slot of a copy ID that a gang holds (R296): its key and the copy. -/
def State.heldCopy (s : State) (gid id : Nat) : Option (Nat × Copy) :=
  s.copies.find? (fun kv => kv.1 % 512 == id && kv.2.gid == gid)

def State.setCopy (s : State) (key : Nat) (c : Copy) : State := { s with copies := kset s.copies key c }

/-- Free copy IDs of a core (R290). -/
def State.freeIds (s : State) (core : Nat) : List Nat :=
  (List.range 512).filter (fun k => (kfind s.copies (512 * core + k)).isNone)

/-- How a retired copy leaves its slab, after the copies before it (R298): 0, or its fault kind; a failed copy that has no follow-on, 256 more,
is not superseded by later ones (DEDUCED, log 123). -/
def Copy.slabEnd (c : Copy) (before : Nat) : Nat :=
  if 256 ≤ before then before else if c.state = 1 then (if c.armed then c.kind else 256 + c.kind) else 0

/-- Committed batches whose copies are complete retire, oldest first, and free their slots (R300). -/
def State.retireBatches (s : State) (gid : Nat) : Nat → State
  | 0 => s
  | n + 1 =>
    match (s.gang gid).batches with
    | [] => s
    | b :: rest =>
      if b.all (fun k => (kget s.copies k).complete) then
        let old := b.map (kget s.copies)
        let s := { s with copies := s.copies.filter (fun kv => !b.contains kv.1) }
        (s.modGang gid (fun g => { g with
          batches := rest, retired := g.retired ++ old.map (fun c => c.serial)
          slabEnds := (old.filter (fun c => c.dst.sort == 2)).foldl (fun m c => kset m c.dst.slab (c.slabEnd (kget m c.dst.slab))) g.slabEnds })).retireBatches gid n
      else s

/-- `cpcommit` (R300): the open batch becomes the newest committed one. -/
def State.commitBatch (s : State) (gid : Nat) : State :=
  let g := s.gang gid
  if g.open_.isEmpty then s
  else (s.setGang gid { g with batches := g.batches ++ [g.open_], open_ := [] }).retireBatches gid 17

/-- A `cpwait` is over (R300, R301): the gang has observed the end of every copy that has retired. -/
def State.waitedCopies (s : State) (gid : Nat) : State :=
  ((s.gang gid).retired.foldl (fun s n => s.observe gid n) s).modGang gid (fun g => { g with retired := [] })

/-- Writes a completion record (R299): the status word, then the value. Whoever reads it later has observed the end of its copy, and of those
whose records stood in its place before (R272 link 1, R301). -/
def State.writeRecord (s : State) (key : Nat) (c : Copy) : State :=
  match c.record with
  | none => s
  | some (w, v) =>
    let x := v.toNat + 2 ^ 32 * c.status.toNat
    let s := s.write .c (key / 512) c.gid c.serial (.blk c.block (w + 4)) 4 c.status.toNat 0
    (s.modBlock c.block (fun k => { k with
      records := k.records.map (fun r => if r.1 = w then (w, r.2.1, x) else r) ++ [(w, c.serial, x)] })).write
        .c (key / 512) c.gid c.serial (.blk c.block w) 4 v.toNat 0

/-! ## Commands (R293, R294) -/

/-- A 64-bit value of two consecutive registers of a group. -/
def State.groupPair (s : State) (r : Regs) (lane k : Nat) (o : Opnd) : Nat :=
  (s.readReg r lane k o).toNat + 2 ^ 32 * (s.readReg r lane (k + 1) o).toNat

/-- One end of a copy: block memory or a buffer, with the entry as it stands at issue. -/
def State.copyEnd (s : State) (gid : Nat) (blk : Bool) (handle : Nat) (off : Int) (stride : Nat) : CopyEnd :=
  { sort := if blk then 0 else 1, handle := handle, ent := (s.bufEnt (s.launchOf gid).asid (handle % 2 ^ 16)).getD default,
    off := off.toNat, stride := stride, slab := 0 }

/-- The check of one end over its whole extent (R294). -/
def State.checkEnd (s : State) (gid : Nat) (blk : Bool) (handle : Nat) (off : Int) (rows stride len right : Nat) : Chk :=
  let ext := (rows - 1) * stride + len
  if blk then s.checkBlkExtent gid off ext
  else s.checkExtent gid handle off ext right [kindTiled, kindBulk, kindHost] (len == 0) (right == rightD)

/-- A command that has passed its checks takes a slot, or waits for one (R290, R293); its copy joins the open batch and its ID goes to
D. -/
def State.takeSlot (s : State) (i : Instr) (e : Lanes) (after : State → Nat → State) (c : Copy) : Out :=
  let gid := s.cur.gid
  let core := (s.gang gid).core
  let free := s.freeIds core
  let c := s.cur.cmd.getD c
  if free.isEmpty then .next ({ s with cur := { s.cur with cmd := some c } }.hold e .copySlot 1 i)
  else
    let (k, s) := s.choose free.length
    let id := free.getD k 0
    let key := 512 * core + id
    let (n, s) := s.fresh
    let s := s.setCopy key { c with serial := n, gid := gid, block := (s.gang gid).block, asid := (s.launchOf gid).asid, pc := s.cur.pc, lanes := e, blks := (s.gang gid).blksOf e }
    let s := s.modGang gid (fun g => { g with open_ := g.open_ ++ [key] })
    .next (after (s.result i e (BitVec.ofNat 32 id)) key).retire

/-- The operands of `cp` (R293). -/
structure CpArgs where
  dblk : Bool
  sblk : Bool
  dh   : Nat
  sh   : Nat
  doff : Nat
  soff : Nat
  len  : Nat
  rows : Nat
  ds   : Nat
  ss   : Nat
  deriving DecidableEq, Repr, Inhabited

def State.cpArgs (s : State) (f : Fields) (r : Regs) (e : Lanes) : CpArgs :=
  let l := lowLane e
  let ef := f.slot != 0
  { dblk := f.mod.getLsbD 0, sblk := f.mod.getLsbD 1, dh := (s.readReg r l 0 f.a).toNat, sh := (s.readReg r l 1 f.a).toNat,
    doff := s.groupPair r l 2 f.a, soff := s.groupPair r l 4 f.a, len := (s.readReg r l 6 f.a).toNat,
    rows := if ef then (f.imm.extractLsb' 0 12).toNat + 1 else 1,
    ds := if ef then (s.readReg r l 0 f.b).toNat else 0, ss := if ef then (s.readReg r l 0 f.c).toNat else 0 }

/-- `cp` (R293, R294). -/
def execCp (f : Fields) (s : State) : Out :=
  let i := Instr.cp f
  let gid := s.cur.gid
  cmdBundle i 1 (fun _ _ _ => false)
    (fun s r e =>
      let a := s.cpArgs f r e
      [s.checkEnd gid a.dblk a.dh a.doff a.rows a.ds a.len rightD, s.checkEnd gid a.sblk a.sh a.soff a.rows a.ss a.len rightC])
    (fun s r e _ =>
      let a := s.cpArgs f r e
      s.takeSlot i e (fun s _ => s)
        { (default : Copy) with state := if a.len = 0 then 0 else 2, rows := a.rows, len := a.len,
                                dst := s.copyEnd gid a.dblk a.dh a.doff a.ds, src := s.copyEnd gid a.sblk a.sh a.soff a.ss }) s

/-- The source offset of `cpq` (R297): offset plus displacement, exactly. -/
def State.groupOff (s : State) (f : Fields) (r : Regs) (l : Nat) : Int :=
  (s.groupPair r l 2 f.b : Int) + (if f.slot = 0 then 0 else f.imm24.toInt)

/-- `cpq` (R297, R298): the gang's pending bit on the slab stands until the copy ends. -/
def execCpq (f : Fields) (s : State) : Out :=
  let i := Instr.cpq f
  let gid := s.cur.gid
  let blk := f.mod.getLsbD 1
  let k := f.a.index
  let slab := fun (s : State) => kget (s.block (s.gang gid).block).slab k
  cmdBundle i 1 (fun _ _ _ => false)
    (fun s r e =>
      let l := lowLane e
      [s.checkEnd gid blk (s.readReg r l 0 f.b).toNat (s.groupOff f r l) (slab s).rows (s.readReg r l 1 f.b).toNat (slab s).rbytes rightC])
    (fun s r e _ =>
      let l := lowLane e
      let (pid, s) := s.pendId
      let arm := f.mod.getLsbD 4
      s.takeSlot i e (fun s key =>
          (s.modGang gid (fun g => { g.addPend [768 + k] [] none (kget s.copies key).pid s.cur.t false with arm := if arm then some key else g.arm })).slabWritten
            (s.gang gid).block)
        { (default : Copy) with state := 2, rows := (slab s).rows, len := (slab s).rbytes, pid := pid, armed := arm,
                                src := s.copyEnd gid blk (s.readReg r l 0 f.b).toNat (s.groupOff f r l) (s.readReg r l 1 f.b).toNat,
                                dst := { (default : CopyEnd) with sort := 2, stride := 512, slab := k } }) s

/-- `cpflag` (R299). -/
def execCpflag (f : Fields) (s : State) : Out :=
  let i := Instr.cpflag f
  let gid := s.cur.gid
  let w := fun (s : State) (r : Regs) (e : Lanes) =>
    if f.slot = 0 then (s.readReg r (lowLane e) 0 f.b).toNat else (f.imm.extractLsb' 0 18).toNat
  let id := fun (s : State) (r : Regs) (e : Lanes) => (s.readReg r (lowLane e) 0 f.a).toNat % 512
  cmdBundle i 1
    (fun s r e =>
      let bad := match s.heldCopy gid (id s r e) with
        | none => true
        | some kc => kc.2.record.isSome
      bad || w s r e % 8 != 0 || decide ((s.block (s.gang gid).block).blkmem < w s r e + 8))
    (fun _ _ _ => [])
    (fun s r e _ =>
      match s.heldCopy gid (id s r e) with
      | none => .next s.retire
      | some (key, c) =>
        let c := { c with record := some (w s r e, s.readReg r (lowLane e) 0 f.d) }
        let s := (s.setCopy key c).retire
        .next (if c.complete then s.writeRecord key c else s)) s

/-- `cpcommit` (R300). -/
def execCpcommit (f : Fields) (s : State) : Out :=
  let i := Instr.cpcommit f
  cmdBundle i 1 (fun _ _ _ => false) (fun _ _ _ => []) (fun s _ e _ =>
    let g := s.gang s.cur.gid
    if !g.open_.isEmpty && decide (16 ≤ g.batches.length) then .next (s.hold e .batchRoom 1 i)
    else .next (s.commitBatch s.cur.gid).retire) s

/-- `cpwait` (R300): acts as `cpcommit`, then waits until at most n committed batches remain. -/
def execCpwait (f : Fields) (s : State) : Out :=
  let i := Instr.cpwait f
  cmdBundle i 1 (fun _ _ _ => false) (fun _ _ _ => []) (fun s r e _ =>
    let g := s.gang s.cur.gid
    let n := if f.slot = 0 then min 15 (s.readReg r (lowLane e) 0 f.a).toNat else (f.imm.extractLsb' 0 4).toNat
    if s.cur.stage = 2 then .next (s.waitedCopies s.cur.gid).retire
    else if !g.open_.isEmpty && decide (16 ≤ g.batches.length) then .next (s.hold e .batchRoom 1 i)
    else
      let s := s.commitBatch s.cur.gid
      if (s.gang s.cur.gid).batches.length ≤ n then .next (s.waitedCopies s.cur.gid).retire else .next (s.hold e (.batches n) 2 i)) s

/-- `cpst` (R296): reading DONE or FAILED observes the copy's end (R301). -/
def execCpst (f : Fields) (s : State) : Out :=
  let i := Instr.cpst f
  cmdBundle i 1 (fun _ _ _ => false) (fun _ _ _ => []) (fun s r e _ =>
    match s.heldCopy s.cur.gid ((s.readReg r (lowLane e) 0 f.a).toNat % 512) with
    | none => .next (s.result i e 7).retire
    | some kc =>
      let s := if kc.2.complete || kc.2.failed.isSome then s.observe s.cur.gid kc.2.serial else s
      .next (s.result i e kc.2.status).retire) s

end Sys2Proof.Machine
end

