-- ==== Sys2Proof/Machine/Matrix.lean ====
section
/-! DEFINITION. Slabs and the matrix engine's instructions (R306 to R330): `scfg`, `szero`, `smov`, `mma`, `quant`, `bexp`, `swb`,
`samax`. -/

namespace Sys2Proof.Machine

/-! ## Slabs -/

/-- Slab `k` of the current gang's block. -/
def State.slab (s : State) (gid k : Nat) : Slab := kget (s.block (s.gang gid).block).slab k

def State.modSlab (s : State) (b k : Nat) (f : Slab → Slab) : State :=
  s.modBlock b (fun x => { x with slab := kmod x.slab k f })

/-- A slab-writing instruction of the current gang: the slab changes, its write lasts `lat` cycles (R312, R326), and VALID clears
(R181). -/
def State.slabWrite (s : State) (i : Instr) (e : Lanes) (k lat : Nat) (f : Slab → Slab) : State :=
  let gid := s.cur.gid
  let b := (s.gang gid).block
  let last := s.lastBeat i e
  ((s.modSlab b k f).modGang gid (fun g => g.addPend [768 + k] [] (some (last + lat)) 0 s.cur.t false)).slabWritten b

/-- A slab is read (R327): a correctable error is corrected and counted (R405); an uncorrectable one is told. -/
def State.meetSlab (s : State) (b k : Nat) : Bool × State :=
  match (kget (s.block b).slab k).flaw with
  | 0 => (false, s)
  | 1 => (false, (s.modSlab b k (fun x => { x with flaw := 0 })).countMg 0x0200)
  | _ => (true, s)

/-- The instruction of a held bundle. -/
def Held.instr (h : Held) : Option Instr :=
  match h.bundle.word with
  | none => none
  | some w => match decode DecodeCtx.widest w with
    | .ok i => some i
    | .error _ => none

/-- A word of the block that waits, as `swb` for a copy slot, has yet to read a slab (R312); of those issued before `id`, where given. -/
def State.heldReads (s : State) (b q : Nat) (id : Option Nat) : Bool :=
  (s.block b).gangs.any (fun gid => (s.gang gid).held.any (fun h =>
    (match id with | some n => decide (h.bundle.pid < n) | none => true) && h.instr.any (fun i => (Instr.reads i).contains (768 + q))))

/-- A configuration word's fields (R308). -/
def Slab.configure (x : Slab) (w : Word) : Slab :=
  { x with ty := w.extractLsb' 21 5, rows := (w.extractLsb' 16 5).toNat + 1, rbytes := (w.extractLsb' 0 10).toNat }

/-- `scfg` (R313). -/
def execScfg (f : Fields) (s : State) : Out :=
  let i := Instr.scfg f
  let e := s.execLanes f
  let w : Word := if f.slot = 0 then s.readReg s.view (lowLane e) 0 f.a
    else BitVec.ofNat 32 (f.ty.toNat * 2 ^ 21 + (f.imm.extractLsb' 0 5).toNat * 2 ^ 16 + (f.imm.extractLsb' 8 10).toNat)
  if e = 0 then .next s.retire
  else if !cfgOk w then .next (s.illop s.cur.gid s.cur.pc e)
  else .next ((s.latchClk i e).slabWrite i e f.d.index 4 (fun x => x.configure w)).retire

/-- `szero` (R313). -/
def execSzero (f : Fields) (s : State) : Out :=
  let i := Instr.szero f
  let e := s.execLanes f
  .next (if e = 0 then s.retire else (s.slabWrite i e f.d.index 16 (fun x => { x with data := [], flaw := 0 })).retire)

/-- The row of `smov` (R314). -/
def State.smovRow (s : State) (f : Fields) (e : Lanes) : Nat :=
  if f.slot = 0 then (s.readReg s.view (lowLane e) 0 f.b).toNat % 32 else f.imm.toNat % 32

/-- The byte of a row at which a lane's word of a segment lies (R314). -/
def segOff (f : Fields) (lane : Nat) : Nat := 4 * (32 * (f.mod.extractLsb' 1 2).toNat + lane)

/-- `smov.in` (R314): words beyond RBYTES are not written; a NaN word goes in as it is (R331). -/
def execSmovIn (f : Fields) (s : State) : Out :=
  let i := Instr.smovIn f
  let e := s.execLanes f
  let r := s.view
  let k := f.d.index
  let sl := s.slab s.cur.gid k
  let row := s.smovRow f e
  if e = 0 then .next s.retire
  else if sl.rows ≤ row then .next (s.illop s.cur.gid s.cur.pc e)
  else
    let words := (lanesOf e).map (fun l => (l, s.readReg r l 0 f.a))
    .next ((s.latchClk i e).slabWrite i e k 4 (fun x => { x with data := words.foldl (fun d lw =>
      if segOff f lw.1 + 4 ≤ sl.rbytes then memWrite d (512 * row + segOff f lw.1) 4 lw.2.toNat else d) x.data })).retire

/-- A slab read meets an uncorrectable error: MEMFAULT, precisely (R327). -/
def State.slabFault (s : State) (e : Lanes) : State :=
  s.takeTrap s.cur.gid 0x09 fkUncorr (BitVec.ofNat 32 fkUncorr) s.cur.pc e none

/-- A result that comes from a slab: its taint is the guard's (R310, R314). -/
def State.slabResult (s : State) (i : Instr) (e : Lanes) (vals : List (Nat × BitVec 128)) (lat : Nat) : State :=
  let g := s.gang s.cur.gid
  (s.writeBack i e 1 vals lat false).modGang s.cur.gid (fun g' =>
    { g' with taint := g.taint }.setTaint (opCodes 1 i.fields.d) e (g.guardTaint i.fields.guard e))

/-- `smov.out` (R314): words beyond RBYTES read zero. -/
def execSmovOut (f : Fields) (s : State) : Out :=
  let i := Instr.smovOut f
  let e := s.execLanes f
  let sl := s.slab s.cur.gid f.a.index
  let row := s.smovRow f e
  if e = 0 then .next s.retire
  else if sl.rows ≤ row then .next (s.illop s.cur.gid s.cur.pc e)
  else match s.meetSlab (s.gang s.cur.gid).block f.a.index with
  | (true, s) => .next (s.slabFault e)
  | (false, s) =>
    let vals := (lanesOf e).map (fun l =>
      (l, if segOff f l + 4 ≤ sl.rbytes then BitVec.ofNat 128 (bytesAt sl.data (512 * row + segOff f l) 4) else 0))
    .next ((s.latchClk i e).slabResult i e vals 12).retire

/-! ## `mma` (R315 to R320) -/

/-- K of a BFP slab (R317). -/
def Slab.kLen (x : Slab) : Nat := 8 * x.rbytes / tyBfpBits x.ty

/-- The checks of R317. -/
def mmaOk (c a b : Nat) (sc sa sb : Slab) : Bool :=
  tyBfp sa.ty && tyBfp sb.ty && sa.rows == 32 && sb.rows == 32 && sc.ty == tyF32 && sc.rows == 32 && sc.rbytes == 128 &&
    sa.kLen == sb.kLen && decide (sa.kLen ≤ 256) && c != a && c != b

/-- The scale pairs of the 32 lane places (R315): a vacant place gives undefined values. -/
def State.scalePairs (s : State) (r : Regs) (o : Opnd) : List (BitVec 64) × State :=
  (List.range 32).foldl (fun (acc : List (BitVec 64) × State) l =>
    if o != .vz && ((s.gang s.cur.gid).thread l).st == .vacant then
      let (x, s) := acc.2.undef (s.launchOf s.cur.gid).asid 64
      (acc.1 ++ [x], s)
    else (acc.1 ++ [s.readOp r l true o], acc.2)) ([], s)

/-- An outstanding write of a slab that only an engine ends; several may stand on one slab (R312). -/
def Gang.pendSlab (g : Gang) (k id : Nat) : Gang :=
  { g with pend := g.pend ++ [{ reg := 768 + k, done := none, id := id, fixed := false, old := [] }] }

def Gang.dropPend (g : Gang) (id : Nat) : Gang := { g with pend := g.pend.filter (fun p => !(p.done == none && p.id == id)) }

/-- A pending `cpq.a` arm is withdrawn (R298): the copy completes without a follow-on. -/
def State.withdrawArm (s : State) (gid : Nat) : State :=
  match (s.gang gid).arm with
  | none => s
  | some key =>
    let s := s.modGang gid (fun g => { g with arm := none })
    match kfind s.copies key with
    | some c => s.setCopy key { c with armed := false }
    | none => s

/-- Armed operations one of whose copies has failed are not issued (R298): C is unchanged, and the armed copy reads FAILED. -/
def State.settleArmed (s : State) (core : Nat) : State :=
  (s.core core).armed.foldl (fun s a =>
    match a.failed with
    | none => s
    | some k =>
      let s := s.modCore core (fun c => { c with armed := c.armed.filter (fun x => x.mma.id != a.mma.id) })
      let s := s.modGang a.mma.gid (fun g => g.dropPend a.mma.id)
      match s.copies.find? (fun kv => kv.2.serial == a.copy) with
      | none => s
      | some (key, c) => s.setCopy key (if c.complete then { c with state := 1, kind := if c.state = 1 then c.kind else k }
          else { c with doom := some k })) s

/-- The earlier copies of a gang into the slabs that an armed `mma` reads, the armed one among them (R298). -/
def State.armNeeds (s : State) (gid key a b : Nat) : List Copy :=
  let armed := kget s.copies key
  (s.copies.filter (fun kv => kv.2.gid == gid && kv.2.dst.sort == 2 && (kv.1 == key ||
    ((kv.2.dst.slab == a || kv.2.dst.slab == b) && decide (kv.2.serial < armed.serial))))).map Prod.snd

/-- The copies of such a list whose failure stops the `mma`: all of them, but for one that had a follow-on of its own and that a later copy
into its slab has superseded, so that the restart of R210 can succeed (DEDUCED, log 123). -/
def armCounts (armed : Copy) (ns : List Copy) : List Copy :=
  ns.filter (fun n => n.serial == armed.serial || !n.armed || (n.dst.slab != armed.dst.slab &&
    ns.all (fun x => x.dst.slab != n.dst.slab || decide (x.serial ≤ n.serial))))

/-- The fault of a retired copy into a slab that the `mma` reads; one that had a follow-on counts only where no held copy has superseded
it. -/
def Gang.armFailed (g : Gang) (ns : List Copy) (a b : Nat) : Option Nat :=
  [a, b].findSome? (fun q => match kget g.slabEnds q with
    | 0 => none
    | k => if 256 ≤ k then some (k - 256) else if ns.any (fun n => n.dst.slab == q) then none else some k)

/-- `mma` and `mma.a` (R317, R320): checked and their scales read at issue; C is computed when the array completes it. -/
def execMma (f : Fields) (s : State) : Out :=
  let e := s.execLanes f
  let gid := s.cur.gid
  let r := s.view
  let g := s.gang gid
  let c := f.d.index
  let a := f.a.index
  let b := (f.imm.extractLsb' 0 4).toNat
  let armed := f.mod.getLsbD 0
  let ok := mmaOk c a b (s.slab gid c) (s.slab gid a) (s.slab gid b)
  let sid := (s.readReg r (lowLane e) 0 (.s (f.imm.extractLsb' 8 6 |>.setWidth 8))).toNat % 512
  if e = 0 then .next s.retire
  else if armed && (!ok || g.arm.isNone || g.arm.any (fun k => k % 512 != sid)) then .next ((s.withdrawArm gid).illop gid s.cur.pc e)
  else if !ok then .next (s.illop gid s.cur.pc e)
  else
    let (ea, s) := s.scalePairs r f.b
    let (eb, s) := s.scalePairs r f.c
    let (id, s) := s.fresh
    let m : Mma := { id := id, gid := gid, block := g.block, from_ := if armed then 4 else g.place / 48, c := c, a := a, b := b,
                     z := f.mod.getLsbD 1, bsel := (f.imm.extractLsb' 4 3).toNat, ea := ea, eb := eb, pc := s.cur.pc, lanes := e, blks := g.blksOf e }
    let s := ((s.modGang gid (fun g => g.pendSlab c id)).slabWritten g.block).retire
    match (if armed then g.arm else none) with
    | none => .next (s.modCore g.core (fun k => { k with mmaQ := k.mmaQ ++ [m] }))
    | some key =>
      let ns := s.armNeeds gid key a b
      let armed := kget s.copies key
      let counts := armCounts armed ns
      let x : Armed := { mma := m, copy := armed.serial, needs := (ns.filter (fun n => !n.complete)).map (fun n => n.serial),
                         counts := counts.map (fun n => n.serial),
                         failed := match counts.find? (fun n => n.state == 1) with | some n => some n.kind | none => g.armFailed ns a b }
      .next (((s.modGang gid (fun g => { g with arm := none })).modCore g.core (fun k => { k with armed := k.armed ++ [x] })).settleArmed g.core)

/-- Mantissa `k` of a row of a BFP slab (R88, R307). -/
def Slab.mant (x : Slab) (row k : Nat) : Int :=
  let w := tyBfpBits x.ty
  let bit := w * k
  let n := bytesAt x.data (512 * row + bit / 8) 2 / 2 ^ (bit % 8) % 2 ^ w
  if n < 2 ^ (w - 1) then n else (n : Int) - 2 ^ w

/-- One K-block's product (R318); a scale of 255 makes it NaN, as in row 5 of R331. -/
def mmaBlock (a b : Slab) (i j blk ea eb : Nat) : Word :=
  if ea = 0xFF ∨ eb = 0xFF then 0x7FC00000#32
  else
    let x := ((List.range 32).map (fun k => a.mant i (32 * blk + k) * b.mant j (32 * blk + k))).sum
    let ex : Int := (ea : Int) + eb - 254 - ((tyBfpBits a.ty : Int) - 1) - ((tyBfpBits b.ty : Int) - 1)
    if x = 0 then 0 else BitVec.ofNat 32 (roundFp fp32 0 (decide (x < 0)) x.natAbs ex false).1

/-- A scale byte (R315). -/
def scaleByte (l : List (BitVec 64)) (lane t : Nat) : Nat := ((l.getD lane 0) >>> (8 * (t % 8))).toNat % 256

/-- `Mma` (R318): the new bytes of C, for R331 the 1.5 and the NaN row. -/
def mmaResult (m : Mma) (c a b : Slab) : Sparse 8 :=
  (List.range 32).foldl (fun d i => (List.range 32).foldl (fun d j =>
    let acc0 : Word := if m.z then 0 else BitVec.ofNat 32 (bytesAt c.data (512 * i + 4 * j) 4)
    let acc := (List.range (a.kLen / 32)).foldl (fun acc blk =>
      fp32Add acc (mmaBlock a b i j blk (scaleByte m.ea i (m.bsel + blk)) (scaleByte m.eb j (m.bsel + blk)))) acc0
    memWrite d (512 * i + 4 * j) 4 acc.toNat) d) c.data

/-! ## `quant`, `bexp`, `samax`, `swb` -/

/-- The packed block of `quant` (R88, R322), and whether some lane was a NaN and raised IV. -/
def quantBlock (w ex : Nat) (vals : List (Nat × Word)) : Nat × Bool × Bool :=
  vals.foldl (fun (acc : Nat × Bool × Bool) lv =>
    let q := quantise lv.2 ex w
    (acc.1 + (q.1 % 2 ^ w).toNat * 2 ^ (w * lv.1), acc.2.1 || q.2, acc.2.2 || (Fp.read fp32 lv.2.toNat).isSNaN)) (0, false, false)

/-- `quant` (R322). -/
def execQuant (f : Fields) (s : State) : Out :=
  let i := Instr.quant f
  let e := s.execLanes f
  let gid := s.cur.gid
  let r := s.view
  let w := tyBfpBits f.ty
  let ctl : Word := if f.slot = 0 then s.readReg r (lowLane e) 0 f.b else f.imm
  let q := quantBlock w (ctl.toNat % 256) ((lanesOf e).map (fun l => (l, s.readReg r l 0 f.a)))
  let row := (ctl.extractLsb' 8 5).toNat
  let blk := (ctl.extractLsb' 13 3).toNat
  let pd := if f.slot = 0 then f.c.index else quantPd f
  let last := s.lastBeat i e
  if e = 0 then .next s.retire
  else
    let bad := match f.d with
      | .q k =>
        let sl := s.slab gid k.toNat
        sl.ty != f.ty || decide (sl.rows ≤ row) || decide (sl.rbytes < 4 * w * (blk + 1))
      | _ => false
    if bad then .next (s.illop gid s.cur.pc e)
    else
      let s := s.latchClk i e
      let s := match f.d with
        | .q k => s.slabWrite i e k.toNat 10 (fun x => { x with data := memWrite x.data (512 * row + 4 * w * blk) (4 * w) q.1 })
        | _ => s.writeBack i e 1 (((lanesOf s.cur.mask).filter (fun l => decide (l < w))).map (fun l =>
            (l, BitVec.ofNat 128 (q.1 / 2 ^ (32 * l) % 2 ^ 32)))) 10 false
      let s := if pd = 7 then s else s.modGang gid (fun g =>
        let t := g.newTaint i e
        let g := g.addPend [512 + pd] [] (some (last + 10)) 0 s.cur.t false
        { g with regs := (lanesOf e).foldl (fun r l => r.writeReg l 0 (.p (BitVec.ofNat 8 pd)) (if q.2.1 then 1 else 0)) g.regs }.setTaint
          [512 + pd] e t)
      .next (s.finishArith e (if q.2.2 then flagIV else 0))

/-- `bexp` (R323). -/
def execBexp (f : Fields) (s : State) : Out :=
  let i := Instr.bexp f
  let e := s.execLanes f
  let r := s.view
  let lanes := match f.d with | .s _ => [lowLane e] | _ => lanesOf e
  let vals := lanes.map (fun l => (l, (blockExp (s.readReg r l 0 f.a)).setWidth 128))
  .next (if e = 0 then s.retire else ((s.writeBack i e 1 vals 5 true).latchClk i e).retire)

/-- `SlabAbsMax` (R324): the unsigned maximum of the words without their signs, so that a NaN wins (R331). -/
def slabAbsMax (x : Slab) : Word :=
  let m := (List.range x.rows).foldl (fun m row => (List.range (x.rbytes / 4)).foldl (fun m c =>
    max m (bytesAt x.data (512 * row + 4 * c) 4 % 2 ^ 31)) m) 0
  if 0x7F800000 < m then 0x7FC00000#32 else BitVec.ofNat 32 m

/-- `samax` (R324). -/
def execSamax (f : Fields) (s : State) : Out :=
  let i := Instr.samax f
  let e := s.execLanes f
  let sl := s.slab s.cur.gid f.a.index
  let x := (slabAbsMax sl).setWidth 128
  let vals := match f.d with | .s _ => [(lowLane e, x)] | _ => (lanesOf e).map (fun l => (l, x))
  if e = 0 then .next s.retire
  else if sl.ty ≠ tyF32 then .next (s.illop s.cur.gid s.cur.pc e)
  else match s.meetSlab (s.gang s.cur.gid).block f.a.index with
  | (true, s) => .next (s.slabFault e)
  | (false, s) => .next (s.slabResult i e vals 36).retire

/-- The check of the amax word (R325). -/
def State.checkAmax (s : State) (f : Fields) (r : Regs) (l : Nat) : List Chk :=
  let gid := s.cur.gid
  let m : Ask := { rights := rightA, kinds := [if f.sco = 2 then kindTiled else kindHost], width := 4, align := 4, write := true,
                   blk := f.sco == 1 }
  if f.sco = 0 then []
  else if f.sco = 1 then [s.checkBlk gid (s.readReg r l 0 f.c).toNat m]
  else [s.checkHandle gid (s.readReg r l 0 f.c).toNat (s.readReg r l 1 f.c).toNat m]

/-- `swb` (R325): the slab is read at acceptance; the copy engine writes it out. -/
def execSwb (f : Fields) (s : State) : Out :=
  let i := Instr.swb f
  let gid := s.cur.gid
  let blk := f.opx.getLsbD 0
  let sl := fun (s : State) => s.slab gid f.a.index
  let off := fun (s : State) (r : Regs) (l : Nat) => (s.groupPair r l 2 f.b : Int) + f.imm24.toInt
  cmdBundle i 1 (fun s _ _ => f.sco != 0 && (sl s).ty != tyF32)
    (fun s r e =>
      let l := lowLane e
      s.checkEnd gid blk (s.readReg r l 0 f.b).toNat (off s r l) (sl s).rows (s.readReg r l 1 f.b).toNat (sl s).rbytes rightD ::
        s.checkAmax f r l)
    (fun s r e _ =>
      let l := lowLane e
      let am : CopyEnd := s.copyEnd gid (f.sco == 1) (s.readReg r l 0 f.c).toNat
        (if f.sco = 1 then ((s.readReg r l 0 f.c).toNat : Int) else (s.readReg r l 1 f.c).toNat) 0
      s.takeSlot i e (fun s key => match s.meetSlab (s.gang gid).block f.a.index with
          | (true, s) => s.failCopy key (kget s.copies key).serial fkUncorr 0 0
          | (false, s) => s)
        { (default : Copy) with state := 2, rows := (sl s).rows, len := (sl s).rbytes, data := (sl s).data,
                                src := { (default : CopyEnd) with sort := 2, stride := 512, slab := f.a.index },
                                dst := s.copyEnd gid blk (s.readReg r l 0 f.b).toNat (off s r l) (s.readReg r l 1 f.b).toNat,
                                amax := if f.sco = 0 then none else some (f.sco.toNat, am, slabAbsMax (sl s)) }) s

end Sys2Proof.Machine
end

