-- ==== Sys2Proof/Machine/Bag.lean ====
section
/-! DEFINITION. The bag engine's instructions (R338 to R364) and the shared operations of bags: descriptors (R339, R340), bindings,
results. -/

namespace Sys2Proof.Machine

/-! ## Descriptors (R339) and checks (R340) -/

/-- A bag descriptor's fields. -/
structure BagDesc where
  cap   : Nat
  slack : Nat
  rs    : Nat
  rank  : Bool
  trapf : Bool
  deriving DecidableEq, Repr, Inhabited

def BagDesc.ofBits (x : Nat) : BagDesc :=
  { cap := bitsOf x 255 216, slack := bitsOf x 215 200, rs := 16 * 2 ^ bitsOf x 194 193, rank := bitsOf x 192 192 == 1,
    trapf := bitsOf x 191 191 == 1 }

def State.bag (s : State) (b : Nat) : Bag := kget s.bags b
def State.setBag (s : State) (b : Nat) (x : Bag) : State := { s with bags := kset s.bags b x }
def State.modBag (s : State) (b : Nat) (f : Bag → Bag) : State := s.setBag b (f (s.bag b))

/-- The 32 bytes of the buffer-table entry at an index. -/
def State.entBits (s : State) (asid idx : Nat) : Nat := s.hbmRead (s.hbmRead (s.ctxAddr asid) 8 + 32 * idx) 32

/-- The 32 bytes of a bag descriptor (R339). -/
def State.descBits (s : State) (b : Nat) : Nat := s.hbmRead (s.mg64 0x0058 + 32 * b) 32

/-- What the binding of a bag rests on of its entry: all but GEN, KEY, PIN, RIGHTS and SW (R227). -/
def entShape (ent : Nat) : Nat :=
  bitsOf ent 231 222 * 2 ^ 222 + bitsOf ent 215 197 * 2 ^ 197 + bitsOf ent 190 64 * 2 ^ 64

/-- A record slot of `rs` bytes at a region offset lies in the region and whole on a stack (R230, R341). -/
def slotFits (e : BufEnt) (rs stack off : Nat) : Bool :=
  decide (off + rs ≤ e.len) && (e.interleave off).1 == stack && (e.interleave (off + rs - 1)).1 == stack

/-- Slots of `rs` bytes that do not meet one another or those in `used`, each kept where it can be. -/
def slotsApart (rs : Nat) (used slots : List Nat) : List Nat :=
  slots.foldl (fun kept o => if (used ++ kept).all (fun x => decide (x + rs ≤ o) || decide (o + rs ≤ x)) then kept ++ [o] else kept) []

/-- The layout of a bag's region (R341): banks and slots are the memory's choice among those that lie in the region, each on the stack of
its bank; a bank holds at least one slot. -/
def bagLayout (ent desc : Nat) : List BagBank :=
  let e := BufEnt.ofBits ent
  let rs := (BagDesc.ofBits desc).rs
  (Config.bagLayout ent desc).foldl (fun (banks : List BagBank) l =>
    let slots := slotsApart rs (banks.map (fun b => b.slots)).flatten (l.2.filter (slotFits e rs l.1))
    if slots.isEmpty then banks else banks ++ [{ stack := l.1, slots := slots }]) []

/-- The banks of a bag: as bound, or as the memory lays out the region when it is bound (R341). -/
def State.bagBanks (s : State) (b ent desc : Nat) : List BagBank :=
  let x := s.bag b
  if x.bound && x.ent == entShape ent && x.desc == desc then x.banks else bagLayout (entShape ent) desc

/-- Binds the bag, if it is not bound under this entry and descriptor. -/
def State.bindBag (s : State) (b ent desc : Nat) : State :=
  let x := s.bag b
  if x.bound && x.ent == entShape ent && x.desc == desc then s
  else s.setBag b { (default : Bag) with bound := true, ent := entShape ent, desc := desc, banks := s.bagBanks b ent desc }

/-- The home of a bag (R342): the steward of a channel of a stack, as stack and channel. -/
def State.homeOf (s : State) (b : Nat) : Nat × Nat :=
  let ks := maskBits (BufEnt.ofBits (s.bag b).ent).smask
  (ks.getD (b % ks.length) 0, b / 12 % 32)

/-- ⌈a ÷ b⌉. -/
def ceilDiv (a b : Nat) : Nat := (a + b - 1) / b

/-- The descriptor number that a bag's entry holds (R339). -/
def BufEnt.bagId (e : BufEnt) : Nat := e.kspec / 2 ^ 11

/-- A bag's descriptor is in order for a requester and a handle (R340). -/
def State.bagDescOk (s : State) (asid handle : Nat) (e : BufEnt) : Bool :=
  let idx := handle % 2 ^ 16
  let d := s.descBits e.bagId
  let x := BagDesc.ofBits d
  let banks := s.bagBanks e.bagId (s.entBits asid idx) d
  bitsOf d 180 180 == 1 && bitsOf d 190 181 == asid && bitsOf d 179 164 == idx && bitsOf d 194 193 != 3 && decide (1 ≤ x.cap) &&
    !banks.isEmpty && banks.all (fun b => decide (ceilDiv x.cap banks.length + x.slack ≤ b.slots.length))

/-- The checks of R340: a bag entry whose descriptor fails is HANDLE, which comes before the other checks; one that cannot be read is UNCORR
(R405). -/
def State.checkBag (s : State) (gid handle : Nat) : Chk :=
  let asid := (s.launchOf gid).asid
  match s.bufEnt asid (handle % 2 ^ 16) with
  | none => .fail (if s.entBad asid (handle % 2 ^ 16) then fkUncorr else fkHandle) handle 0
  | some e =>
    if s.entBad asid (handle % 2 ^ 16) ∨ (e.kind = kindBag ∧ s.tableBad (s.mg64 0x0058 + 32 * e.bagId) 32) then .fail fkUncorr handle 0
    else if e.kind = kindBag ∧ !s.bagDescOk asid handle e then .fail fkHandle handle 0
    else match s.checkBuf asid handle 0 0 rightBag [kindBag] 1 with
      | .error k => .fail k handle 0
      | .ok e => .ok { (default : Target) with handle := handle, kind := kindBag, off := e.bagId }

/-- The bag's descriptor has been read by the checks of a bag instruction (R339, R405). -/
def State.readBag (s : State) (gid handle : Nat) : State :=
  let asid := (s.launchOf gid).asid
  match s.bufEnt asid (handle % 2 ^ 16) with
  | some e => if e.kind = kindBag then s.readTable (s.mg64 0x0058 + 32 * e.bagId) 32 else s
  | none => s

/-- Binds the bag that a checked handle names: its number and descriptor. -/
def State.useBag (s : State) (gid handle : Nat) (b : Nat) : BagDesc × State :=
  let asid := (s.launchOf gid).asid
  let s := s.readBag gid handle
  let d := s.descBits b
  (BagDesc.ofBits d, s.bindBag b (s.entBits asid (handle % 2 ^ 16)) d)

/-! ## Results (R344, R346) -/

def State.bagOp (s : State) (id : Nat) : BagOp := kget s.bagOps id
def State.setBagOp (s : State) (id : Nat) (x : BagOp) : State := { s with bagOps := kset s.bagOps id x }
def State.modBagOp (s : State) (id : Nat) (f : BagOp → BagOp) : State := s.setBagOp id (f (s.bagOp id))

/-- A bag instruction is under way: its destinations have outstanding writes and the taint of R125. -/
def State.startBagOp (s : State) (i : Instr) (e : Lanes) (x : BagOp) : Nat × State :=
  let (id, s) := s.fresh
  let gid := s.cur.gid
  let codes := opCodes x.n x.dst ++ pdCode x.pd
  let x := { x with gid := gid, lanes := e, pc := s.cur.pc, uni := Instr.uniform i, serial := s.cur.serial, blks := (s.gang gid).blksOf e }
  let s := s.setBagOp id x
  (id, s.modGang gid (fun g => (g.addPend codes [] none id s.cur.t false).setTaint codes e (g.newTaint i e)))

/-- The one result of an instruction that acts once is written, and the instruction is over. -/
def State.endBagOp (s : State) (id : Nat) (x : BitVec 128) : State :=
  let op := s.bagOp id
  let s := s.modGang op.gid (fun g => { g with regs := g.regs.writeGroup (lowLane op.lanes) op.n op.dst x }.dropPend id)
  { s with bagOps := kdel s.bagOps id }

/-- A put's status is written (R346); with the last one of its bundle the put is over, and a FULL on a TRAPF bag traps (R348), where the
gang's block has not ended (R219, R361). -/
def State.putResult (s : State) (r : HomeReq) (status : Nat) (dk : Word) : State :=
  let op := s.bagOp r.op
  let mine := if op.uni then op.lanes else laneBit r.lane
  let x : BitVec 128 := BitVec.ofNat 128 (status + 2 ^ 32 * dk.toNat)
  let ok : Word := if status = 0 ∨ status = 3 then 1 else 0
  let s := s.modGang op.gid (fun g =>
    let regs := g.regs.writeGroup r.lane op.n op.dst x
    { g with regs := if op.pd = 7 then regs else (lanesOf mine).foldl (fun q l => q.writeReg l 0 (.p (BitVec.ofNat 8 op.pd)) ok) regs })
  let op := { op with left := op.left &&& ~~~mine, full := if status = 1 then op.full ||| mine else op.full }
  if op.left ≠ 0 then s.setBagOp r.op op
  else
    let s := { s with bagOps := kdel s.bagOps r.op }.modGang op.gid (fun g => g.dropPend r.op)
    if op.trapf ∧ op.full ≠ 0 ∧ (s.gang op.gid).stop ≠ .ending then s.takeTrap op.gid 0x06 1 1 op.pc op.full none else s

/-- A put on a bag with TRAPF set holds its gang until its statuses are written (R348). -/
def State.trapfHold (s : State) (gid : Nat) : Bool := s.bagOps.any (fun kv => kv.2.gid == gid && kv.2.trapf)

/-- `BagTrap` with no effect of the word (R348). -/
def State.bagTrap (s : State) (sub : Nat) (e : Lanes) : State :=
  s.takeTrap s.cur.gid 0x06 sub (BitVec.ofNat 32 sub) s.cur.pc e none

/-- The check of a bag instruction's handle, in A (R340, R344). -/
def bagEnds (f : Fields) (s : State) (r : Regs) (e : Lanes) : List Chk :=
  [s.checkBag s.cur.gid (s.readReg r (lowLane e) 0 f.a).toNat]

/-! ## Puts (R345 to R348) -/

/-- The common course of the puts. -/
def putBundle (i : Instr) (ranked : Bool) (kind : HomeKind) (n pd : Nat) (score : State → Regs → Nat → Word) (s : State) : Out :=
  let f := i.fields
  let gid := s.cur.gid
  cmdBundle i 2 (fun _ _ _ => false) (bagEnds f) (fun s r e ts =>
    let h := (ts.headD default).handle
    let b := (ts.headD default).off
    let (d, s) := s.useBag gid h b
    let g := s.gang gid
    let words := d.rs / 4
    let top := match f.b with | .v x => x.toNat + words ≤ g.nb + (if g.ext = .held then 16 * 2 ^ g.extK else 0) | o => o.index + words ≤ 64
    if !top then .next (s.illop gid s.cur.pc e)
    else if d.rank ≠ ranked then .next (s.bagTrap 3 e)
    else
      let lanes := if Instr.uniform i then [lowLane e] else lanesOf e
      let (op, s) := s.startBagOp i e { (default : BagOp) with bag := b, handle := h, dst := f.d, n := n, pd := pd, left := e, trapf := d.trapf }
      let s := lanes.foldl (fun s l =>
        let (id, s) := s.fresh
        let payload := (List.range words).foldl (fun (x : BitVec 512) k => x ||| ((s.readReg r l k f.b).setWidth 512 <<< (32 * k : Nat))) 0
        let q : HomeReq := { id := id, op := op, src := g.core, lane := l, kind := kind, payload := payload,
                             key := s.readReg r l 0 f.c, score := score s r l, status := 0, dk := 0 }
        s.modBag b (fun x => { x with queue := x.queue ++ [q] })) s
      .next s.retire) s

/-- `bput` (R347). -/
def execBput (f : Fields) (s : State) : Out := putBundle (.bput f) false .put 1 (putPd f) (fun _ _ _ => 0) s

/-- `bputk` (R347, R350): the status in the even register, the displaced key in the odd one. -/
def execBputk (f : Fields) (s : State) : Out :=
  putBundle (.bputk f) true .putRanked 2 (putPd f) (fun s r l => s.readReg r l 0 (putSc f)) s

/-- `bputv` (R351). -/
def execBputv (f : Fields) (s : State) : Out :=
  putBundle (.bputv f) false (.putToken (f.imm.extractLsb' 8 16)) 1 (putPd f) (fun _ _ _ => 0) s

/-! ## Settlement (R351) -/

/-- A provisional put of a bundle of the gang before `serial` has not been answered: it is on its way, or still waits (R251) to leave. -/
def State.putsOpen (s : State) (gid serial : Nat) : Bool :=
  s.bags.any (fun kv => (kv.2.queue ++ kv.2.placing).any (fun r => match r.kind with
    | .putToken _ => (s.bagOp r.op).gid == gid && decide ((s.bagOp r.op).serial < serial)
    | _ => false)) ||
    (s.gang gid).held.any (fun h => decide (h.bundle.serial < serial) && h.instr.any (fun i => match i with | .bputv _ => true | _ => false))

/-- `bcommit` and `bsquash` (R351): after the gang's provisional puts, the settlement goes to every steward of the bag. -/
def settle (i : Instr) (squash : Bool) (s : State) : Out :=
  let f := i.fields
  let gid := s.cur.gid
  cmdBundle i 2 (fun _ _ _ => false) (bagEnds f) (fun s r e ts =>
    -- a bundle that has waited goes on with the bag that it checked at issue
    let (h, b) := if s.cur.cmd.isSome then (s.cur.pkt % 2 ^ 32, s.cur.pkt / 2 ^ 32) else ((ts.headD default).handle, (ts.headD default).off)
    if s.cur.cmd.isNone ∧ s.putsOpen gid s.cur.serial then
      .next ({ s with cur := { s.cur with cmd := some default, pkt := h + 2 ^ 32 * b } }.hold e (.puts s.cur.serial) 2 i)
    else
      let (_, s) := s.useBag gid h b
      let tok : BitVec 16 := if f.slot = 0 then (s.readReg r (lowLane e) 0 f.b).setWidth 16 else f.imm.setWidth 16
      let (_, s) := s.startBagOp i e { (default : BagOp) with bag := b, handle := h, dst := f.d, n := 1, pd := 7, squash := squash, token := tok,
                                                              banks := List.range (s.bag b).banks.length, ended := true }
      .next s.retire) s

/-- `bcommit` (R351). -/
def execBcommit (f : Fields) (s : State) : Out := settle (.bcommit f) false s

/-- `bsquash` (R351). -/
def execBsquash (f : Fields) (s : State) : Out := settle (.bsquash f) true s

/-! ## Counts (R352, R353) -/

/-- A request for a count goes to the home, behind the core's puts (R342). -/
def askHome (i : Instr) (n : Nat) (kind : State → Regs → Lanes → HomeKind) (s : State) : Out :=
  let f := i.fields
  let gid := s.cur.gid
  let bad := fun (s : State) (r : Regs) (e : Lanes) => match kind s r e with | .stat k => decide (8 < k) | _ => false
  cmdBundle i 2 bad (bagEnds f) (fun s r e ts =>
    let h := (ts.headD default).handle
    let b := (ts.headD default).off
    let (_, s) := s.useBag gid h b
    let (op, s) := s.startBagOp i e { (default : BagOp) with bag := b, handle := h, dst := f.d, n := n, pd := 7 }
    let (id, s) := s.fresh
    let q : HomeReq := { id := id, op := op, src := (s.gang gid).core, lane := lowLane e, kind := kind s r e, payload := 0, key := 0,
                         score := 0, status := 0, dk := 0 }
    .next (s.modBag b (fun x => { x with queue := x.queue ++ [q] })).retire) s

/-- `bcount` (R352). -/
def execBcount (f : Fields) (s : State) : Out := askHome (.bcount f) 2 (fun _ _ _ => .count) s

/-- `bstat` (R353): a selector above 8 raises illegal-operation. -/
def execBstat (f : Fields) (s : State) : Out :=
  askHome (.bstat f) 1 (fun s r e => .stat (if f.slot = 0 then (s.readReg r (lowLane e) 0 f.b).toNat else (f.imm.extractLsb' 0 4).toNat)) s

/-! ## Drains (R354 to R358) -/

/-- A cursor value that no open cursor of the block has: the spec gives its form no meaning, so it is a free value. -/
def State.newCursorVal (s : State) (block : Nat) : Word × State :=
  let (x, s) := s.undef (s.launch (s.block block).launch).asid 32
  let used := (s.cursors.filter (fun kv => kv.2.block == block)).map (fun kv => kv.2.val)
  ((((List.range (used.length + 1)).map (fun k => x + BitVec.ofNat 32 k)).find? (fun v => !used.contains v)).getD x, s)

/-- `bdrain` (R354): NOCURSOR when the stack group's 64 cursors are open; the cut is recorded at each bank of the share. -/
def execBdrain (f : Fields) (s : State) : Out :=
  let i := Instr.bdrain f
  let gid := s.cur.gid
  cmdBundle i 2 (fun _ _ _ => false) (bagEnds f) (fun s _ e ts =>
    let h := (ts.headD default).handle
    let b := (ts.headD default).off
    let g := s.gang gid
    let stack := g.core / 16
    if 64 ≤ (s.cursors.filter (fun kv => kv.2.stack == stack)).length then .next (s.bagTrap 2 e)
    else
      let (_, s) := s.useBag gid h b
      let (v, s) := s.newCursorVal g.block
      let (cid, s) := s.fresh
      let banks := (List.range (s.bag b).banks.length).filter (fun k => ((s.bag b).banks.getD k default).stack == stack)
      let s := { s with cursors := kset s.cursors cid { stack := stack, bag := b, block := g.block, live := f.mod.getLsbD 0, val := v, cut := [],
                                                        finished := [], spent := false } }
      let (op, s) := s.startBagOp i e { (default : BagOp) with bag := b, handle := h, dst := f.d, n := 1, pd := 7, cursor := cid, banks := banks }
      .next (if banks.isEmpty then s.endBagOp op (v.setWidth 128) else s).retire) s

/-- The open cursor of a block that has a value, once its `bdrain` has written it (R354). -/
def State.cursorOf (s : State) (gid : Nat) (v : Word) : Option (Nat × Cursor) :=
  s.cursors.find? (fun kv => kv.2.block == (s.gang gid).block && kv.2.val == v &&
    s.bagOps.all (fun o => !(o.2.cursor == kv.1 && o.2.want == 0)))

/-- `bnext` (R355): its claims are made at the stewards. -/
def execBnext (f : Fields) (s : State) : Out :=
  let i := Instr.bnext f
  let gid := s.cur.gid
  let n := (f.mod.extractLsb' 0 6).toNat + 1
  let off := fun (s : State) (r : Regs) (e : Lanes) => if f.slot = 0 then (s.readReg r (lowLane e) 0 f.b).toNat else (f.imm.extractLsb' 0 18).toNat
  let cur := fun (s : State) (r : Regs) (e : Lanes) => s.cursorOf gid (s.readReg r (lowLane e) 0 f.a)
  cmdBundle i 2
    (fun s r e => match cur s r e with
      | none => true
      | some c => off s r e % 16 != 0 ||
          decide ((s.block (s.gang gid).block).blkmem < off s r e + n * ((BagDesc.ofBits (s.bag c.2.bag).desc).rs + 8)))
    (fun _ _ _ => [])
    (fun s r e _ =>
      match cur s r e with
      | none => .next s.retire
      | some (cid, c) =>
        let (_, s) := s.startBagOp i e { (default : BagOp) with bag := c.bag, dst := f.d, n := 1, pd := 7, cursor := cid, want := n, off := off s r e }
        .next s.retire) s

/-- Closes a cursor (R358). -/
def State.closeCursor (s : State) (cid : Nat) : State := { s with cursors := kdel s.cursors cid }

/-- `bclose` (R358). -/
def execBclose (f : Fields) (s : State) : Out :=
  let i := Instr.bclose f
  let gid := s.cur.gid
  let cur := fun (s : State) (r : Regs) (e : Lanes) => s.cursorOf gid (s.readReg r (lowLane e) 0 f.a)
  cmdBundle i 2 (fun s r e => (cur s r e).isNone) (fun _ _ _ => [])
    (fun s r e _ =>
      match cur s r e with
      | none => .next s.retire
      | some (cid, _) => .next (s.closeCursor cid).retire) s

end Sys2Proof.Machine
end

