-- ==== Sys2Proof/Machine/Fabric.lean ====
section
/-! DEFINITION. The fabric (R367 to R382): `xpost`, `xbcast`, `xfence`, and the posts' way to their destination: egress arbitration,
delivery, acknowledgement, and the failures of links, headers and clusters. -/

namespace Sys2Proof.Machine

/-! ## Routes (R367, R382) -/

/-- The partition of a gang's launch. -/
def State.partOf (s : State) (gid : Nat) : Part := kget s.parts (s.launchOf gid).part

/-- Clusters of a partition in ascending physical order (R373). -/
def Part.clusters (p : Part) : List Nat := ((maskBits p.mask).map (fun g => (List.range 4).map (4 * g + ·))).flatten

/-- The address of a route's entry, and the entry (R382, R401): the port mask, none for an empty one or one that cannot be read (R405). -/
def State.routeAddr (s : State) (asid route : Nat) : Nat := s.mg64 0x0068 + 8 * (256 * asid + route)
def State.routePorts (s : State) (asid route : Nat) : Nat :=
  if s.tableBad (s.routeAddr asid route) 8 then 0 else s.hbmRead (s.routeAddr asid route) 8 % 2 ^ 16

/-- A route is empty, or its ports are all down (R382). -/
def State.routeDown (s : State) (asid route : Nat) : Bool :=
  BitVec.ofNat 16 (s.routePorts asid route) &&& ~~~s.linkDown == 0

/-- Where a post goes, as R367's routes number it. -/
def State.destOf (s : State) (asid route : Nat) (l : Loc) : Nat :=
  if route ≠ 0 then 64 + s.routePorts asid route
  else match l with
    | .hbm pa => homeSlice (pa / 4096)
    | _ => 48

/-- The die on which a node of a route lies (R14): a cluster, the UCIe port on die 0, or a Postan port. -/
def nodeDie (n : Nat) : Nat := if n < 48 then n / 12 else if n = 48 then 0 else (n - 49) / 4

/-- Die boundaries join dies 0 and 1, 0 and 2, 1 and 3, 2 and 3 (R14). -/
def diesJoin (a b : Nat) : Bool := a == b || a ^^^ b == 1 || a ^^^ b == 2

/-- A node is where a post goes. -/
def nodeIs (dest n : Nat) : Bool := if dest < 64 then n == dest else decide (49 ≤ n) && (dest - 64).testBit (n - 49)

/-- The egress ports from node to node: the port of the link from `a` to `b` is 128 · a + b. -/
def linksOf (a : Nat) : List Nat → List Nat
  | [] => []
  | b :: rest => (128 * a + b) :: linksOf b rest

/-- A route goes from cluster `a` by links within a die or over one boundary to its destination, over at most H + 1 egress ports (R14,
R378). -/
def routeOk (hops dest a : Nat) (nodes : List Nat) : Bool :=
  decide (nodes.length ≤ hops + 1) && nodes.dropLast.all (fun n => decide (n < 48)) && nodeIs dest (nodes.getLastD a) &&
    (linksOf a nodes).all (fun l => diesJoin (nodeDie (l / 128)) (nodeDie (l % 128)))

/-- The largest hop count H of a shape (R367): clusters of a partition are at least one link apart. -/
def hopsOf (mask shape : Nat) : Nat := max 1 (Config.fabricHops mask shape % 64)

/-- The shortest way from cluster `a` to a destination: over one link where the dies join, else over a cluster of a die between (R14), one of
the partition before any other. -/
def directRoute (clusters : List Nat) (dest a : Nat) : List Nat :=
  let d := if dest < 64 then dest else 49 + (((List.range 16).find? (fun p => (dest - 64).testBit p)).getD 0)
  let joins := fun c => diesJoin (nodeDie a) (nodeDie c) && diesJoin (nodeDie c) (nodeDie d)
  if d = a then []
  else if diesJoin (nodeDie a) (nodeDie d) then [d]
  else [(((clusters ++ List.range 48).find? joins).getD a), d]

/-- The egress ports of a post's way: the partition's route where it is a way that the dies allow, else the shortest (R14, R16, R367). -/
def State.pathOf (s : State) (gid route : Nat) (l : Loc) : List Nat :=
  let p := s.partOf gid
  let a := (s.gang gid).core / 4
  let dest := s.destOf (s.launchOf gid).asid route l
  let nodes := Config.fabricPath p.mask p.shape a dest
  linksOf a (if routeOk (hopsOf p.mask p.shape) dest a nodes then nodes else directRoute p.clusters dest a)

/-- Packets in the queue of an egress port, by number. -/
def State.portQueue (s : State) (port : Nat) : KMap Post := s.posts.filter (fun kv => kv.2.queued && kv.2.hops.head? == some port)

/-- The cycle at an egress port: that of the die on which its node lies (R5, R11, R377). -/
def State.portNow (s : State) (port : Nat) : Nat := elapseDie s.clock (nodeDie (port / 128))

/-- Packets at a network interface enter the queue of their first egress port while it holds fewer than 64 (R377). -/
def State.inject (s : State) (port : Nat) : State :=
  match s.posts.find? (fun kv => !kv.2.queued && kv.2.hops.head? == some port) with
  | none => s
  | some (k, p) =>
    if (s.portQueue port).length < 64 then s.setPost k { p with queued := true, since := s.portNow port, old := false } else s

/-- A post leaves the issuing gang (R372). One whose route's entry cannot be read fails (R405). -/
def State.sendPost (s : State) (p : Post) : State :=
  let (k, s) := s.fresh
  let hops := s.pathOf p.gid p.route p.loc
  let (slot, _) := s.slotOf (s.launchOf p.gid).queue
  let s := s.setPost k { p with cl := (s.gang p.gid).core / 4, hops := hops, slot := slot, cls := s.effClass p.gid / 2, fresh := true }
  let asid := (s.launchOf p.gid).asid
  if p.route ≠ 0 ∧ s.tableBad (s.routeAddr asid p.route) 8 then (s.readTable (s.routeAddr asid p.route) 8).failPost k fkUncorr 0 true
  else match hops with
  | [] => s
  | h :: _ => s.inject h

/-! ## `xpost`, `xbcast`, `xfence` (R371 to R374) -/

/-- Words of a post's data. -/
def postWords (f : Fields) : Nat := (f.imm.extractLsb' 0 4).toNat + 1

/-- The register of the descriptor group (R371). -/
def State.desc (s : State) (r : Regs) (lane k : Nat) (f : Fields) : Nat := (s.readReg r lane k f.a).toNat

/-- The destination offset of copy `i` (R371 to R373): exact; a uniform form has no vo. -/
def State.postOff (s : State) (r : Regs) (lane : Nat) (f : Fields) (bcast : Bool) (i : Nat) : Nat :=
  s.desc r lane 1 f + (if f.slot = 3 then 0 else (s.readReg r lane 0 f.c).toNat) + (if bcast then i * s.desc r lane 2 f else 0)

/-- The handle and the offset of the counter of copy `i`. -/
def State.ctrOff (s : State) (r : Regs) (lane : Nat) (f : Fields) (bcast : Bool) (i : Nat) : Nat × Nat :=
  if bcast then (s.desc r lane 0 f, s.desc r lane 3 f + i * s.desc r lane 2 f) else (s.desc r lane 2 f, s.desc r lane 3 f)

/-- How many copies a lane sends. -/
def State.copiesOf (s : State) (bcast : Bool) : Nat := if bcast then (s.partOf s.cur.gid).clusters.length else 1

/-- The route of a post. -/
def postRoute (f : Fields) (bcast : Bool) : Nat := if bcast then 0 else (f.imm.extractLsb' 4 8).toNat

/-- The checks of one copy (R372): the destination, then the counter. -/
def State.checkCopy (s : State) (r : Regs) (lane : Nat) (f : Fields) (bcast : Bool) (i : Nat) : Chk × Option Chk :=
  let gid := s.cur.gid
  let (ch, co) := s.ctrOff r lane f bcast i
  (s.checkHandle gid (s.desc r lane 0 f) (s.postOff r lane f bcast i)
      { rights := rightW, kinds := [kindTiled, kindHost], width := 4 * postWords f, align := 4, write := true, blk := false },
    if f.mod.getLsbD 0 then
      some (s.checkHandle gid ch co { rights := rightA, kinds := [kindTiled], width := 8, align := 8, write := true, blk := false })
    else none)

/-- The checks of a lane, one after the other: every copy as a local post (R373), KEYEXH after all of them (R205); none on a peer route,
whose post is checked at the peer (R382). -/
def State.checkPost (s : State) (f : Fields) (bcast : Bool) (r : Regs) (lane : Nat) : Chk :=
  let none_ : Chk := .ok { (default : Target) with handle := s.desc r lane 0 f, off := s.postOff r lane f bcast 0,
                                                   kind := if postRoute f bcast = 0 then kindTiled else 0 }
  if postRoute f bcast ≠ 0 then none_
  else
    let all := ((List.range (s.copiesOf bcast)).map (fun i =>
      let c := s.checkCopy r lane f bcast i
      c.1 :: (match c.2 with | some x => [x] | none => []))).flatten
    match all.find? (fun c => match c with | .fail k _ _ => k != fkKeyExh | .walk _ _ => true | _ => false) with
    | some c => c
    | none => (all.find? (fun c => match c with | .fail _ _ _ => true | _ => false)).getD none_

/-- The units of a post at an offset (R372): naturally aligned, of up to 8 bytes. -/
def unitsOf (off n : Nat) : List (Nat × Nat) :=
  let cut := fun k => off / 8 * 8 + 8 * k
  ((List.range 9).map (fun k =>
    let lo := max off (cut k)
    let hi := min (off + n) (cut (k + 1))
    if lo < hi then [(lo - off, hi - lo)] else [])).flatten

/-- The posts of one lane, with its data as read at issue: one, or a copy to every cluster of the partition (R373). -/
def State.lanePosts (s : State) (f : Fields) (bcast : Bool) (r : Regs) (lane : Nat) (lanes : Lanes) : List Post :=
  let gid := s.cur.gid
  let words := postWords f
  let data := (List.range words).foldl (fun (x : BitVec 512) k => x ||| ((s.readReg r lane k f.b).setWidth 512 <<< (32 * k : Nat))) 0
  (List.range (s.copiesOf bcast)).map (fun i =>
    let off := s.postOff r lane f bcast i
    let local_ := decide (postRoute f bcast = 0)
    let c := s.checkCopy r lane f bcast i
    let t : Target := match c.1 with | .ok t => (if local_ then t else default) | _ => default
    let ct : Option Target := match c.2 with | some (.ok t) => (if local_ then some t else none) | _ => none
    { (default : Post) with
      gid := gid, bcast := bcast, route := postRoute f bcast, handle := s.desc r lane 0 f, off := off, loc := t.loc, pin := t.pin,
      key := t.key, words := words, data := data, ctr := ct.map (fun t => t.loc), ctrPin := (ct.getD default).pin,
      ctrKey := (ct.getD default).key, lane := lane, lanes := lanes, pc := s.cur.pc, units := unitsOf off (4 * words),
      add := f.mod.getLsbD 0 })

/-- Sends posts lane by lane, a lane's counting 1 in OUT together (R372, R373), while OUT is below 256: what is left, and the state. -/
def State.sendLanes (s : State) (gid : Nat) : List (List Post) → List (List Post) × State
  | [] => ([], s)
  | l :: rest =>
    if 256 ≤ (s.gang gid).posts.length then (l :: rest, s)
    else
      let (out, s) := s.fresh
      let s := s.modGang gid (fun g => { g with posts := g.posts ++ [out] })
      (l.foldl (fun s p => s.sendPost { p with out := out }) s).sendLanes gid rest

/-- Sends the posts of a bundle. While OUT has no room for the next of them the bundle is held at its issue, and its gang issues nothing
else (R372, R375). -/
def State.sendPosts (s : State) (i : Instr) (ps : List (List Post)) : State :=
  match s.sendLanes s.cur.gid ps with
  | ([], s) => s
  | (rest, s) =>
    let left : Lanes := rest.flatten.foldl (fun m p => m ||| p.lanes) 0
    let s := { s with cur := { s.cur with posts := rest } }.hold left .postRoom 1 i
    { s with cur := { s.cur with mask := 0 } }

/-- The course of `xpost` and `xbcast` (R372): the taint wait, the line rule, the checks, and the posts in ascending lane order. -/
def postBundle (i : Instr) (bcast : Bool) (s : State) : Out :=
  let f := i.fields
  let e := s.execLanes f
  let gid := s.cur.gid
  let g := s.gang gid
  let ids := g.taintLoads (g.waitTaint i e)
  let lanes := if Instr.uniform i then [lowLane e] else lanesOf e
  let n := 4 * postWords f
  let bad := lanes.any (fun l => (List.range (s.copiesOf bcast)).any (fun k =>
    let o := s.postOff s.view l f bcast k
    o % 4 != 0 || decide (64 < o % 64 + n)))
  let m : Ask := { rights := rightW, kinds := [kindTiled, kindHost], width := n, align := 4, write := true, blk := false }
  if e = 0 then .next s.retire
  else if s.cur.posts ≠ [] then .next (s.sendPosts i s.cur.posts).retire
  else if s.cur.stage = 0 ∧ !ids.isEmpty then .next ((s.hold e (.loads ids) 1 i).latchClk i e)
  else if bad then .next (s.illop gid s.cur.pc e)
  else memBundle i m false 3 (fun s r l => s.checkPost f bcast r l) (fun s r good oks =>
    -- the check of a local post's counter has read that handle's entry too
    let ctrs := if postRoute f bcast = 0 ∧ f.mod.getLsbD 0 ∧ !bcast then oks.map (fun o => s.desc r o.1 2 f) else []
    let s := s.readHandles (s.launchOf gid).asid ctrs
    let ps := oks.map (fun o => s.lanePosts f bcast r o.1 (accLanes i good o.1))
    { s with cur := { s.cur with mask := s.cur.mask &&& ~~~(e &&& ~~~good) } }.sendPosts i ps) s

/-- `xpost` (R372). -/
def execXpost (f : Fields) (s : State) : Out := postBundle (.xpost f) false s

/-- `xbcast` (R373). -/
def execXbcast (f : Fields) (s : State) : Out := postBundle (.xbcast f) true s

/-- `xfence` (R374): the count is read from the lowest executing lane and clamped to 65,535. -/
def execXfence (f : Fields) (s : State) : Out :=
  let i := Instr.xfence f
  let e := s.execLanes f
  let n := if f.slot = 0 then min 65535 (s.readReg s.view (lowLane e) 0 f.a).toNat else (f.imm.extractLsb' 0 16).toNat
  if e = 0 then .next s.retire
  else if s.cur.stage = 0 ∧ n < (s.gang s.cur.gid).posts.length then .next ((s.hold e (.posts n) 1 i).latchClk i e)
  else .next (s.latchClk i e).retire

/-! ## Egress (R377, R382) -/

/-- A packet's rank at an egress port (R377, R397): one whose age has reached 1,023 first, then budget left, then class. -/
def State.egressRank (s : State) (port : Nat) (p : Post) : Nat :=
  let fab := (kget s.hwslots p.slot).resv.getD 12 0
  let left := decide (p.slot < 64) && decide (s.budgetUsed (24576 + 64 * port + p.slot) (s.portNow port / 1024) < fab)
  if p.old || decide (p.since + 1023 ≤ s.portNow port) then 8 else (if left then 4 else 0) + p.cls

/-- The packets among which a port may choose: those of the best rank, the oldest of them. -/
def State.egressBest (s : State) (port : Nat) : List (Nat × Post) :=
  let q := s.portQueue port
  let top := q.foldl (fun m kv => max m (s.egressRank port kv.2)) 0
  let best := q.filter (fun kv => s.egressRank port kv.2 == top)
  let first := (best.map (fun kv => kv.2.since)).min?.getD 0
  best.filter (fun kv => kv.2.since == first)

/-- EGRESS_ARBITRATION (R377): the chosen packet goes to its next egress port, or to its destination; a post on a route that is
empty or down fails (R382). A broadcast takes its place in the root's order with the first of its copies that leaves (R375). -/
def execEgressArbitration (port idx : Nat) (s : State) : Out :=
  let best := s.egressBest port
  match best[idx % max 1 best.length]? with
  | none => .next s
  | some (k, p) =>
    let rest := p.hops.tail
    let room := match rest with | [] => true | h :: _ => decide ((s.portQueue h).length < 64)
    if !room then .next s
    else if p.route ≠ 0 ∧ s.routeDown (s.launchOf p.gid).asid p.route then .next ((s.failPost k 12 0 true).inject port)
    else
      let (n, s) := s.fresh
      let s := if p.bcast ∧ p.root = 0 then
          { s with posts := kmap s.posts (fun q => if q.gid = p.gid ∧ q.out = p.out then { q with root := n } else q) } else s
      let s := s.setPost k { s.postAt k with hops := rest, since := s.portNow (rest.headD port), old := false, fresh := false }
      let b := 24576 + 64 * port + p.slot
      let period := s.portNow port / 1024
      let s := if p.slot < 64 ∧ s.egressRank port p ≠ 8 then
          { s with spent := kset s.spent b { period := period, used := s.budgetUsed b period + 2 } } else s
      .next (s.inject port)

/-- PACKET_AGE_SATURATION (R377): the age counter stands at 1,023. -/
def execPacketAgeSaturation (pkt : Nat) (s : State) : Out :=
  .next (match kfind s.posts pkt with
    | some p => if p.queued ∧ p.hops ≠ [] ∧ p.since + 1023 ≤ s.portNow (p.hops.headD 0) then s.setPost pkt { p with old := true } else s
    | none => s)

/-! ## Delivery (R372, R373, R375) -/

/-- The home slice of an access, 48 for the host port. -/
def sliceOf (l : Loc) : Nat := match l with | .hbm pa => homeSlice (pa / 4096) | _ => 48

/-- A post has an access at a point that is not performed yet. -/
def Post.openAt (p : Post) (slice : Nat) : Bool :=
  p.route == 0 && ((sliceOf p.loc == slice && (!p.units.isEmpty || !p.open_.isEmpty)) ||
    (p.add && (match p.ctr with | some l => sliceOf l == slice | none => false)))

/-- Post `q` comes before post `k` at a point (R375): an earlier post of the gang on the route, or an earlier broadcast of the
partition. A broadcast with no place at the root yet comes after those with one. -/
def State.postBefore (s : State) (k q : Nat) : Bool :=
  let a := s.postAt q
  let b := s.postAt k
  if a.bcast != b.bcast then false
  else if a.bcast then
    (s.launchOf a.gid).part == (s.launchOf b.gid).part && a.root != 0 && (b.root == 0 || decide (a.root < b.root))
  else a.gid == b.gid && a.route == b.route && decide (q < k)

/-- A post may make an access at a point now. -/
def State.postTurn (s : State) (k : Nat) (l : Loc) : Bool :=
  !(s.posts.any (fun kv => kv.1 != k && kv.2.openAt (sliceOf l) && s.postBefore k kv.1))

/-- A post's access as a request at its point (R372): a unit is a store, the counter's an integer add of 8 bytes. -/
def State.postReq (s : State) (k : Nat) (p : Post) (l : Loc) (off : Nat) (kind : ReqKind) (width : Nat) (val : BitVec 128) (pin : Bool)
    (key : Nat) : Req :=
  { id := s.next + 1, src := 4 * p.cl, gid := p.gid, lane := p.lane, kind := kind, op := .add, signed := false, loc := l, width := width,
    val := val, cmp := 0, path := .x, load := k, bytes := 0, shift := 0, acked := false, pin := pin, key := key, handle := p.handle, off := off,
    lanes := p.lanes, pc := p.pc, serial := 0, order := 0, direct := false }

/-- A broadcast that reaches its first destination without an egress port takes its place in the root's order there. -/
def State.rootOrder (s : State) (p : Post) : State :=
  if p.bcast ∧ p.root = 0 then
    let (n, s) := s.fresh
    { s with posts := kmap s.posts (fun q => if q.gid = p.gid ∧ q.out = p.out then { q with root := n } else q) }
  else s

/-- POST_DELIVERY (R372): one unit is stored, or after every unit the counter's add is performed. A truncated packet is dropped
(R381). What a peer does with a post is the peer's: it takes it, or reports one of the checks of R228 failed (R382). -/
def execPostDelivery (pkt unit : Nat) (s : State) : Out :=
  .next (match kfind s.posts pkt with
    | none => s
    | some p =>
      if p.hops ≠ [] then s
      else match p.cut with
        | some cl => s.failPost pkt 10 cl true
        | none =>
          if p.route ≠ 0 then
            if p.units.isEmpty && !p.add then s
            else if s.routeDown (s.launchOf p.gid).asid p.route then s.failPost pkt 12 0 true
            else if s.posts.any (fun kv => kv.1 != pkt && s.postBefore pkt kv.1 && (!kv.2.units.isEmpty || kv.2.add)) then s
            else
              let (n, s) := s.choose 9
              if n = 0 then s.setPost pkt { p with units := [], add := false, fresh := false } else s.failPost pkt n 0 true
          else
            match p.units[unit % max 1 p.units.length]? with
            | some u =>
              if !s.postTurn pkt p.loc then s
              else
                let s := s.rootOrder p
                let x : BitVec 128 := (p.data >>> (8 * u.1)).setWidth 128 &&& BitVec.ofNat 128 (2 ^ (8 * u.2) - 1)
                let r := s.postReq pkt p (p.loc.plus u.1) (p.off + u.1) .store u.2 x p.pin p.key
                let s := (s.setPost pkt { s.postAt pkt with units := p.units.filter (· != u), open_ := p.open_ ++ [r.id], fresh := false })
                { s with next := s.next + 1 }.serve r false
            | none =>
              match p.ctr with
              | some l =>
                if !p.add || !p.open_.isEmpty || !s.postTurn pkt l then s
                else
                  let r := s.postReq pkt p l p.off .red 8 1 p.ctrPin p.ctrKey
                  let s := (s.setPost pkt { p with add := false, open_ := [r.id] })
                  { s with next := s.next + 1 }.serve r false
              | none => s)

/-- POST_ACK (R372): OUT falls once every access has been performed. -/
def execPostAck (pkt : Nat) (s : State) : Out :=
  .next (match kfind s.posts pkt with
    | some p => if p.hops = [] ∧ p.units = [] ∧ p.open_ = [] ∧ !p.add ∧ p.cut = none then s.dropPost pkt else s
    | none => s)

/-! ## Failures (R380 to R382) -/

/-- Every block of a launch ends, as under KILL (R219); one whose gangs have all ended already is over at once. No further instance of it is
placed. -/
def State.killLaunch (s : State) (l : Nat) : State :=
  let x := s.launch l
  let s := x.blocks.foldl (fun s b => if (s.block b).live && !(s.block b).ending then (s.killBlock b).endBlock b else s) s
  s.modLaunch l (fun x => { x with phase := 2, failed := true })

/-- No access of a post has been made yet. -/
def Post.whole (p : Post) : Bool := decide (p.units = unitsOf p.off (4 * p.words)) && p.open_.isEmpty

/-- FLIT_UNCORR (R380): a packet of which nothing has been performed is dropped whole and reported, and the sending launch ends. -/
def execFlitUncorr (pkt : Nat) (s : State) : Out :=
  .next (match kfind s.posts pkt with
    | some p => if p.whole then (s.failPost pkt fkUncorr 0 true).killLaunch (s.block (s.gang p.gid).block).launch else s
    | none => s)

/-- CORRUPT_HEADER (R380): the partition goes down. Its launches end, its posts in flight fail, and no launch starts in it before
its links are stitched again. -/
def execCorruptHeader (pkt : Nat) (s : State) : Out :=
  .next (match kfind s.posts pkt with
    | none => s
    | some p =>
      let part := (s.launchOf p.gid).part
      let mine := (s.posts.filter (fun kv => (s.launchOf kv.2.gid).part == part)).map Prod.fst
      let ls := (s.launches.filter (fun kv => kv.2.part == part && (kv.2.phase == 1 || kv.2.phase == 2))).map Prod.fst
      let s := mine.foldl (fun s k => s.failPost k 11 0 true) s
      let s := ls.foldl (fun s l => s.killLaunch l) s
      { s with parts := kmod s.parts part (fun x => { x with down := true }) })

/-- CLUSTER_RESET (R381): a packet of which the cluster's network interface has injected only a part is truncated. Which packet that
is, if there is one, is not fixed. -/
def execClusterReset (cluster : Nat) (s : State) : Out :=
  let cands := s.posts.filter (fun kv => kv.2.fresh && kv.2.cl == cluster)
  let (n, s) := s.choose (cands.length + 1)
  .next (match cands[n]? with
    | some (k, p) => s.setPost k { p with cut := some cluster }
    | none => s)

/-- POSTAN_LINK_DOWN (R382). -/
def execPostanLinkDown (port : Nat) (s : State) : Out :=
  .next { s with linkDown := s.linkDown ||| (if port < 16 then 1#16 <<< port else 0) }

/-- POSTAN_LINK_UP (R382). -/
def execPostanLinkUp (port : Nat) (s : State) : Out :=
  .next { s with linkDown := s.linkDown &&& ~~~(if port < 16 then 1#16 <<< port else 0) }

/-- The period of a budget counter that runs now: at a channel, in its controller's cycles; at an egress port, in those of its die. -/
def State.periodOf (s : State) (k : Nat) : Nat := if k < 24576 then s.mcNow (k / 64) / 1024 else s.portNow ((k - 24576) / 64) / 1024

/-- RESERVATION_BUDGET_REFILL (R397): every budget counter whose 1,024 cycles are over is full again, with no carry. -/
def execReservationBudgetRefill (s : State) : Out :=
  .next { s with spent := s.spent.filter (fun kv => kv.2.period == s.periodOf kv.1) }

end Sys2Proof.Machine
end

