-- ==== Sys2Proof/Machine/Traps.lean ====
section
/-! DEFINITION. Returning from a handler (R182, R203), parking and replay (R205 to R210), the acknowledgements of system software
(R208), and resumption from `brk` and watchpoints (R154, R212). -/

namespace Sys2Proof.Machine

/-- READY stands in BOOT.STAT (R400): management registers take writes. -/
def State.isReady (s : State) : Bool := (s.mg 0x0008).getLsbD 8

/-! ## Acknowledgements (R208) -/

/-- The replay entry that a core's SEQ names: its gang and the entry. -/
def State.replayOf (s : State) (core seq : Nat) : Option (Nat × Replay) :=
  s.gangs.findSome? (fun kv => (kv.2.replay.find? (fun r => r.core == core && r.seq == seq)).map (fun r => (kv.1, r)))

/-- Frees a replay entry. -/
def Gang.freeReplay (g : Gang) (core seq : Nat) : Gang := { g with replay := g.replay.filter (fun r => !(r.core == core && r.seq == seq)) }

/-- The threads of an abandoned long operation that are still there. -/
def Gang.longLanes (g : Gang) (lanes : Lanes) : Lanes := lanes &&& ~~~(g.lanesWith (fun t => t.gone || t.st == .filed))

/-- The threads that a memory fault keeps parked (R205). -/
def Gang.memParked (g : Gang) : Lanes :=
  (g.fails.foldl (fun m f => m ||| f.lanes) 0 ||| (g.replay.filter (fun r => r.type == 1)).foldl (fun m r => m ||| r.lanes) 0 |||
    (g.held.filter Held.parked).foldl (fun m h => m ||| h.bundle.mask) 0) &&& g.lanesWith (fun t => t.st == .parked)

/-- A thread stands at its restart point (R179, R210): the entry of its region, or the long operation, in the block state of that point. -/
def Thread.restart (t : Thread) (pc : Word) (blk : Option Blk) : Thread :=
  { t with st := .ready, wait := .none, longPark := false, longRe := none
           pc := t.region.getD pc, blk := if t.region.isSome then t.regionBlk else blk }

/-- The block state of a lane at a long operation. -/
def Replay.blkAt (r : Replay) (lane : Nat) : Option Blk := ((r.blks.find? (fun b => b.1 == lane)).map Prod.snd).getD none

/-- RETRY (R208, R209): the word is issued again for the parked lanes with the registers recorded, which stay parked until its checks have
passed; the threads of a long operation restart, those that have not parked yet at their next issue boundary. -/
def State.retry (s : State) (gid : Nat) (r : Replay) : State :=
  if r.type = 2 then
    s.modGang gid (fun g =>
      let g := g.freeReplay r.core r.seq
      let now := g.longLanes r.lanes &&& g.lanesWith (fun t => t.st == .parked) &&& ~~~g.memParked
      (lanesOf (g.longLanes r.lanes)).foldl (fun g l => g.modThread l (fun t =>
        if now.getLsbD l then t.restart r.pc (r.blkAt l) else { t with longPark := true, longRe := some (r.pc, r.blkAt l) })) g)
  else
    s.modGang gid (fun g =>
      let lanes := r.lanes &&& g.lanesWith (fun t => t.st == .parked)
      let b : Bundle := { gid := gid, mask := lanes, pc := r.pc, t := s.now g.core, exec := some lanes, word := some r.word, snap := some r.regs,
                          stage := 1, serial := g.serial + 1, absent := [], pid := 0, replay := true, pkt := 0, cmd := none, posts := [], iss := r.iss
                          why := { kind := r.kind, handle := r.handle, off := r.off, path := r.path } }
      let g := g.freeReplay r.core r.seq
      { g with serial := g.serial + 1, held := if lanes = 0 then g.held else g.held ++ [{ bundle := b, cond := .none }] })

/-- DELIVER (R208): the parked threads become ready and the gang takes MEMFAULT at the faulting word, or at the restart point of a
long operation, for which an issuer that has not parked yet leaves the wait that it stands in (R179, R210). -/
def State.deliver (s : State) (gid : Nat) (r : Replay) : State :=
  let g := s.gang gid
  let lanes := if r.type = 2 then g.longLanes r.lanes &&& ~~~g.memParked else r.lanes &&& g.lanesWith (fun t => t.st == .parked)
  let s := s.setGang gid ((lanesOf lanes).foldl (fun g l => g.modThread l (fun t =>
    if r.type = 2 then t.restart r.pc (r.blkAt l) else { t with st := .ready, wait := .none, pc := r.pc }))
    ((lanesOf lanes).foldl Gang.leaveWait (g.freeReplay r.core r.seq)))
  s.takeTrap gid 0x09 r.kind (BitVec.ofNat 32 r.kind) r.pc lanes
    (some { lanes := lanes, kind := r.kind, handle := r.handle, off := r.off, path := r.path, word := r.word, pc := r.pc, regs := r.regs,
            iss := r.iss, serial := 0, low := lowLane lanes })

/-- One acknowledgement takes effect: 0 RETRY, 1 DELIVER, 2 KILL. -/
def State.applyAck (s : State) (core seq disp : Nat) : State :=
  match s.replayOf core seq with
  | none => s
  | some (gid, r) =>
    match disp with
    | 0 => s.retry gid r
    | 1 => s.deliver gid r
    | _ => s.killBlock (s.gang gid).block

/-- A gang that runs outside trap state takes the acknowledgements that came before, in order; one that traps leaves the rest. -/
def State.drainAcks (s : State) (gid : Nat) : Nat → State
  | 0 => s
  | n + 1 =>
    let g := s.gang gid
    match g.acks with
    | [] => s
    | (c, q, d) :: rest =>
      if g.trap || !g.active then s
      else ((s.setGang gid { g with acks := rest }).applyAck c q d).drainAcks gid n

/-- A core's record has not been posted yet (R410): no answer reaches it. -/
def State.unposted (s : State) (core seq : Nat) : Bool := (s.core core).recQ.any (fun r => r.seq == seq)

/-- FAULT.ACK is written (R208): it takes effect at once, or when the gang next runs outside trap state. -/
def State.ack (s : State) (core seq disp : Nat) : State :=
  if !s.isReady || s.unposted core seq then s
  else match s.replayOf core seq with
    | none => s
    | some (gid, _) =>
      let g := s.gang gid
      if g.trap || !g.active then s.setGang gid { g with acks := g.acks ++ [(core, seq, disp)] } else s.applyAck core seq disp

/-- FAULT_ACK_RETRY (R208). -/
def execFaultAckRetry (core seq : Nat) (s : State) : Out := .next (s.ack core seq 0)

/-- FAULT_ACK_DELIVER (R208). -/
def execFaultAckDeliver (core seq : Nat) (s : State) : Out := .next (s.ack core seq 1)

/-- FAULT_ACK_KILL (R208, R219). -/
def execFaultAckKill (core seq : Nat) (s : State) : Out := .next (s.ack core seq 2)

/-- MEMORY_FAULT_PARK (R205, R206): the oldest failed bundle of a gang gets its one FAULT record, once no access of it may still fail, and
its replay entry, where threads are parked for it. -/
def execMemoryFaultPark (gid : Nat) (s : State) : Out :=
  let g := s.gang gid
  .next (match g.fails with
    | [] => s
    | f :: rest =>
      if (f.lanes ≠ 0 ∧ 4 ≤ (g.replay.filter (fun r => r.type == 1)).length) ∨
          s.openReqs.any (fun r => r.gid == gid && r.serial == f.serial && r.path == .t) then s
      else
        let (seq, s) := s.post g.core { s.gangRec gid 1 f.kind f.pc (f.lanes ||| f.told) with handle := f.handle % 2 ^ 16, path := f.path, off := f.off }
        s.modGang gid (fun g => { g with
          fails := rest
          replay := if f.lanes = 0 then g.replay else
            g.replay ++ [{ seq := seq, core := g.core, word := f.word, pc := f.pc, lanes := f.lanes, regs := f.regs, kind := f.kind,
                           handle := f.handle, off := f.off, path := f.path, type := 1, blks := [], iss := f.iss }] }))

/-- DBG_RESUME (R154, R212): the gang that the record stopped goes on. -/
def execDbgResume (core seq : Nat) (s : State) : Out :=
  .next (if !s.isReady || s.unposted core seq then s
    else { s with gangs := kmap s.gangs (fun g => if g.stop = .debug core seq then { g with stop := .running } else g) })

/-! ## `tret` -/

/-- Puts an item in its place in a list that rises by a number. -/
def insertBy {α : Type} (key : α → Nat) (x : α) : List α → List α
  | [] => [x]
  | y :: l => if key x ≤ key y then x :: y :: l else y :: insertBy key x l

/-- The threads of a core that wait for a bin, the oldest first: their order, gang, lane, registers carried and target (R111). -/
def State.binWaiters (s : State) (core : Nat) : List (Nat × Nat × Nat × Nat × Word) :=
  ((s.gangs.map (fun kv =>
    if kv.2.live && kv.2.active && kv.2.core == core then
      (lanesOf (kv.2.lanesWith (fun t => t.st == .waiting))).filterMap (fun l =>
        match (kv.2.thread l).wait with
        | .reform n target order => some (order, kv.1, l, n, target)
        | _ => none)
    else [])).flatten).foldr (insertBy (fun w => w.1)) []

/-- Threads that wait for a bin file, the oldest first, each that finds one (R111). -/
def State.fileWaiting (s : State) (core : Nat) : State :=
  (s.binWaiters core).foldl (fun s w =>
    match s.fileThread w.2.1 w.2.2.1 w.2.2.2.1 w.2.2.2.2 (s.gang w.2.1).regs with
    | some s' => s'.lastGone w.2.1
    | none => s) s

/-- The waits of a gang's returned threads on memory words are tested once (R182). -/
def State.retestWaddr (s : State) (gid : Nat) : State :=
  (lanesOf ((s.gang gid).lanesWith (fun t => t.st == .waiting))).foldl (fun s lane =>
    match ((s.gang gid).thread lane).wait with
    | .waddr w =>
      if !w.fresh && waddrCond w.cond (s.waddrVal w) w.cmp then
        (s.modGang gid (fun g => g.waddrHit lane w (s.waddrVal w))).observeRecord gid w.loc 8 else s
    | _ => s) s

/-- `tret` (R182, R203): legal only in trap state; it acts for the whole gang. What was acknowledged meanwhile takes effect then
(R208). -/
def execTret (f : Fields) (s : State) : Out :=
  let e := s.execLanes f
  let gid := s.cur.gid
  if e = 0 then .next s.retire
  else if !(s.gang gid).trap then .next (s.illop gid s.cur.pc e)
  else
    let s := (s.trapReturn gid).retestWaddr gid
    let s := s.fileWaiting (s.gang gid).core
    .next (s.drainAcks gid (s.gang gid).acks.length)

end Sys2Proof.Machine
end

