-- ==== Sys2Proof/Machine/Progress.lean ====
section
/-! DEFINITION. The thread engine's events: arrivals whose drain is over (R158), the ends of waits (R174, R176), the performing of
loads (R250, R251) and the acknowledgement of stores (R264). -/

namespace Sys2Proof.Machine

/-! ## Arrivals (R158) -/

/-- The drain of a kind for a lane and an object that is over. -/
def State.doneDrain (s : State) (gid : Nat) (p : Drain → Bool) : Option Drain :=
  (s.gang gid).drains.find? (fun d => p d && s.allDone d.ids)

/-- Removes a drain. -/
def Gang.dropDrain (g : Gang) (d : Drain) : Gang := { g with drains := g.drains.erase d }

/-- MASK_ARRIVAL (R160, R158): the A bit is set and the release test runs. -/
def execMaskArrival (gid lane : Nat) (s : State) : Out :=
  .next (match s.doneDrain gid (fun d => d.kind == 0 && d.lane == lane) with
    | some d => s.modGang gid (fun g => (g.dropDrain d).maskArrive d.obj (laneBit lane))
    | none => s)

/-- BARRIER_ARRIVAL (R166): a count is applied, and `CheckBar` may release the generation. -/
def execBarrierArrival (gid lane bar : Nat) (s : State) : Out :=
  .next (match s.doneDrain gid (fun d => d.kind == 1 && d.lane == lane && d.obj == bar) with
    | some d => (s.modGang gid (fun g => g.dropDrain d)).barCount (s.gang gid).block bar gid lane d.gen
    | none => s)

/-- NAMED_BARRIER_ARRIVAL (R170): the gang's arrival takes effect and the completion test runs. -/
def execNamedBarrierArrival (gid name : Nat) (s : State) : Out :=
  .next (match s.namedId gid (BitVec.ofNat 32 name) with
    | none => s
    | some id =>
      match s.doneDrain gid (fun d => d.kind == 2 && d.obj == id) with
      | some d => (s.modGang gid (fun g => g.dropDrain d)).namedArrive gid id
      | none => s)

/-! ## Timed waits -/

/-- A thread sleeps for the bundle `acq` (R174), in its wait or saved while its gang is in trap state. -/
def Thread.sleepsFor (t : Thread) (acq : Nat) : Bool :=
  (t.st == .waiting && (match t.wait with | .sleep _ a => a == acq | _ => false)) ||
    (t.inTrap && (match t.savedWait with | .sleep _ a => a == acq | _ => false))

/-- TWAIT_EXPIRY (R174): the thread is ready; with the last thread of a `twait.acq` the gang acquires. A thread whose gang has resumed on a
core of another die waits for the same number on that die's counter (DESIGN CHOICE, log 111). -/
def execTwaitExpiry (gid lane : Nat) (s : State) : Out :=
  let g := s.gang gid
  let t := g.thread lane
  .next (match t.st, t.wait with
    | .waiting, .sleep wake acq =>
      if !g.active || decide (s.now g.core < wake) then s
      else
        let g := g.modThread lane Thread.wake
        let s := s.setGang gid g
        if acq ≠ 0 ∧ g.lanesWith (fun t => t.sleepsFor acq) = 0 then s.acquire gid else s
    | _, _ => s)

/-- WADDR_REREAD (R176): a thread with no monitor entry reads its word again every 128 cycles, with the others of its bundle that are due. -/
def execWaddrReread (gid lane : Nat) (s : State) : Out :=
  let g := s.gang gid
  let due := fun l => match (g.thread l).st, (g.thread l).wait with
    | .waiting, .waddr w => if !g.active || w.entry || w.fresh || decide (s.now g.core < w.next) then none else some w
    | _, _ => none
  .next (match due lane with
    | none => s
    | some w =>
      let ws := (List.range 32).filterMap (fun l => (due l).bind (fun x =>
        if x.load = w.load ∧ x.loc = w.loc then some (l, { x with next := x.next + 128, fresh := true }) else none))
      (s.modGang gid (fun g => ws.foldl (fun g x => g.modThread x.1 (fun t => { t with wait := .waddr x.2 })) g)).readAgain gid ws)

/-! ## Loads and stores -/

/-- A loaded value as its registers take it (R77, R248). -/
def loadValue (ty : BitVec 5) (x : BitVec 128) : BitVec 128 :=
  let w := tyBits ty
  if w < 32 then
    if tySigned ty then ((x.setWidth 32 <<< (32 - w)).sshiftRight (32 - w)).setWidth 128 else x &&& BitVec.ofNat 128 (2 ^ w - 1)
  else x

/-- Writes a load's results: one for the bundle of a uniform form, else one for each lane. -/
def LoadOp.write (l : LoadOp) (r : Regs) : Regs :=
  let n := mtyRegs l.ty
  (if l.uni then (lanesOf l.lanes).take 1 else lanesOf l.lanes).foldl (fun r k =>
    r.writeGroup k n l.dst (loadValue l.ty (sget l.vals k))) r

/-- LOAD_PERFORM (R250, R251): the results are written, the destination's outstanding write ends and the tag is free again; SAT
goes when no load that took a tag or SAT is left. -/
def execLoadPerform (gid id : Nat) (s : State) : Out :=
  let g := s.gang gid
  .next (match g.loads.find? (fun l => l.id == id) with
    | none => s
    | some l =>
      if l.tag = 18 ∨ l.reqs ≠ [] then s
      else
        let rest := g.loads.filter (fun x => x.id != id)
        let g := { g with loads := rest, regs := l.write g.regs }.dropPend id
        let g := if l.tag < 16 then g.clearTaint (tagTaint l.tag) else g
        s.setGang gid (if rest.any (fun x => decide (x.tag ≤ 16)) then g else g.clearTaint (tagTaint 16)))

/-- STORE_ACK (R264): one store, reduction or metadata write that has been performed is acknowledged. -/
def execStoreAck (gid : Nat) (s : State) : Out :=
  .next (if (s.gang gid).out.isEmpty then s else s.modGang gid (fun g => { g with out := g.out.eraseP (fun o => o.2) }))

end Sys2Proof.Machine
end

