-- ==== Sys2Proof/Machine/Resource.lean ====
section
/-! DEFINITION. A core's resources: gang places (R99), the allocator, the compactor and the clear engine (R114 to R118), the Sifter
(R110 to R113), and the ends of gangs and blocks (R109, R219). -/

namespace Sys2Proof.Machine

/-! ## Places (R99) -/

/-- The place for a new gang on a core (R99): the slot with the fewest gangs, the lowest on a tie, and there the lowest free position, which
the spec does not fix (DESIGN CHOICE, log 138). -/
def State.newPlace (s : State) (core : Nat) : Nat :=
  let used := (s.residents core).map (fun g => (s.gang g).place)
  let load := fun sl => (used.filter (fun p => p / 48 == sl)).length
  let slot := (List.range 4).foldl (fun b sl => if load sl < load b then sl else b) 0
  (((List.range 48).map (48 * slot + ·)).find? (fun p => !used.contains p)).getD (48 * slot)

/-! ## The allocator, the compactor and the clear engine -/

/-- Work for the clear engine; the block's slabs come first (R118). -/
def State.queueClear (s : State) (core : Nat) (a : Alloc) : State :=
  let b := (s.gang a.gid).block
  let due := (s.block b).slabDue
  let now := s.now core
  let slabs : List Clear := if due = 0 then [] else [{ kind := 0, owner := b, left := due, since := now }]
  let s := s.modBlock b (fun x => { x with slabDue := 0 })
  s.modCore core (fun c => { c with
    clearQ := c.clearQ ++ slabs ++ [{ kind := if a.ext then 2 else 1, owner := a.gid, left := a.size, since := now }] })

/-- An allocation is granted at a start. -/
def State.grant (s : State) (core : Nat) (a : Alloc) (start : Nat) : State :=
  let s := s.modCore core (fun c => { c with allocs := c.allocs ++ [{ a with start := start }] })
  let s := s.modGang a.gid (fun g => if a.ext then { g with ext := .clearing, extBase := start } else { g with base := some start })
  s.queueClear core a

/-- ALLOCATOR_GRANT (R115): requests are served strictly in order; a block starts at a multiple of its size. -/
def execAllocatorGrant (core : Nat) (s : State) : Out :=
  let c := s.core core
  .next (match c.allocQ with
    | [] => s
    | a :: rest =>
      match findGranules c.allocs a.size with
      | none => s
      | some start => (s.modCore core (fun c => { c with allocQ := rest })).grant core a start)

/-- A block of granules has a register with an outstanding write (R116). -/
def State.allocBusy (s : State) (core : Nat) (a : Alloc) : Bool :=
  let g := s.gang a.gid
  let now := s.now core
  g.pend.any (fun p => decide (p.reg < 256) && (if a.ext then decide (g.nb ≤ p.reg) else decide (p.reg < g.nb)) &&
    (match p.done with | some d => decide (now < d) | none => true))

/-- COMPACTOR_MOVE (R116): where the head request fails only because free granules are scattered, one allocated block with no
outstanding write moves; its gang stalls for at most 16·g + 4 cycles. -/
def execCompactorMove (core start target : Nat) (s : State) : Out :=
  let c := s.core core
  .next (match c.allocQ, c.allocs.find? (fun a => a.start == start) with
    | h :: _, some a =>
      let others := c.allocs.filter (fun x => x.start != start)
      let free := others.all (fun x => decide (x.start + x.size ≤ target) || decide (target + a.size ≤ x.start))
      if (findGranules c.allocs h.size).isNone && decide (h.size ≤ freeGranules c.allocs) && !s.allocBusy core a &&
          target % a.size == 0 && decide (target + a.size ≤ 512) && free then
        let (n, s) := s.choose (16 * a.size + 5)
        let s := s.modCore core (fun c => { c with allocs := c.allocs.map (fun x => if x.start = start then { x with start := target } else x) })
        s.modGang a.gid (fun g =>
          let g := if a.ext then { g with extBase := target } else { g with base := some target }
          { g with stallTo := max g.stallTo (s.now core + n) })
      else s
    | _, _ => s)

/-- The threads of a gang that wait in `xacq` go on at the next word. -/
def Gang.wakeXacq (g : Gang) : Gang :=
  g.modLanes (g.lanesWith (fun t => t.st == .waiting && t.wait == .xacq)) (fun t => t.wake.skip)

/-- Clearing is complete: a block's slabs hold zeros at the reset configuration (R309), a gang's base granules are zero, or its
`xacq` completes (R177). -/
def State.cleared (s : State) (c : Clear) : State :=
  match c.kind with
  | 0 => s.modBlock c.owner (fun b => { b with slab := kmap b.slab (fun x => { x with data := [], flaw := 0 }) })
  | 1 => s.modGang c.owner (fun g => { g with cleared := true })
  | _ => s.modGang c.owner (fun g => { g with ext := .held }.wakeXacq)

/-- CLEAR_ENGINE_GRANULE (R118): one granule in 2 cycles. -/
def execClearEngineGranule (core : Nat) (s : State) : Out :=
  let now := s.now core
  .next (match (s.core core).clearQ with
    | [] => s
    | c :: rest =>
      if now < c.since + 2 then s
      else if 1 < c.left then s.modCore core (fun k => { k with clearQ := { c with left := c.left - 1, since := now } :: rest })
      else
        let rest := match rest with
          | [] => []
          | d :: r => { d with since := now } :: r
        (s.modCore core (fun k => { k with clearQ := rest })).cleared c)

/-! ## The Sifter (R112, R113) -/

/-- SIFTER_AGE_CAP_EXPIRY (R112). -/
def execSifterAgeCapExpiry (core bin : Nat) (s : State) : Out :=
  .next (match kfind (s.core core).bins bin with
    | none => s
    | some b =>
      if b.since + (s.launch (s.block b.block).launch).ageCap ≤ s.now core then
        s.modCore core (fun c => { c with bins := kset c.bins bin { b with aged := true } })
      else s)

/-- A bin may be drawn now (R112): it is full or aged, and its block has a free gang index and granules for its gang. How those granules
stand to the requests of R115 the spec does not say: a draw takes them only while no request waits and a block of them is free, so that
it never overtakes a request and nothing is compacted for it (DESIGN CHOICE, log 107). -/
def State.binReady (s : State) (core : Nat) (b : Bin) : Bool :=
  let k := s.block b.block
  let c := s.core core
  let size := (s.launch k.launch).regs / 16
  (b.aged || b.packets.length == 32) && k.live && !k.ending && k.where_ == .active && k.core == core && !k.freeIdx.isEmpty &&
    decide ((s.residents core).length < 192) && c.allocQ.isEmpty && (findGranules c.allocs size).isSome

/-- Undefined values for the keys `lo` to `lo + n - 1` (R7). -/
def State.undefFrom (s : State) (asid lo : Nat) : Nat → Sparse 32 → Sparse 32 × State
  | 0, m => (m, s)
  | n + 1, m =>
    let (x, s) := s.undef asid 32
    s.undefFrom asid (lo + 1) n (sset m lo x)

/-- A thread place as a new gang has it: THREAD.PC is undefined before its first trap (R202). A thread that was filed while a barrier
arrival of it was pending (R165) has none here: its packet does not carry one (R110; DESIGN CHOICE, log 110). -/
def newThread (st : TState) (pc tid undef : Word) : Thread :=
  { st := st, pc := pc, wait := .none, blk := none, tid := tid, region := none, regionBlk := none, pend := [], savedPc := undef,
    savedWait := .none, savedP := 0, savedBlk := none, inTrap := false, longPark := false, longRe := none }

/-- The 32 thread places of a new gang. -/
def State.newThreads (s : State) (asid : Nat) (f : Nat → TState × Word × Word) : KMap Thread × State :=
  (List.range 32).foldl (fun (acc : KMap Thread × State) l =>
    let (u, s) := acc.2.undef asid 32
    (acc.1 ++ [(l, newThread (f l).1 (f l).2.1 (f l).2.2 u)], s)) ([], s)

/-- The taint shadow of a new gang's spill stack of so many bytes: undefined (R225). -/
def State.newShadow (s : State) (asid stack : Nat) : Sparse 17 × State :=
  (List.range (stack / 4)).foldl (fun (acc : Sparse 17 × State) k =>
    let (x, s) := acc.2.undef asid 17
    (sset acc.1 k x, s)) ([], s)

/-- A gang as a launch or the Sifter starts it (R100, R113), before its registers. -/
def newGang (block idx core place nb : Nat) (threads : KMap Thread) (shadow : Sparse 17) (now : Nat) : Gang :=
  { (default : Gang) with live := true, block := block, idx := idx, core := core, place := place, active := true, nb := nb, placedAt := now,
                          threads := threads, spTaint := shadow }

/-- Initial `s0` to `s15` (R47). -/
def argRegs (args : List Word) : Sparse 32 := (List.range 16).foldl (fun m k => sset m k (args.getD k 0)) []

/-- SIFTER_BIN_DRAW (R113): the drawable bin with the oldest packet becomes a gang. -/
def execSifterBinDraw (core bin : Nat) (s : State) : Out :=
  let c := s.core core
  .next (match kfind c.bins bin with
    | none => s
    | some b =>
      if !s.binReady core b || c.bins.any (fun kv => s.binReady core kv.2 && decide (kv.2.since < b.since)) then s
      else
        let k := s.block b.block
        let l := s.launch k.launch
        let (pick, s) := s.choose k.freeIdx.length
        let idx := k.freeIdx.getD pick 0
        let place := s.newPlace core
        let (threads, s) := s.newThreads l.asid (fun j => match b.packets[j]? with
          | some p => (.ready, b.pc, p.tid)
          | none => (.vacant, 0, 0))
        let (shadow, s) := s.newShadow l.asid l.stack
        let g := newGang b.block idx core place l.regs threads shadow (s.now core)
        let (v, s) := s.undefFrom l.asid 0 (32 * l.regs) []
        let v := (List.range b.n).foldl (fun v i => (List.range 32).foldl (fun v j =>
          match b.packets[j]? with
          | some p => (match p.v[i]? with | some x => sset v (32 * i + j) x | none => v)
          | none => v) v) v
        let (sr, s) := s.undefFrom l.asid 16 48 (argRegs l.args)
        let regs : Regs := { v := v, s := sr, p := [] }
        let regs := (List.range b.packets.length).foldl (fun r j => r.setPreds j (b.packets.getD j default).p) regs
        let (gid, s) := s.fresh
        let s := s.setGang gid { g with
          regs := regs, ten := b.packets.foldl (fun t p => t ||| p.ten) 0, chk := b.packets.any (fun p => p.chk) }
        let s := s.modBlock b.block (fun x => { x with gangs := x.gangs ++ [gid], freeIdx := x.freeIdx.filter (· != idx) })
        let s := s.modCore core (fun c => { c with bins := kdel c.bins bin })
        let a : Alloc := { gid := gid, ext := false, start := 0, size := l.regs / 16 }
        let s := match findGranules (s.core core).allocs a.size with
          | some st => s.grant core a st
          | none => s
        (s.acquire gid).fileWaiting core)

/-! ## Ends (R109, R219) -/

/-- A gang ends (R109): every thread is exited, filed or vacant; no load, copy, bag or fabric command is outstanding; the store buffer has
drained, and what it still held at the last exit has been acknowledged, as for a `phase.rel` (R263). -/
def State.gangDone (s : State) (gid : Nat) : Bool :=
  let g := s.gang gid
  g.live && g.lanesWith (fun t => !(t.gone || t.st == .filed)) == 0 && g.loads.isEmpty && g.sb.isEmpty && g.posts.isEmpty &&
    (!g.closing || g.out.isEmpty) &&
    s.copies.all (fun kv => kv.2.gid != gid || kv.2.complete) && s.bagOps.all (fun kv => kv.2.gid != gid)

/-- A slab of the block is what is written; the write lasts until its engine completes it, though the gang has ended (R312, R318). -/
def Pend.isSlab (p : Pend) : Bool := decide (768 ≤ p.reg)

/-- GANG_END (R109): the place, the index, the granules and the copy slots are free; the gang leaves its named barriers (R170). -/
def execGangEnd (gid : Nat) (s : State) : Out :=
  let g := s.gang gid
  .next (if !s.gangDone gid then s
    else
      let cl := g.core / 4
      let named := ((kget s.clusters cl).bars.filter (fun kv => kv.2.attached.contains gid)).map Prod.fst
      let s := named.foldl (fun s id => s.detach cl id gid) s
      let s := s.clearLast gid
      let s := s.modCore g.core (fun c => { c with
        allocs := c.allocs.filter (fun a => a.gid != gid), allocQ := c.allocQ.filter (fun a => a.gid != gid)
        clearQ := c.clearQ.filter (fun x => x.kind == 0 || x.owner != gid) })
      let s := { s with copies := s.copies.filter (fun kv => kv.2.gid != gid) }
      let s := s.modGang gid (fun g => { g with live := false, active := false, regs := default, held := [], pend := g.pend.filter Pend.isSlab })
      let s := s.modBlock g.block (fun b => { b with freeIdx := if b.ending then b.freeIdx else b.freeIdx ++ [g.idx] })
      (s.endBlock g.block).allocDeadlock g.core)

end Sys2Proof.Machine
end

