-- ==== Sys2Proof/Machine/Slice.lean ====
section
/-! DEFINITION. The memory engine's events: translation walks (R233), home slices, arrivals and evictions (R235 to R243), the hot-tile
tracker (R244), phase-cache evictions (R254), channel controllers (R403), scrubbing and re-encryption (R406, R408, R409), and the
fabric port (R410). -/

namespace Sys2Proof.Machine

/-! ## Translation (R231, R233) -/

/-- A gang of the core has a bundle that waits for a page's walk. -/
def State.wantsWalk (s : State) (core asid : Nat) (page : Nat × Nat) : Bool :=
  s.gangs.any (fun kv => kv.2.core == core && (s.launchOf kv.1).asid == asid &&
    kv.2.held.any (fun h => match h.cond with | .walk ps => ps.contains page && !h.bundle.absent.contains page | _ => false))

/-- A translation cache of so many entries takes a translation (R233): over an older one of its page, and when it is full in the place of one
that is not fixed. -/
def State.cacheIn (s : State) (l : List Xlat) (cap : Nat) (x : Xlat) : List Xlat × State :=
  let l := l.filter (fun y => !(y.asid == x.asid && y.space == x.space && y.vpn == x.vpn))
  if l.length < cap then (l ++ [x], s)
  else
    let (k, s) := s.choose l.length
    (l.eraseIdx k ++ [x], s)

/-- A present leaf enters the caches of a core and of its cluster, of 128 and 4,096 entries (R233). -/
def State.cacheXlat (s : State) (core : Nat) (x : Xlat) : State :=
  let (l, s) := s.cacheIn (s.core core).xlat 128 x
  let s := s.modCore core (fun c => { c with xlat := l })
  let (l, s) := s.cacheIn (kget s.clusters (core / 4)).xlat 4096 x
  { s with clusters := kmod s.clusters (core / 4) (fun c => { c with xlat := l }) }

/-- The bundles of a core that wait for a page's walk learn that it is not present (R233). -/
def State.pageAbsent (s : State) (core asid : Nat) (page : Nat × Nat) : State :=
  { s with gangs := kmap s.gangs (fun g =>
    if g.core = core then
      { g with held := g.held.map (fun h => match h.cond with
          | .walk ps => if ps.contains page && (s.launch (s.block g.block).launch).asid == asid then
              { h with bundle := { h.bundle with absent := h.bundle.absent ++ [page] } } else h
          | _ => h) }
    else g) }

/-- TRANSLATION_WALK (R233): a present leaf enters the core's and the cluster's caches; a page that is not present is told to the
bundles that wait for it. Its reads of main memory wait their turn at their pages and channels (R403, R408). A page that the caches hold
may be walked again, after which a changed entry is used as it now stands. -/
def execTranslationWalk (core asid space va : Nat) (s : State) : Out :=
  let vpn := va / 2 ^ 16
  let page := vpn * 2 ^ 16
  .next (if (!s.wantsWalk core asid (space, vpn) && (s.cachedEnt core asid space va).isNone) || !s.walkOpen noQueue asid space page then s
    else
      let found := s.walk asid space page
      let s := s.readWalk noQueue asid space page
      match found with
      | some (pa, grade) =>
        (s.cacheXlat core { asid := asid, space := space, vpn := vpn, frame := pa, grade := grade }).setGrade space pa grade
      | none => s.pageAbsent core asid (space, vpn))

/-! ## Home slices -/

/-- SLICE_REQUEST (R235): the oldest request of one input queue is served. -/
def execSliceRequest (slice src : Nat) (s : State) : Out :=
  .next (match s.takeReq (fun r => r.slice == some slice && r.src == src) with
    | some (r, s) => s.serve r false
    | none => s)

/-- TILE_EVICTION (R242). -/
def execTileEviction (tile : Nat) (s : State) : Out := .next (s.evict tile).2

/-- An arrival whose read met an uncorrectable line fails (R241). -/
def State.failArrival (s : State) (tile : Nat) : State :=
  let t := s.tile tile
  let s := s.setTile tile { t with st := .absent, waiting := [], bad := false, caused := false, barred := t.barred || !t.caused }
  if t.caused then
    match t.waiting with
    | [] => s
    | r :: rest => rest.foldl (fun s r => s.serve r true) (s.failReq r fkUncorr)
  else t.waiting.foldl (fun s r => s.serve r true) (s.postRas 4 (tile * 4096 / 2 ^ 36) (tile * 4096 % 2 ^ 36))

/-- The pool of the slice has room for the appends that wait on a tile whose log they will reach (R241 step 3, R243). -/
def State.appendRoom (s : State) (tile : Nat) : Bool :=
  let t := s.tile tile
  let n := (t.waiting.filter (fun r => r.kind == .store || r.kind == .red)).length
  decide (s.poolUsed (homeSlice tile) + min n (32 - t.log.length) ≤ 16384)

/-- An arriving tile whose data have been read becomes resident (R238 steps 4 and 5). A write that waited under a key spent meanwhile fails
(R409). -/
def State.settle (s : State) (tile : Nat) : State :=
  let t := s.tile tile
  let data := t.log.foldl applyCrumb (s.tileMem tile)
  let s := s.setTile tile { t with
    st := .resident, data := data, dirty := !t.log.isEmpty, log := [], waiting := [], caused := false, reclaim := false, count := none
    barred := false, victim := false }
  t.waiting.foldl (fun s r => if r.writes && (kget s.keys r.key).spent then s.failReq r fkKeyExh else s.perform r) s

/-- TILE_ARRIVAL (R238): the log is applied, the access that caused the arrival and those that waited are performed in order. An arrival that
fails ends once the appends that wait on it find room in the pool, for which the slice reclaims (R241, R243). -/
def execTileArrival (tile : Nat) (s : State) : Out :=
  let t := s.tile tile
  .next (if t.st ≠ .arriving then s
    else if !t.framed then s.takeFrame tile
    else if s.hbmQ.any (fun q => q.tile == tile) then s
    else if t.bad then
      if s.appendRoom tile then s.failArrival tile
      else (s.modTile tile (fun t => { t with reclaim := false })).reclaimLog (homeSlice tile)
    else s.settle tile)

/-- HOT_TILE_PROMOTION (R244): a tile whose count has reached THRESH arrives. -/
def execHotTilePromotion (tile : Nat) (s : State) : Out :=
  let slice := homeSlice tile
  let s := s.hotSettle slice
  let t := s.tile tile
  let ctl := s.mg (clusterMg slice 0x0800)
  let thresh := max 1 (ctl.extractLsb' 8 8).toNat
  .next (if t.st == .absent && ctl.getLsbD 31 && !t.barred && t.count.any (fun c => decide (thresh ≤ c))
    then (s.arrive tile [] 0 false).countMg (clusterMg slice 0x0808) else s)

/-- HOT_TILE_DECAY (R244): every 2^DECAY cycles all counts of the slice halve. -/
def execHotTileDecay (slice : Nat) (s : State) : Out := .next (s.hotSettle slice)

/-- PHASE_CACHE_EVICTION (R254): a copy of a line leaves the cache, one that a resident gang may still hit only above 75% of the 8,192
lines, and then OVF is set. -/
def execPhaseCacheEviction (core line : Nat) (s : State) : Out :=
  let ls := kget (s.core core).lines line
  let (k, s) := s.choose ls.length
  .next (match ls[k]? with
    | none => s
    | some ln => if s.lineKept core ln && decide ((s.core core).lineCount < 6144) then s else s.dropCopy core line ln)

/-! ## Channel controllers (R403 to R409) -/

/-- A read that stands behind others at its page (R408) is not served before its turn. -/
def State.pageHeld (s : State) (r : HbmReq) : Bool :=
  (kget s.pages r.tile).wait.contains (.read r.tile r.chunk) && !s.pageTurn (r.tile * 4096) (some (.read r.tile r.chunk))

/-- The requests that a controller may serve next (R403): the oldest past the age cap; else reserved ones first (R397). Among the others a
row hit comes before the oldest, and which rows are open the spec does not say (log 121). -/
def State.hbmNext (s : State) (chan : Nat) : List HbmReq :=
  let q := s.hbmQ.filter (fun r => r.chan == chan && !s.pageHeld r)
  let old := q.filter s.overAge
  let first := (old.map (fun r => r.since)).min?.getD 0
  let resv := q.filter (fun r => r.resv)
  if !old.isEmpty then old.filter (fun r => r.since == first) else if resv.isEmpty then q else resv

/-- HBM_REQUEST (R403): the controller serves one request, once its page lets it (R408). A read that fails marks the arrival (R241, R405). -/
def execHbmRequest (chan idx : Nat) (s : State) : Out :=
  let q := s.hbmNext chan
  .next (match q[idx % max 1 q.length]? with
    | none => s
    | some r =>
      let pa := r.tile * 4096 + 256 * r.chunk
      match s.gate pa (s.tile r.tile).key false (.read r.tile r.chunk) with
      | (false, s) => s
      | (true, s) =>
        let (bad, s) := s.readLines pa 256 (s.tile r.tile).key
        let s := { s with hbmQ := s.hbmQ.erase r }
        if bad then s.modTile r.tile (fun t => { t with bad := true }) else s)

/-- SCRUB_LINE (R406): a correctable line is corrected, an uncorrectable one poisoned and reported. -/
def execScrubLine (line : Nat) (s : State) : Out :=
  let stack := line * 64 / 2 ^ 36
  .next (if !(s.mg (0x0100 + 16 * stack)).getLsbD 31 then s
    else
      let x := kget s.lineInfo line
      let found := eccClass (s.gradeOf line) x.flips == .uncorrectable
      let s := s.meetLine line
      if found || (!x.poison && (kget s.lineInfo line).poison) then s.postRas 1 stack (line * 64 % 2 ^ 36) else s)

/-- Write-backs of tiles that head the accesses that wait at a page are performed (R408). -/
def State.runEvicts (s : State) (page : Nat) : Nat → State
  | 0 => s
  | n + 1 =>
    match (kget s.pages page).wait.find? s.tokLive with
    | some (.evict t) => (match s.evict t with
      | (true, s) => s.runEvicts page n
      | (false, s) => s)
    | _ => s

/-- PAGE_REENCRYPT (R408, R409): the page's lines stand under the next major counter with minor counters of 0; a major counter that
runs out spends the key slot. What waited at the page goes on in its order. -/
def execPageReencrypt (page : Nat) (s : State) : Out :=
  .next (if !(kget s.pages page).reenc then s
    else
      let s := s.reencrypt page
      let s := s.modPage (page * 4096) (fun p => { p with wait := p.wait.filter s.tokLive })
      s.runEvicts page (kget s.pages page).wait.length)

/-! ## The fabric port (R259, R410) -/

/-- The accesses of one source that the fabric port may perform next: the lanes of a bundle in ascending order, bundles in any (R259), and the
low half of a 16-byte access before the high one (R271). -/
def State.portReady (s : State) (src : Nat) : List Req :=
  let q := s.reqs.filter (fun r => (match r.loc with | .host _ => true | _ => false) && r.src == src)
  q.filter (fun r => q.all (fun x => x.id != r.half && !(x.gid == r.gid && x.serial == r.serial && decide (x.order < r.order))))

/-- FABRIC_PORT_ACCESS (R259, R410): an access of one source to the host's memory is performed. -/
def execFabricPortAccess (src : Nat) (s : State) : Out :=
  let q := s.portReady src
  let (k, s) := s.choose q.length
  .next (match q[k]? with
    | some r => { s with reqs := s.reqs.filter (fun x => x.id != r.id) }.perform r
    | none => s)

end Sys2Proof.Machine
end

