-- ==== Sys2Proof/Machine/Engine.lean ====
section
/-! DEFINITION. The events of the copy engine (R293 to R304, R325) and of the matrix array (R298, R312, R318 to R321, R327). -/

namespace Sys2Proof.Machine

/-! ## Where a copy's bytes are -/

/-- Cuts `n` bytes at offset `off` of a buffer where a granule or a 64-byte line of memory begins. -/
def piecesOf (base off n : Nat) : List (Nat × Nat) :=
  let cuts := (List.range n).filter (fun k => k == 0 || (off + k) % 256 == 0 || (base + off + k) % 64 == 0)
  (List.range cuts.length).map (fun j => (cuts.getD j 0, cuts.getD (j + 1) n - cuts.getD j 0))

/-- The place of an offset as an engine of a core finds it: the caches' translation, or a walk's (R231, R233). -/
def State.engineLoc (s : State) (core asid : Nat) (e : BufEnt) (off : Nat) : Option Loc :=
  let (space, va) := e.interleave off
  match s.cachedEnt core asid space va with
  | some x => some (locOf space (x.frame + va % 2 ^ 16))
  | none => (s.walk asid space va).map (fun r => locOf space r.1)

/-- What an engine's access to a piece of a buffer meets (R239, R294, R409). -/
inductive Spot where
  /-- It may be made at this place; `main` says in main memory itself. -/
  | ok (l : Loc) (main : Bool)
  /-- Its tile arrives first. -/
  | tile (t : Nat)
  | fail (kind : Nat)
  deriving DecidableEq, Repr, Inhabited

/-- The spot of one piece. -/
def State.spot (s : State) (core asid : Nat) (e : BufEnt) (off : Nat) (write : Bool) : Spot :=
  match s.engineLoc core asid e off with
  | none => .fail fkNotPresent
  | some (.hbm pa) =>
    if write && (kget s.keys e.key).spent then .fail fkKeyExh
    else if e.kind = kindTiled then
      let t := s.tile (pa / 4096)
      if t.st = .resident then .ok (.hbm pa) false
      else if t.st = .arriving ∨ t.log ≠ [] then .tile (pa / 4096)
      else .ok (.hbm pa) true
    else .ok (.hbm pa) true
  | some l => .ok l false

/-- One piece of an end: its place in the chunk, its length, its offset in the buffer and its spot. -/
structure Piece where
  at_  : Nat
  n    : Nat
  off  : Nat
  spot : Spot
  deriving DecidableEq, Repr, Inhabited

/-- The pieces of `n` bytes of row `r` from byte `i` of an end. -/
def State.endPieces (s : State) (core : Nat) (c : Copy) (x : CopyEnd) (r i n : Nat) (write : Bool) : List Piece :=
  let off := x.off + r * x.stride + i
  match x.sort with
  | 0 => [{ at_ := 0, n := n, off := off, spot := .ok (.blk c.block off) false }]
  | 1 => (piecesOf x.ent.base off n).map (fun p =>
      { at_ := p.1, n := p.2, off := off + p.1, spot := s.spot core c.asid x.ent (off + p.1) write })
  | _ => []

/-- The tile of a waiting copy arrives, or the copy joins those that wait for it (R238, R239). -/
def State.awaitTile (s : State) (key : Nat) (c : Copy) (x : CopyEnd) (p : Piece) : State :=
  match p.spot with
  | .tile t =>
    let r : Req := { (default : Req) with
      id := 0, src := 192, gid := c.gid, kind := .copy, loc := .hbm (t * 4096), path := .c, load := key, key := x.ent.key, handle := x.handle,
      off := p.off, lanes := c.lanes, pc := c.pc, serial := c.serial }
    let y := s.tile t
    if y.st = .arriving then
      (if y.waiting.any (fun q => q.kind == .copy && q.load == key) then s else s.setTile t { y with waiting := y.waiting ++ [r] })
    else s.arrive t [r] c.gid false
  | _ => s

/-- The walk behind a piece, where no cache holds its translation, may be made; and what it reads, with its page's grade (R231 to R233). -/
def State.pieceOpen (s : State) (core queue asid : Nat) (e : BufEnt) (off : Nat) : Bool :=
  (s.cachedEnt core asid (e.interleave off).1 (e.interleave off).2).isSome || s.pageOpen queue asid e off

def State.learn (s : State) (core queue asid : Nat) (e : BufEnt) (off : Nat) : State :=
  if (s.cachedEnt core asid (e.interleave off).1 (e.interleave off).2).isSome then s else s.readPage queue asid e off

/-- Several accesses of main memory that are made in one step reach their pages (R408): all of them may be performed now, or those that may
not wait there. -/
def State.gates (s : State) (l : List (Nat × Nat)) (key : Nat) (write : Bool) (tok : PageTok) : Bool × State :=
  let full := fun (s : State) (x : Nat × Nat) => write && s.minorFull (l.filter (fun y => y.1 / 4096 == x.1 / 4096))
  let shut := fun (s : State) (x : Nat × Nat) => !(s.gate x.1 key (full s x) tok).1
  if l.any (shut s) then (false, l.foldl (fun s x => if shut s x then (s.gate x.1 key (full s x) tok).2 else s) s)
  else (true, l.foldl (fun s x => (s.gate x.1 key (full s x) tok).2) s)

/-- The pieces of a chunk that lie in main memory itself, as address and length. -/
def mainPieces (ps : List Piece) : List (Nat × Nat) :=
  ps.filterMap (fun p => match p.spot with | .ok (.hbm pa) true => some (pa, p.n) | _ => none)

/-- Reads the pieces of a chunk of a copy on path C: a piece that fails, or the bytes as a number. -/
def State.readPieces (s : State) (c : Copy) (ps : List Piece) : Except Piece Nat × State :=
  ps.foldl (fun (acc : Except Piece Nat × State) p =>
    match acc.1, p.spot with
    | .ok x, .ok l main =>
      let (bad, s) := match main, l with
        | true, .hbm pa => acc.2.readLines pa p.n c.src.ent.key
        | _, _ => (false, acc.2)
      if bad then (.error p, s)
      else
        let s := if main then s else s.meetWords l p.n false
        let (y, s) := s.readPath .c c.gid c.serial l p.n
        (.ok (x + y * 2 ^ (8 * p.at_)), s)
    | _, _ => acc) (.ok 0, s)

/-- Writes the pieces of a chunk on path C (R302): the issuing core's copy of a line of a tiled buffer goes. -/
def State.writePieces (s : State) (core : Nat) (c : Copy) (ps : List Piece) (x : Nat) : State :=
  let tiled := c.dst.sort == 1 && c.dst.ent.kind == kindTiled
  ps.foldl (fun s p => match p.spot with
    | .ok l _ =>
      (if tiled then s.dropLine core l else s).write .c core c.gid c.serial l p.n (x / 2 ^ (8 * p.at_) % 2 ^ (8 * p.n)) c.dst.ent.key
    | _ => s) s

/-- A byte of the destination that lies in the source's extent too (R293). -/
def Copy.overlaps (c : Copy) (off : Nat) : Bool :=
  let same := (c.src.sort == 0 && c.dst.sort == 0) ||
    (c.src.sort == 1 && c.dst.sort == 1 && c.src.handle % 2 ^ 16 == c.dst.handle % 2 ^ 16)
  same && decide (c.src.off ≤ off) && decide (off < c.src.off + (c.rows - 1) * c.src.stride + c.len)

/-- Replaces the bytes for which `p` holds by undefined values (R7). -/
def State.blur (s : State) (asid : Nat) (p : Nat → Bool) (n x : Nat) : Nat × State :=
  (List.range n).foldl (fun (acc : Nat × State) k =>
    if p k then
      let (u, s) := acc.2.undef asid 8
      (acc.1 - acc.1 / 2 ^ (8 * k) % 256 * 2 ^ (8 * k) + u.toNat * 2 ^ (8 * k), s)
    else acc) (x, s)

/-! ## COPY_CHUNK (R304) -/

/-- Chunks of a row, and chunks in all: the last is the amax word's (R325). -/
def Copy.perRow (c : Copy) : Nat := (c.len + 255) / 256
def Copy.chunks (c : Copy) : Nat := c.rows * c.perRow + (if c.amax.isSome then 1 else 0)

/-- A chunk has been moved. -/
def State.moved (s : State) (key chunk : Nat) : State :=
  s.setCopy key (let c := kget s.copies key; { c with moved := sset c.moved chunk 1 })

/-- The amax word takes the maximum (R325), as unsigned words (word 0 of R331). -/
def State.amaxChunk (s : State) (core key chunk : Nat) (c : Copy) (sort : Nat) (x : CopyEnd) (v : Word) : State :=
  let spot := if sort = 1 then Spot.ok (.blk c.block x.off) false else s.spot core c.asid x.ent x.off true
  -- an atomic makes its tile arrive in any case (R236)
  let spot := match spot with
    | .ok (.hbm pa) true => Spot.tile (pa / 4096)
    | y => y
  match spot with
  | .fail k => s.failCopy key c.serial k x.handle x.off
  | .tile _ => s.awaitTile key c x { at_ := 0, n := 4, off := x.off, spot := spot }
  | .ok l _ =>
    let s := s.meetWords l 4 false
    let old := s.peekN l 4
    ((s.dropLine core l).write .c core c.gid c.serial l 4 (memOpNew .max false 4 old v.toNat) x.ent.key).moved key chunk

/-- One chunk of a row: it fails, waits for its tiles, or moves once its channels and pages let it (R397, R403, R408). -/
def State.rowChunk (s : State) (core key chunk : Nat) (c : Copy) : State :=
  let r := chunk / c.perRow
  let i := 256 * (chunk % c.perRow)
  let n := min 256 (c.len - i)
  let src := s.endPieces core c c.src r i n false
  let dst := s.endPieces core c c.dst r i n true
  let failed := fun (ps : List Piece) => ps.find? (fun p => match p.spot with | .fail _ => true | _ => false)
  let tiles := fun (ps : List Piece) => ps.filter (fun p => match p.spot with | .tile _ => true | _ => false)
  match failed src, failed dst with
  | some p, _ => (match p.spot with | .fail k => s.failCopy key c.serial k c.src.handle p.off | _ => s)
  | none, some p => (match p.spot with | .fail k => s.failCopy key c.serial k c.dst.handle p.off | _ => s)
  | none, none =>
    if !(tiles src).isEmpty || !(tiles dst).isEmpty then
      (tiles dst).foldl (fun s p => s.awaitTile key c c.dst p) ((tiles src).foldl (fun s p => s.awaitTile key c c.src p) s)
    else
      let q := s.queueOf c.gid
      let main := mainPieces src ++ mainPieces dst
      let tok : PageTok := .copy key c.serial chunk
      if !main.all (fun x => s.chanOpen q x.1 x.2) then s
      else match s.gates (mainPieces src) c.src.ent.key false tok with
      | (false, s) => s
      | (true, s) => match s.gates (mainPieces dst) c.dst.ent.key true tok with
        | (false, s) => s
        | (true, s) =>
          let s := main.foldl (fun s x => s.chanTake q x.1 x.2) s
          match (if c.src.sort = 2 then (Except.ok (bytesAt c.data (512 * r + i) n), s) else s.readPieces c src) with
          | (.error p, s) => s.failCopy key c.serial fkUncorr c.src.handle p.off
          | (.ok x, s) =>
            let d0 := c.dst.off + r * c.dst.stride + i
            let (x, s) := s.blur c.asid (fun k => c.overlaps (d0 + k)) n x
            let s := if c.dst.sort = 2 then
                s.modSlab c.block c.dst.slab (fun y => { y with data := memWrite y.data (512 * r + i) n x })
              else s.writePieces core c dst x
            s.moved key chunk

/-- A place that no stack holds is among those of a chunk. -/
def State.chunkMisses (s : State) (core : Nat) (c : Copy) (chunk : Nat) : Bool :=
  let r := chunk / c.perRow
  let i := 256 * (chunk % c.perRow)
  let n := min 256 (c.len - i)
  (s.endPieces core c c.src r i n false ++ s.endPieces core c c.dst r i n true).any (fun p => match p.spot with
    | .ok (.hbm pa) _ => !hbmExists pa
    | _ => false)

/-- The place of an offset of an end is one that no stack holds. -/
def State.endMisses (s : State) (core asid : Nat) (x : CopyEnd) (off : Nat) : Bool :=
  match s.engineLoc core asid x.ent off with
  | some (.hbm pa) => !hbmExists pa
  | _ => false

/-- COPY_CHUNK (R304): an active copy moves one chunk, in no fixed order (R293). -/
def execCopyChunk (core id chunk : Nat) (s : State) : Out :=
  let key := 512 * core + id
  match kfind s.copies key with
  | none => .next s
  | some c =>
    if c.complete || c.failed.isSome || decide (c.chunks ≤ chunk) || sget c.moved chunk == 1 then .next s
    else
      let s := s.setCopy key { c with state := 3 }
      let q := s.queueOf c.gid
      -- the walks of an end's first and last byte (R231)
      let open_ := fun (x : CopyEnd) (offs : List Nat) => x.sort != 1 || offs.all (s.pieceOpen core q c.asid x.ent)
      let learn := fun (s : State) (x : CopyEnd) (offs : List Nat) => if x.sort = 1 then offs.foldl (fun s o => s.learn core q c.asid x.ent o) s else s
      if chunk = c.rows * c.perRow then
        (match c.amax with
        | some (sort, x, v) =>
          if !open_ x [x.off] then .next s
          else
            let s := learn s x [x.off]
            if sort ≠ 1 ∧ s.endMisses core c.asid x x.off then .fault .noSuchAddress else .next (s.amaxChunk core key chunk c sort x v)
        | none => .next s)
      else
        let r := chunk / c.perRow
        let i := 256 * (chunk % c.perRow)
        let at_ := fun (x : CopyEnd) => [x.off + r * x.stride + i, x.off + r * x.stride + i + (min 256 (c.len - i) - 1)]
        if !(open_ c.src (at_ c.src) && open_ c.dst (at_ c.dst)) then .next s
        else
          let s := learn (learn s c.src (at_ c.src)) c.dst (at_ c.dst)
          if s.chunkMisses core c chunk then .fault .noSuchAddress else .next (s.rowChunk core key chunk c)

/-! ## COPY_COMPLETE (R299) -/

/-- A slab whose configured bytes are undefined (R7, R306, R308). -/
def State.undefSlab (s : State) (asid : Nat) (x : Slab) : Slab × State :=
  let n := kget s.undefs asid
  let bytes := (List.range 16384).map (fun k =>
    (k, if k / 512 < x.rows ∧ k % 512 < x.rbytes then (Config.freeBits asid (n + k / 16) >>> (8 * (k % 16))).setWidth 8 else sget x.data k))
  ({ x with data := bytes.filter (fun kb => kb.2 != 0) }, { s with undefs := kset s.undefs asid (n + 1024) })

/-- The configured bytes of a slab of a block become undefined. -/
def State.blurSlab (s : State) (b k : Nat) : State :=
  let (x, s) := s.undefSlab (s.launch (s.block b).launch).asid (kget (s.block b).slab k)
  s.modSlab b k (fun _ => x)

/-- An armed `mma` hears that a copy is complete (R298). -/
def Armed.landed (a : Armed) (serial : Nat) (kind : Option Nat) : Armed :=
  if a.needs.contains serial then
    { a with
      needs := a.needs.filter (· != serial)
      failed := match a.failed with | some k => some k | none => if a.counts.contains serial then kind else none }
  else a

/-- COPY_COMPLETE (R299, R300): the state is set, a slab's outstanding write ends, the record is written, batches retire, and armed
operations learn of it. -/
def execCopyComplete (core id : Nat) (s : State) : Out :=
  let key := 512 * core + id
  .next (match kfind s.copies key with
    | none => s
    | some c =>
      let whole := (List.range c.chunks).all (fun k => sget c.moved k == 1)
      if c.complete || (c.failed.isNone && !whole) then s
      else
        let kind := match c.failed with | some k => some k | none => c.doom
        let c := { c with state := if kind.isSome then 1 else 0, kind := kind.getD 0 }
        let s := s.setCopy key c
        let s := s.modGang c.gid (fun g => if c.dst.sort = 2 then g.dropPend c.pid else g)
        let s := if c.dst.sort ≠ 2 then s
          else if c.failed.isSome then s.blurSlab c.block c.dst.slab
          else s.modSlab c.block c.dst.slab (fun x => { x with flaw := 0 })
        let s := s.writeRecord key c
        let s := s.modCore core (fun k => { k with armed := k.armed.map (fun a => a.landed c.serial kind) })
        (s.retireBatches c.gid 17).settleArmed core)

/-! ## The array (R298, R312, R321) -/

/-- Operations of a core's array in any queue, the one that runs left out. -/
def Core.mmaWaiting (c : Core) : List Mma := c.mmaQ ++ c.ready ++ c.armed.map (fun a => a.mma)

/-- An outstanding access forbids the hand-over of an armed `mma` (R312): what later words issued does not count. -/
def State.slabHazard (s : State) (core : Nat) (m : Mma) : Bool :=
  let c := s.core core
  let now := s.now core
  let waiting := c.mmaWaiting.filter (fun x => x.block == m.block && decide (x.id < m.id))
  let all := waiting ++ c.mmaRun.toList.filter (fun x => x.block == m.block)
  let writes := fun q => (s.block m.block).gangs.any (fun gid => (s.gang gid).pend.any (fun p =>
    p.reg == 768 + q && decide (p.id < m.id) && (match p.done with | some d => decide (now < d) | none => true)))
  let others := fun q => (s.block m.block).gangs.any (fun gid => (s.gang gid).pend.any (fun p =>
    p.reg == 768 + q && decide (p.id < m.id) && all.all (fun x => x.id != p.id) &&
      (match p.done with | some d => decide (now < d) | none => true)))
  writes m.a || writes m.b || others m.c || waiting.any (fun x => x.c == m.c) || all.any (fun x => x.a == m.c || x.b == m.c) ||
    s.heldReads m.block m.c (some m.id)

/-- The copy engine's queue of 4 takes follow-ons that are ready, in order (R298); those of a block that is switched out stay (R215, R328). -/
def State.refill (s : State) (core : Nat) : State :=
  let c := s.core core
  match c.ready.find? (fun m => (s.block m.block).where_ == .active) with
  | some m => if (c.mmaQ.filter (fun x => x.from_ == 4)).length < 4 then
      s.setCore core { c with ready := c.ready.erase m, mmaQ := c.mmaQ ++ [m] } else s
  | none => s

/-- MMA_HANDOVER (R298): the armed copy and the earlier ones have landed and no slab rule forbids it; while the block is switched out
it waits (R215). VALID clears (R181). -/
def execMmaHandover (core idx : Nat) (s : State) : Out :=
  .next (match (s.core core).armed[idx]? with
    | none => s
    | some a =>
      if a.needs ≠ [] ∨ a.failed.isSome ∨ (s.block a.mma.block).where_ ≠ .active ∨ s.slabHazard core a.mma then s
      else
        let s := (s.modCore core (fun c => { c with armed := c.armed.filter (fun x => x.mma.id != a.mma.id), ready := c.ready ++ [a.mma] })).refill core
        s.slabWritten a.mma.block)

/-- The slabs of an `mma` are read as the array accepts it (R327): whether one of them meets an uncorrectable error. -/
def State.meetOperands (s : State) (m : Mma) : Bool × State :=
  ([m.a, m.b] ++ (if m.z then [] else [m.c])).foldl (fun (acc : Bool × State) q =>
    let (bad, s) := acc.2.meetSlab m.block q
    (acc.1 || bad, s)) (false, s)

/-- MMA_ACCEPT (R321): the next requester in round-robin order that holds an operation; an uncorrectable slab abandons it (R327). What is
left of a block that has ended has no effect. -/
def execMmaAccept (core : Nat) (s : State) : Out :=
  let c := s.core core
  let turn := (List.range 5).map (fun k => (c.mmaLast + 1 + k) % 5)
  .next (match c.mmaRun, turn.findSome? (fun r => c.mmaQ.find? (fun m => m.from_ == r)) with
    | none, some m =>
      let s := (s.modCore core (fun c => { c with mmaQ := c.mmaQ.erase m, mmaLast := m.from_ })).refill core
      if !(s.block m.block).live then s
      else match s.meetOperands m with
        | (false, s) => s.modCore core (fun c => { c with mmaRun := some m })
        | (true, s) =>
          let s := (s.blurSlab m.block m.c).modGang m.gid (fun g => g.dropPend m.id)
          s.longop m.gid m.lanes m.blks m.pc fkUncorr 0 0 1
    | _, _ => s)

/-- MMA_COMPLETE (R318): every element of C is updated, and its pending bit clears. -/
def execMmaComplete (core : Nat) (s : State) : Out :=
  .next (match (s.core core).mmaRun with
    | none => s
    | some m =>
      let s := s.modCore core (fun c => { c with mmaRun := none })
      if !(s.block m.block).live then s
      else
        let sl := fun q => kget (s.block m.block).slab q
        let d := mmaResult m (sl m.c) (sl m.a) (sl m.b)
        (s.modSlab m.block m.c (fun x => { x with data := d, flaw := 0 })).modGang m.gid (fun g => g.dropPend m.id))

end Sys2Proof.Machine
end

