-- ==== Sys2Proof/Machine/BagHome.lean ====
section
/-! DEFINITION. The bag engine's events: admission at the home (R342, R349, R350), placement (R341), settlement (R351), cuts, claims
and frees (R354 to R357). -/

namespace Sys2Proof.Machine

/-! ## Ranking (R349) -/

/-- A score is a NaN. -/
def scoreNaN (x : Word) : Bool := decide (0x7F800000 < x.toNat % 2 ^ 31)

/-- A score as a number that orders as fp32 values do, −0 equal to +0. -/
def scoreKey (x : Word) : Int := if x.getLsbD 31 then -(x.toNat % 2 ^ 31 : Nat) else (x.toNat % 2 ^ 31 : Nat)

/-- Record (score, key) ranks above another (R349). -/
def ranksAbove (s1 k1 s2 k2 : Word) : Bool :=
  decide (scoreKey s2 < scoreKey s1) || (scoreKey s1 == scoreKey s2 && decide (k1.toNat < k2.toNat))

/-- The resident record that ranks below every other, among those that no `bnext` has claimed (R350, R357). -/
def Bag.lowest (b : Bag) : Option BagRec :=
  (b.recs.filter (fun r => r.claim == 0)).foldl (fun (best : Option BagRec) r => match best with
    | none => some r
    | some x => if ranksAbove x.score x.key r.score r.key then some r else some x) none

/-! ## Admission (R342, R347, R350, R352, R353) -/

/-- A statistic of a bag (R353), for an executing core's stack. -/
def State.bagStat (s : State) (b sel stack : Nat) : Nat :=
  let x := s.bag b
  let bankOf := fun (r : BagRec) => r.bank
  match sel with
  | 0 => (BagDesc.ofBits x.desc).cap
  | 1 => x.r
  | 2 => x.p
  | 3 => x.u
  | 4 => x.banks.length
  | 5 => ((List.range x.banks.length).map (fun k => (x.recs.filter (fun r => bankOf r == k)).length)).foldl max 0
  | 6 => x.failed
  | 7 => (x.recs.filter (fun r => (x.banks.getD r.bank default).stack == stack)).length
  | _ => (s.cursors.filter (fun kv => kv.2.bag == b && kv.2.stack == stack)).length

/-- A put is admitted: it is pending until its placement. -/
def Bag.takeIn (x : Bag) (r : HomeReq) : Bag := { x with p := x.p + 1, placing := x.placing ++ [r] }

/-- The home serves one request. -/
def State.homeServe (s : State) (b : Nat) (r : HomeReq) : State :=
  let x := s.bag b
  let d := BagDesc.ofBits x.desc
  match r.kind with
  | .count => s.endBagOp r.op (BitVec.ofNat 128 x.r)
  | .stat sel => s.endBagOp r.op (BitVec.ofNat 128 (min (2 ^ 32 - 1) (s.bagStat b sel (r.src / 16))))
  | .put | .putToken _ => if x.r + x.p < d.cap then s.setBag b (x.takeIn { r with status := 0 }) else s.putResult r 1 0
  | .putRanked =>
    if scoreNaN r.score then s.putResult r 4 0
    else if x.r < d.cap then s.setBag b (x.takeIn { r with status := 0 })
    else match x.lowest with
      | some low =>
        if ranksAbove r.score r.key low.score low.key then
          s.setBag b ({ x with recs := x.recs.filter (fun y => y.id != low.id), r := x.r - 1 }.takeIn { r with status := 3, dk := low.key })
        else s.putResult r 2 0
      | none => s.putResult r 2 0

/-- A request of a core stands at the same home, for another bag, and left before request `id` (R342). -/
def State.homeBefore (s : State) (bag src id : Nat) : Bool :=
  s.bags.any (fun kv => s.homeOf kv.1 == s.homeOf bag && kv.2.queue.any (fun r => r.src == src && decide (r.id < id)))

/-- BAG_ADMIT (R342): the oldest request of one core to the bag's home; a ranked bag admits no put while another is pending (R349). -/
def execBagAdmit (bag src : Nat) (s : State) : Out :=
  let x := s.bag bag
  .next (match x.queue.find? (fun r => r.src == src) with
    | none => s
    | some r =>
      if s.homeBefore bag src r.id ∨ (r.kind = .putRanked ∧ x.placing ≠ []) then s
      else (s.setBag bag { x with queue := x.queue.erase r }).homeServe bag r)

/-! ## Placement (R341) -/

/-- The buffer-table entry of a bag and the index that names it. -/
def State.bagEnt (s : State) (b : Nat) : Nat × Nat × BufEnt :=
  let d := (s.bag b).desc
  let asid := bitsOf d 190 181
  let idx := bitsOf d 179 164
  (asid, idx, (s.bufEnt asid idx).getD default)

/-- Where a record slot of a bag lies. -/
def State.slotLoc (s : State) (b off : Nat) : Option Loc :=
  let (asid, _, e) := s.bagEnt b
  s.bufLoc asid e off

/-- BAG_PLACE (R341, R347): a free slot of a bank within the balance bound; which one is not fixed. A page that is not present or a
spent key fails the put, with a record of its own. -/
def execBagPlace (bag put stack bank : Nat) (s : State) : Out :=
  let x := s.bag bag
  let d := BagDesc.ofBits x.desc
  let bk := x.banks.getD bank default
  let used := (x.recs.filter (fun r => r.bank == bank)).map (fun r => r.slot)
  let free := bk.slots.filter (fun o => !used.contains o)
  match x.placing.find? (fun r => r.id == put) with
  | none => .next s
  | some r =>
    if bk.stack ≠ stack ∨ x.banks.length ≤ bank ∨ free = [] ∨ ceilDiv (x.r + 1) x.banks.length + d.slack < used.length + 1 then .next s
    else
      let (k, s) := s.choose free.length
      let off := free.getD k 0
      let (asid, idx, e) := s.bagEnt bag
      let q := s.queueOf (s.bagOp r.op).gid
      if !s.pageOpen q asid e off then .next s
      else
      let s := s.readPage q asid e off
      let fail := fun (kind : Nat) =>
        let s := s.setBag bag { x with p := x.p - 1, placing := x.placing.erase r }
        let g := s.gang (s.bagOp r.op).gid
        let s := s.postFault g.core kind asid g.place (s.bagOp r.op).pc idx 2 off
        s.putResult r (5 + 256 * kind) r.dk
      match s.slotLoc bag off with
      | none => .next (fail fkNotPresent)
      | some (.hbm pa) =>
        if !hbmExists pa then .fault .noSuchAddress
        else if (kget s.keys e.key).spent then .next (fail fkKeyExh)
        else if !s.chanOpen q pa d.rs then .next s
        else match s.gates [(pa, d.rs)] e.key true (.place bag put) with
          | (false, s) => .next s
          | (true, s) =>
            let s := s.chanTake q pa d.rs
            let (id, s) := s.fresh
            let rec_ : BagRec := { id := id, bank := bank, slot := off, payload := r.payload, key := r.key, score := r.score,
                                   token := (match r.kind with | .putToken t => some t | _ => none), claim := 0 }
            let s := s.setBag bag { x with
              p := x.p - 1, r := x.r + 1, u := if rec_.token.isSome then x.u + 1 else x.u
              placing := x.placing.erase r, recs := x.recs ++ [rec_] }
            let s := (s.touchLines pa d.rs e.key).sliceWatch (.hbm pa) d.rs .b r.src
            .next (s.putResult r r.status r.dk)
      | some _ => .next (fail fkNotPresent)

/-! ## Settlement, cuts, frees (R351, R354, R355) -/

/-- An instruction whose stewards have all answered and whose counts the home has taken writes its result. -/
def State.finishBagOp (s : State) (id : Nat) : State :=
  match kfind s.bagOps id with
  | none => s
  | some op =>
    if op.ended && op.writes.isEmpty && op.banks.isEmpty && (s.bag op.bag).upd.all (fun u => u.op != id) then
      s.endBagOp id (BitVec.ofNat 128 (min (2 ^ 32 - 1) (if op.want = 0 then op.count else op.batch.length)))
    else s

/-- BAG_SETTLE (R351): the settlement reaches one bank; each unsettled record there with the token is settled or freed. -/
def execBagSettle (bag op steward : Nat) (s : State) : Out :=
  .next (match kfind s.bagOps op with
    | none => s
    | some o =>
      if o.bag ≠ bag || !o.ended || o.want != 0 || !o.banks.contains steward then s
      else
        let x := s.bag bag
        let hit := fun (r : BagRec) => r.bank == steward && r.token == some o.token
        let n := (x.recs.filter hit).length
        let recs := if o.squash then x.recs.filter (fun r => !hit r) else x.recs.map (fun r => if hit r then { r with token := none } else r)
        let upd : List HomeUpd := if n = 0 then [] else [{ op := op, recs := [], r := if o.squash then n else 0, u := n }]
        let s := s.setBag bag { x with recs := recs, upd := x.upd ++ upd }
        (s.setBagOp op { o with banks := o.banks.filter (· != steward), count := o.count + n }).finishBagOp op)

/-- BAG_CUT (R354): the cut of one bank of the share is recorded; after the last one `bdrain` writes the cursor. -/
def execBagCut (bag cursor bank : Nat) (s : State) : Out :=
  .next (match s.bagOps.find? (fun kv => kv.2.bag == bag && kv.2.cursor == cursor && kv.2.want == 0 && kv.2.banks.contains bank) with
    | none => s
    | some (id, o) =>
      match kfind s.cursors cursor with
      | none => s
      | some c =>
        let ids := ((s.bag bag).recs.filter (fun r => r.bank == bank && r.token.isNone)).map (fun r => r.id)
        let s := { s with cursors := kset s.cursors cursor { c with cut := c.cut ++ ids } }
        let left := o.banks.filter (· != bank)
        let s := s.setBagOp id { o with banks := left }
        if left.isEmpty then s.endBagOp id (c.val.setWidth 128) else s)

/-- BAG_FREE (R342): the home takes one update of its counts. -/
def execBagFree (bag idx : Nat) (s : State) : Out :=
  let x := s.bag bag
  .next (match x.upd[idx]? with
    | none => s
    | some u => (s.setBag bag { x with r := x.r - u.r, u := x.u - u.u, upd := x.upd.eraseIdx idx }).finishBagOp u.op)

/-! ## Claims (R355 to R357) -/

/-- A record is claimable by a cursor (R356); none is by one that has returned 0. -/
def claimable (x : Bag) (c : Cursor) (r : BagRec) : Bool :=
  !c.spent && r.token.isNone && r.claim == 0 && (x.banks.getD r.bank default).stack == c.stack &&
    (if c.live then !c.finished.contains r.bank else c.cut.contains r.id)

/-- A claim of a live cursor finishes the banks that it reaches and in which it finds nothing (R356): every one of the share when `bnext`
returns 0, otherwise some of them, which are not fixed. -/
def State.finishBanks (s : State) (cid : Nat) (all : Bool) : State :=
  let c := kget s.cursors cid
  let x := s.bag c.bag
  let banks := (List.range x.banks.length).filter (fun k => (x.banks.getD k default).stack == c.stack && !c.finished.contains k &&
    x.recs.all (fun r => r.bank != k || !claimable x c r))
  if !c.live then s
  else banks.foldl (fun s k =>
    let (n, s) := s.choose 2
    if all || n = 0 then { s with cursors := kmod s.cursors cid (fun c => { c with finished := c.finished ++ [k] }) } else s) s

/-- The words that a `bnext` writes of its record `i` (R355): the payload, the key and the score, as block offset and value. -/
def BagOp.wordsOf (o : BagOp) (rs i : Nat) (r : BagRec) : List (Nat × Word) :=
  (List.range (rs / 4)).map (fun k => (o.off + i * rs + 4 * k, r.payload.extractLsb' (32 * k) 32)) ++
    [(o.off + o.want * rs + 8 * i, r.key), (o.off + o.want * rs + 8 * i + 4, r.score)]

/-- The claims of a `bnext` are over (R355): its records go to the banks of block memory on path B. One that has claimed nothing returns 0
from then on (R356). -/
def State.endClaims (s : State) (id : Nat) : State :=
  let o := s.bagOp id
  let x := s.bag o.bag
  let rs := (BagDesc.ofBits x.desc).rs
  let g := s.gang o.gid
  let s := s.finishBanks o.cursor o.batch.isEmpty
  if o.batch.isEmpty then
    let s := if (kfind s.cursors o.cursor).isNone then s else { s with cursors := kmod s.cursors o.cursor (fun c => { c with spent := true }) }
    (s.setBagOp id { o with ended := true }).finishBagOp id
  else
    let recs := o.batch.filterMap (fun k => x.recs.find? (fun r => r.id == k))
    let ws := ((List.range recs.length).map (fun i => o.wordsOf rs i (recs.getD i default))).flatten
    let (ids, s) := ws.foldl (fun (acc : List Nat × State) w =>
      let (n, s) := acc.2.send { (default : Req) with
        src := g.core, gid := o.gid, kind := .store, op := .store, loc := .blk g.block w.1, width := 4, val := w.2.setWidth 128, path := .b }
      (acc.1 ++ [n], s)) ([], s)
    s.setBagOp id { o with writes := ids }

/-- Every word of a `bnext` has been written: its records leave the bag, and the home hears of it (R355). -/
def State.freeBatch (s : State) (id : Nat) : State :=
  let o := s.bagOp id
  let s := s.modBag o.bag (fun x => { x with
    recs := x.recs.filter (fun r => !o.batch.contains r.id), upd := x.upd ++ [{ op := id, recs := o.batch, r := o.batch.length, u := 0 }] })
  (s.setBagOp id { o with ended := true, writes := [] }).finishBagOp id

/-- The claims of a `bnext` are released, and it is over without a result (R357, R361). -/
def State.dropClaims (s : State) (id : Nat) : State :=
  let o := s.bagOp id
  let s := s.modBag o.bag (fun x => { x with recs := x.recs.map (fun r => if r.claim = id then { r with claim := 0 } else r) })
  let s := s.modGang o.gid (fun g => g.dropPend id)
  { s with bagOps := kdel s.bagOps id }

/-- A `bnext` meets a page of the region that is not present (R357): its claims are released and it is a long operation (R210). -/
def State.abandonClaims (s : State) (id off : Nat) : State :=
  let o := s.bagOp id
  let (_, idx, _) := s.bagEnt o.bag
  (s.dropClaims id).longop o.gid o.lanes o.blks o.pc fkNotPresent idx off 2

/-- A record whose payload cannot be read is freed and reported (R357). -/
def State.loseRec (s : State) (id : Nat) (r : BagRec) : State :=
  let o := s.bagOp id
  let g := s.gang o.gid
  let (asid, idx, _) := s.bagEnt o.bag
  let s := s.modBag o.bag (fun x => { x with
    recs := x.recs.filter (fun y => y.id != r.id), failed := x.failed + 1, upd := x.upd ++ [{ op := id, recs := [r.id], r := 1, u := 0 }] })
  s.postFault g.core fkUncorr asid g.place o.pc idx 2 r.slot

/-- One record is claimed at its steward, once its channels and its page let it be read (R397, R403, R408). -/
def State.claim (s : State) (op : Nat) (r : BagRec) : State :=
  let o := s.bagOp op
  let rs := (BagDesc.ofBits (s.bag o.bag).desc).rs
  let q := s.queueOf o.gid
  let (asid, _, e) := s.bagEnt o.bag
  if !s.pageOpen q asid e r.slot then s
  else
  let s := s.readPage q asid e r.slot
  match s.slotLoc o.bag r.slot with
  | some (.hbm pa) =>
    if !s.chanOpen q pa rs then s
    else match s.gates [(pa, rs)] e.key false (.claim op) with
      | (false, s) => s
      | (true, s) =>
        let (bad, s) := (s.chanTake q pa rs).readLines pa rs e.key
        if bad then s.loseRec op r
        else
          let s := s.modBag o.bag (fun x => { x with recs := x.recs.map (fun y => if y.id = r.id then { y with claim := op } else y) })
          let o := { o with batch := o.batch ++ [r.id] }
          let s := s.setBagOp op o
          if o.batch.length = o.want then s.endClaims op else s
  | _ => s.abandonClaims op r.slot

/-- BAG_CLAIM (R356, R357): one record is claimed at its steward. Number 0 ends the claims: with some claimed, or with nothing left to
claim; once the records have been written to block memory, it frees them. Which records and how many is not fixed. A `bnext` of a block
that has ended claims nothing any more (R361). -/
def execBagClaim (bag op rec_ : Nat) (s : State) : Out :=
  .next (match kfind s.bagOps op with
    | none => s
    | some o =>
      if o.bag ≠ bag || o.want == 0 || o.ended then s
      else if (s.gang o.gid).stop = .ending then s.dropClaims op
      else if o.writes ≠ [] then (if s.allDone o.writes then s.freeBatch op else s)
      else
        let s := s.finishBanks o.cursor false
        let x := s.bag bag
        let can := x.recs.filter (claimable x (kget s.cursors o.cursor))
        if rec_ = 0 then (if o.batch ≠ [] ∨ can = [] then s.endClaims op else s)
        else match can.find? (fun r => r.id == rec_) with
          | none => s
          | some r => s.claim op r)

end Sys2Proof.Machine
end

