-- ==== Sys2Proof/Machine/Queue.lean ====
section
/-! DEFINITION. The queue scheduler (R383 to R395, R98 to R100): queues and slots, launch packets, placement, completion, and
`qlaunch`. -/

namespace Sys2Proof.Machine

/-! ## The scheduler's accesses at the home slice (R17, R384, R391) -/

/-- A scheduler's step whose accesses can all be made, or nothing where one has to wait: it is then made later. -/
def State.attempt (s : State) (f : State → State) : State :=
  let s' := f { s with stuck := false }
  if s'.stuck then s else { s' with stuck := s.stuck }

/-- A tile arrives at once for the scheduler (R238): false where its read fails, or where it has to wait for a frame, its page or its
channels. -/
def State.settleTile (s : State) (tile key : Nat) : Bool × State :=
  let t := s.tile tile
  let pa := tile * 4096
  if t.st = .resident then (true, s)
  else match (if t.st = .arriving ∧ t.framed then (true, s) else s.makeRoom (homeSlice tile)) with
    | (false, s) => (false, { s with stuck := true })
    | (true, s) =>
      if !s.pageTurn pa none || !s.chanOpen noQueue pa 4096 then (false, { s with stuck := true })
      else
        let (bad, s) := s.readLines pa 4096 key
        let s := { s with hbmQ := s.hbmQ.filter (fun q => q.tile != tile) }
        if bad then
          (false, if t.st ≠ .arriving then s else if s.appendRoom tile then s.failArrival tile else { s with stuck := true })
        else (true, (s.setTile tile { t with key := key }).settle tile)

/-- The slice reclaims log entries until the pool has room (R243), one tile at a time (R245): the tile whose oldest entry is oldest arrives;
one that cannot be read is reported and passed over (R241). -/
def State.reclaimNow (s : State) (slice : Nat) : Nat → State
  | 0 => s
  | n + 1 =>
    if s.poolUsed slice < 16384 then s
    else if s.tiles.any (fun kv => homeSlice kv.1 == slice && kv.2.st == .arriving && kv.2.reclaim) then { s with stuck := true }
    else match s.oldestLog slice with
      | none => { s with stuck := true }
      | some old => match s.settleTile old (s.tile old).key with
        | (true, s) => s.reclaimNow slice n
        | (false, s) =>
          if s.stuck then s
          else ((s.modTile old (fun t => { t with barred := true })).postRas 4 (old * 4096 / 2 ^ 36) (old * 4096 % 2 ^ 36)).reclaimNow slice n

/-- The scheduler reads `n` bytes of a buffer as a `.dev` acquire; what it reads of a line with an uncorrectable error is undefined. Where it
waited on an arrival that has failed, the log may still serve it (R241 step 3). -/
def State.schedRead (s : State) (l : Loc) (n : Nat) (e : BufEnt) : Nat × State :=
  match l with
  | .hbm pa =>
    let tile := pa / 4096
    let log := fun (s : State) => if (s.tile tile).st = .absent then logServe (s.tile tile).log (pa % 4096) n else none
    match log s with
    | some x => (x, s.hotCount tile e.pin)
    | none =>
      let waited := (s.tile tile).st == .arriving
      match s.settleTile tile e.key with
      | (true, s) =>
        let s := s.meetWords l n false
        (s.peekN l n, s)
      | (false, s) => (match (if waited then log s else none) with
        | some x => (x, s)
        | none =>
          let (x, s) := s.undef e.asid 64
          (x.toNat % 2 ^ (8 * n), s))
  | _ => (s.peekN l n, s)

/-- The scheduler stores, or adds to, `n` bytes at offset `off` of buffer `idx`; what cannot be performed is reported (R241, R409). A store to
an absent tile is appended, once the pool has room (R243), also where the arrival on which it waited has failed (R241 step 3). -/
def State.schedWrite (s : State) (asid idx off : Nat) (e : BufEnt) (l : Loc) (n x : Nat) (add : Bool) : State :=
  match l with
  | .hbm pa =>
    let tile := pa / 4096
    let logs := fun (s : State) => decide ((s.tile tile).st = .absent) && decide ((s.tile tile).log.length < 32)
    let append := fun (s : State) =>
      s.append tile { (default : Req) with src := 193, kind := if add then .red else .store, op := .add, loc := l, width := n,
                                           val := BitVec.ofNat 128 x, path := .t, pin := e.pin, key := e.key, handle := idx, off := off }
    if (kget s.keys e.key).spent then s.postFault 0 fkKeyExh asid 0 0 idx 0 off
    else
      let s := if logs s then s.reclaimNow (homeSlice tile) 17000 else s
      if s.stuck then s
      else if logs s then append s
      else
        let waited := (s.tile tile).st == .arriving
        match s.settleTile tile e.key with
        | (true, s) => s.write .t 193 0 0 l n (if add then (s.peekN l n + x) % 2 ^ (8 * n) else x) e.key
        | (false, s) =>
          if s.stuck then s
          else if waited && logs s then append s
          else s.postFault 0 fkUncorr asid 0 0 idx 0 off
  | _ => s.write .t 193 0 0 l n x e.key

/-- Where offset `off` of a buffer lies, as the scheduler's own walk finds it, once that may be made (R231, R403). -/
def State.schedLoc (s : State) (asid : Nat) (e : BufEnt) (off : Nat) : Option Loc × State :=
  if !s.pageOpen noQueue asid e off then (none, { s with stuck := true })
  else
    let s := s.readPage noQueue asid e off
    (s.bufLoc asid e off, s)

/-- The scheduler writes one of its tables in main memory: a line whose minor counter runs out makes its page re-encrypt first (R408). -/
def State.tableWrite (s : State) (pa n x : Nat) : State :=
  if !s.pageTurn pa none || !s.chanOpen noQueue pa n then { s with stuck := true }
  else
    let s := if s.minorFull [(pa, n)] then s.reencrypt (pa / 4096) else s
    let s := s.chanTake noQueue pa n
    { s.hbmWrite pa n x with lineInfo := (linesOf pa n).foldl (fun m l => kset m l { kget m l with minor := (kget m l).minor + 1 }) s.lineInfo }

/-- The checks of R228 of a buffer that system software names by its index. -/
def State.checkIdx (s : State) (asid idx off width rights : Nat) (kinds : List Nat) (align : Nat) : Except Nat BufEnt :=
  match s.bufEnt asid idx with
  | none => .error (if s.entBad asid idx then fkUncorr else fkHandle)
  | some e =>
    match s.checkBuf asid (idx + 2 ^ 16 * e.gen) off width rights kinds align with
    | .error k => .error k
    | .ok e => if width != 0 && (s.bufLoc asid e off).isNone then .error fkNotPresent else .ok e

/-- Reads `8 n` bytes of a buffer, 8 at a time. -/
def State.schedWords (s : State) (asid : Nat) (e : BufEnt) (off : Nat) (n : Nat) : Nat × State :=
  (List.range n).foldl (fun (acc : Nat × State) k =>
    match acc.2.schedLoc asid e (off + 8 * k) with
    | (none, s) => (acc.1, s)
    | (some l, s) =>
      let (x, s) := s.schedRead l 8 e
      (acc.1 + x * 2 ^ (64 * k), s)) (0, s)

/-- Writes `8 n` bytes of a buffer, 8 at a time. -/
def State.schedStore (s : State) (asid idx : Nat) (e : BufEnt) (off n x : Nat) : State :=
  (List.range n).foldl (fun s k =>
    match s.schedLoc asid e (off + 8 * k) with
    | (none, s) => s
    | (some l, s) => s.schedWrite asid idx (off + 8 * k) e l 8 (x / 2 ^ (64 * k) % 2 ^ 64) false) s

/-! ## Queue descriptors (R383) -/

abbrev qTail (d : Nat) : Nat := bitsOf d 511 480
abbrev qHead (d : Nat) : Nat := bitsOf d 479 448
abbrev qRing (d : Nat) : Nat := bitsOf d 447 432
abbrev qRingN (d : Nat) : Nat := bitsOf d 431 428
abbrev qAsid (d : Nat) : Nat := bitsOf d 427 418
abbrev qPrio (d : Nat) : Nat := bitsOf d 417 415
abbrev qDevq (d : Nat) : Bool := bitsOf d 399 399 == 1
abbrev qValid (d : Nat) : Bool := bitsOf d 398 398 == 1
abbrev qResv (d : Nat) : Nat := bitsOf d 397 390
abbrev qPart (d : Nat) : Nat := bitsOf d 341 338

/-- Packets in the ring, mod 2^32. -/
def qCount (d : Nat) : Nat := (qTail d + 2 ^ 32 - qHead d) % 2 ^ 32

/-- The check of a ring (R384), for reading or writing a slot: the whole ring lies in its buffer, and the page of the slot is present. -/
def State.checkRing (s : State) (d rights slot : Nat) : Except Nat BufEnt :=
  match s.checkIdx (qAsid d) (qRing d) 0 (128 * 2 ^ qRingN d) rights [kindTiled] 1 with
  | .error k => .error k
  | .ok e => if (s.bufLoc (qAsid d) e (128 * slot)).isNone then .error fkNotPresent else .ok e

/-- The time slice of a queue in µs (R383). -/
def qSlice (d : Nat) : Nat := if 50 ≤ bitsOf d 414 401 ∧ bitsOf d 414 401 ≤ 10000 then bitsOf d 414 401 else 1000

/-- Ring slots of HEAD and TAIL. -/
def qHeadSlot (d : Nat) : Nat := qHead d % 2 ^ qRingN d
def qTailSlot (d : Nat) : Nat := qTail d % 2 ^ qRingN d

/-- A launch has not completed. -/
def Launch.running (l : Launch) : Bool := l.phase == 1 || l.phase == 2

/-- The queue has a launch that has not completed. -/
def State.queueBusy (s : State) (q : Nat) : Bool := s.launches.any (fun kv => kv.2.running && kv.2.queue == q)

/-- A partition takes no new packet: it is unused, down, or to be stitched again (R368, R380). -/
def State.partShut (s : State) (p : Nat) : Bool :=
  let x := kget s.parts p
  let cmd := s.mg 0x0640
  x.mask == 0 || x.down || (cmd.getLsbD 31 && (cmd.extractLsb' 0 4).toNat == p)

/-- The queue is stopped by its ring's failure, until its descriptor is rewritten (R384). -/
def State.queueStopped (s : State) (q : Nat) : Bool := (kget s.queues q).stop == some (s.qdesc q % 2 ^ 448)

/-! ## Doorbells and slots (R384, R385, R397, R398) -/

/-- A doorbell takes its place in the order. -/
def State.ring (s : State) (q : Nat) : State :=
  let x := kget s.queues q
  if x.bell ≠ 0 then s
  else
    let (n, s) := s.fresh
    { s with queues := kset s.queues q { x with bell := n } }

/-- QUEUE_BELL (R384). -/
def execQueueBell (queue : Nat) (s : State) : Out := .next (if s.isReady then s.ring (queue % 2 ^ 16) else s)

/-- A queue waits for a slot (R385). -/
def State.queueWaits (s : State) (q : Nat) : Bool :=
  let d := s.qdesc q
  let x := kget s.queues q
  x.bell != 0 && (s.slotOf q).1 == 64 && qValid d && (kget s.parts (qPart d)).mask != 0 && !s.queueStopped q &&
    (qCount d != 0 || s.queueBusy q)

/-- The reservation profile of a queue (R397, R401): MEM of the twelve stacks, then FAB. One that cannot be read (R405) reserves nothing
(DESIGN CHOICE, log 142). -/
def State.profileAddr (s : State) (q : Nat) : Nat := s.mg64 0x0060 + 64 * qResv (s.qdesc q)
def State.profile (s : State) (q : Nat) : List Nat :=
  let a := s.profileAddr q
  (List.range 13).map (fun k => if s.tableBad a 64 then 0 else s.hbmRead (a + 4 * k) 4)

/-- The reservations stay within R398's limit with this profile beside those of the slots in use, `but` left out. -/
def State.resvFits (s : State) (p : List Nat) (but : Nat) : Bool :=
  let all := p :: (s.hwslots.filter (fun kv => kv.1 != but)).map (fun kv => kv.2.resv)
  (List.range 13).all (fun k =>
    decide ((all.map (fun r => if k < 12 then (r.getD k 0 + 31) / 32 else r.getD k 0)).sum ≤ 768))

/-- The slots that a queue may take (R385, R398): a free one in which its reservation fits; where none is free, or none fits, those of lower
classes whose blocks are all switched out, each where the reservation then fits. -/
def State.slotsFor (s : State) (q : Nat) : List Nat :=
  let fits := fun k => s.resvFits (s.profile q) k
  match (List.range 64).find? (fun k => (kfind s.hwslots k).isNone && fits k) with
  | some k => [k]
  | none => (s.hwslots.filter (fun kv =>
      let bs := s.blocks.filter (fun b => b.2.live && (s.launch b.2.launch).queue == kv.2.queue)
      decide (qPrio (s.qdesc kv.2.queue) < qPrio (s.qdesc q)) && !bs.isEmpty && bs.all (fun b => b.2.where_ == .saved) && fits kv.1)).map Prod.fst

/-- Queue `a` takes a slot before queue `b`: the higher class, then the older doorbell. -/
def State.queueBefore (s : State) (a b : Nat) : Bool :=
  let pa := qPrio (s.qdesc a)
  let pb := qPrio (s.qdesc b)
  decide (pb < pa) || (pa == pb && decide ((kget s.queues a).bell < (kget s.queues b).bell))

/-- QUEUE_SLOT_MAP (R385, R398): which of several slots it takes is not fixed. -/
def execQueueSlotMap (queue : Nat) (s : State) : Out :=
  let can := fun q => s.queueWaits q && !(s.slotsFor q).isEmpty
  let ks := s.slotsFor queue
  let (n, s) := s.choose ks.length
  .next (if !s.isReady || !can queue || s.queues.any (fun kv => kv.1 != queue && can kv.1 && s.queueBefore kv.1 queue) then s
    else match ks[n]? with
      | some k =>
        let s := s.readTable (s.profileAddr queue) 64
        { s with hwslots := kset s.hwslots k { queue := queue, resv := s.profile queue } }
      | none => s)

/-- A queue with an empty ring and no launch left gives up its slot (R385). -/
def State.releaseSlot (s : State) (q : Nat) : State :=
  if qCount (s.qdesc q) ≠ 0 || s.queueBusy q then s
  else { s with hwslots := s.hwslots.filter (fun kv => kv.2.queue != q), queues := kmod s.queues q (fun x => { x with bell := 0 }) }

/-! ## Placement (R98, R99, R390) -/

/-- What a core has free for blocks (R98): granules, gang places, block memory, slabs, block-barrier entries. -/
structure CoreRoom where
  gran : Nat
  gangs : Nat
  mem  : Nat
  slabs : Nat
  bars : Nat
  deriving DecidableEq, Repr, Inhabited

def CoreRoom.empty : CoreRoom := { gran := 512, gangs := 192, mem := 2 ^ 18, slabs := 16, bars := 64 }

/-- What one block of a launch takes. -/
def Launch.need (l : Launch) : CoreRoom :=
  { gran := l.ngang * (l.regs / 16), gangs := l.ngang, mem := (l.blkmem + 32 * l.ngang * l.stack + 127) / 128 * 128, slabs := l.slabs, bars := 1 }

def CoreRoom.fits (r n : CoreRoom) : Bool :=
  decide (n.gran ≤ r.gran) && decide (n.gangs ≤ r.gangs) && decide (n.mem ≤ r.mem) && decide (n.slabs ≤ r.slabs) && decide (n.bars ≤ r.bars)

def CoreRoom.less (r n : CoreRoom) : CoreRoom :=
  { gran := r.gran - n.gran, gangs := r.gangs - n.gangs, mem := r.mem - n.mem, slabs := r.slabs - n.slabs, bars := r.bars - n.bars }

/-- The core of four that takes a block (R98): the one with the most free granules that fits, the lowest on a tie. -/
def pickCore (rooms : List CoreRoom) (ok : Nat → Bool) : Option Nat :=
  (List.range rooms.length).foldl (fun best k =>
    if !ok k then best
    else match best with
      | none => some k
      | some b => if (rooms.getD b default).gran < (rooms.getD k default).gran then some k else some b) none

/-- `n` blocks fit four empty cores when they are placed one at a time (R388). -/
def instanceFits (need : CoreRoom) : Nat → List CoreRoom → Bool
  | 0, _ => true
  | n + 1, rooms =>
    match pickCore rooms (fun k => (rooms.getD k default).fits need) with
    | none => false
    | some k => instanceFits need n (rooms.set k ((rooms.getD k default).less need))

/-- Blocks on a core's active bank. -/
def State.activeBlocks (s : State) (core : Nat) : List (Nat × Block) :=
  s.blocks.filter (fun kv => kv.2.live && kv.2.core == core && kv.2.where_ == .active)

/-- Block-memory bytes of a block. -/
def Block.memSize (b : Block) : Nat := (b.blkmem + 32 * b.ngang * b.stack + 127) / 128 * 128

/-- Where `size` bytes of block memory are free on a core (R221). -/
def State.memHoles (s : State) (core size : Nat) : List Nat :=
  let used := (s.activeBlocks core).map (fun kv => (kv.2.memBase, kv.2.memSize))
  let ends := 0 :: used.map (fun u => u.1 + u.2)
  ends.filter (fun a => decide (a + size ≤ 2 ^ 18) && used.all (fun u => decide (u.1 + u.2 ≤ a) || decide (a + size ≤ u.1)))

/-- What a core has free now. Granules for which a request waits, one of `xacq` too, count as taken (DESIGN CHOICE, log 107). -/
def State.room (s : State) (core : Nat) : CoreRoom :=
  let bs := s.activeBlocks core
  let c := s.core core
  { gran := freeGranules c.allocs - (c.allocQ.map (fun a => a.size)).sum, gangs := 192 - (s.residents core).length, mem := 2 ^ 18,
    slabs := 16 - (bs.map (fun kv => kv.2.slabs)).sum, bars := 64 - bs.length }

/-- A gang of a launch at its first issue (R97, R100). -/
def State.addGang (s : State) (b core idx : Nat) (l : Launch) : State :=
  let place := s.newPlace core
  let (threads, s) := s.newThreads l.asid (fun j => (.ready, 0, BitVec.ofNat 32 (32 * idx + j)))
  let (gid, s) := s.fresh
  let (shadow, s) := s.newShadow l.asid l.stack
  let g := newGang b idx core place l.regs threads shadow (s.now core)
  let s := s.setGang gid { g with regs := { v := [], s := argRegs l.args, p := [] } }
  let s := s.modBlock b (fun x => { x with gangs := x.gangs ++ [gid] })
  s.modCore core (fun c => { c with allocQ := c.allocQ ++ [{ gid := gid, ext := false, start := 0, size := l.regs / 16 }] })

/-- A slab at its reset configuration (R308, R309). -/
def Slab.reset : Slab := { ty := tyF32, rows := 32, rbytes := 128, data := [], flaw := 0 }

/-- The time slice of a queue on a core begins as its blocks take the core (R395). It runs in wall time (R5), as the controller of the
first channel of the core's stack counts it. -/
def State.startSlice (s : State) (core q : Nat) : State :=
  let now := s.mcNow (32 * (core / 16))
  s.modCore core (fun c => { c with expired := c.expired.filter (· != q), slices := kset c.slices q now })

/-- Places one block of a launch on a core. Its memory holds what ended blocks left there (R221), and zeros where no block has been since
reset (DESIGN CHOICE, log 1). -/
def State.addBlock (s : State) (lid core clu stk idx : Nat) : State :=
  let l := s.launch lid
  let holes := s.memHoles core l.need.mem
  let (k, s) := s.choose holes.length
  let base := holes.getD k 0
  let mem := ((s.core core).bmem.filter (fun kv => decide (base ≤ kv.1) && decide (kv.1 < base + l.need.mem))).map (fun kv => (kv.1 - base, kv.2))
  let (b, s) := s.fresh
  let s := s.setBlock b { (default : Block) with
    live := true, launch := lid, idx := idx, clu := clu, stk := stk, core := core, ngang := l.ngang, blkmem := l.blkmem, stack := l.stack,
    slabs := l.slabs, memBase := base, mem := mem, slab := (List.range l.slabs).map (fun k => (k, Slab.reset)), slabDue := 8 * l.slabs }
  let s := s.modLaunch lid (fun l => { l with blocks := l.blocks ++ [b] })
  let q := l.queue
  let first := (s.activeBlocks core).all (fun kv => kv.1 == b || (s.launch kv.2.launch).queue != q)
  let s := if first then s.startSlice core q else s
  (List.range l.ngang).foldl (fun s i => s.addGang b core i l) s

/-- Places the blocks of a cluster instance on the cores of a cluster, or none of them. -/
def State.addInstance (s : State) (lid cl clu stk : Nat) : Nat → Option State
  | 0 => some s
  | n + 1 =>
    let l := s.launch lid
    let rooms := (List.range 4).map (fun k => s.room (4 * cl + k))
    match pickCore rooms (fun k => (rooms.getD k default).fits l.need && !(s.memHoles (4 * cl + k) l.need.mem).isEmpty) with
    | none => none
    | some k => (s.addBlock lid (4 * cl + k) clu stk (l.nblk - (n + 1))).addInstance lid cl clu stk n

/-- CLUSTER_INSTANCE_PLACE (R390): the next instance of a launch goes whole to the lowest cluster of its stack group that takes it. -/
def execClusterInstancePlace (launch : Nat) (s : State) : Out :=
  let l := s.launch launch
  let part := kget s.parts l.part
  let stk := l.nextInst / max 1 l.nclu
  let clu := l.nextInst % max 1 l.nclu
  .next (if l.phase ≠ 1 || part.down || (s.slotOf l.queue).1 == 64 then s
    else match (maskBits part.mask)[stk]? with
      | none => s
      | some sg =>
        match ((List.range 4).map (4 * sg + ·)).findSome? (fun cl => s.addInstance launch cl clu stk l.nblk) with
        | none => s
        | some s => s.modLaunch launch (fun l =>
            { l with nextInst := l.nextInst + 1, phase := if l.nextInst + 1 = l.nclu * l.nstk then 2 else 1 }))

/-! ## Completion (R391) -/

/-- The completion record: STATUS, KIND, the blocks, the failed ones and the first of them, SEQ. -/
def State.recordOf (s : State) (l : Launch) (status kind : Nat) : Nat :=
  let failed := (List.range l.blocks.length).filter (fun k => (s.block (l.blocks.getD k 0)).failed)
  status + 2 ^ 8 * kind + 2 ^ 32 * l.blocks.length + 2 ^ 64 * failed.length + 2 ^ 96 * failed.headD 0xFFFFFFFF + 2 ^ 128 * l.seq

/-- Writes the completion record, then adds 1 to the signal counter. -/
def State.report (s : State) (l : Launch) (status kind : Nat) : State :=
  let s := s.readEnt l.asid (l.doneH % 2 ^ 16)
  let s := match s.checkIdx l.asid l.doneH l.doneO 32 rightW [kindTiled] 32 with
    | .ok e => s.schedStore l.asid l.doneH e l.doneO 4 (s.recordOf l status kind)
    | .error _ => s
  if l.sigH = 0xFFFFFFFF then s
  else
    let s := s.readEnt l.asid (l.sigH % 2 ^ 16)
    match s.checkIdx l.asid l.sigH l.sigO 8 rightA [kindTiled] 8 with
    | .ok e => (match s.schedLoc l.asid e l.sigO with
      | (some x, s) => s.schedWrite l.asid l.sigH l.sigO e x 8 1 true
      | (none, s) => s)
    | .error _ => s

/-- LAUNCH_COMPLETE (R391): every block has ended, and every store and reduction of its gangs has been performed. -/
def execLaunchComplete (launch : Nat) (s : State) : Out :=
  let l := s.launch launch
  let gangs := (l.blocks.map (fun b => (s.block b).gangs)).flatten
  .next (if l.phase ≠ 2 || l.blocks.any (fun b => (s.block b).live) || s.openReqs.any (fun r => gangs.contains r.gid && r.writes) then s
    else s.attempt (fun s =>
      let bad := l.failed || l.blocks.any (fun b => (s.block b).failed)
      let s := s.report l (if bad then 1 else 0) 0
      let s := { s with gangs := s.gangs.filter (fun kv => !gangs.contains kv.1), blocks := s.blocks.filter (fun kv => !l.blocks.contains kv.1) }
      (s.modLaunch launch (fun l => { l with phase := 3, blocks := [] })).releaseSlot l.queue))

/-! ## Launch packets (R386, R388, R389) -/

/-- `n` bytes of a packet from byte `b`. -/
def pktField (p b n : Nat) : Nat := p / 2 ^ (8 * b) % 2 ^ (8 * n)

/-- The launch that a packet asks for. -/
def Launch.ofPacket (p asid queue prio part seq : Nat) : Launch :=
  let sh := pktField p 12 4
  let res := pktField p 18 1
  { (default : Launch) with
    phase := 1, asid := asid, queue := queue, prio := prio, part := part, seq := seq, kwords := pktField p 2 2, codeH := pktField p 4 4,
    codeOff := pktField p 8 4, ngang := bitsOf sh 4 0 + 1, nblk := bitsOf sh 12 5 + 1, nclu := bitsOf sh 14 13 + 1, nstk := bitsOf sh 18 15 + 1,
    blkmem := 128 * pktField p 16 2, swizzle := bitsOf res 2 0, regs := 16 * 2 ^ bitsOf res 4 3, slabs := pktField p 19 1,
    stack := 4 * pktField p 20 2, ageCap := pktField p 22 2, doneH := pktField p 48 4, doneO := pktField p 52 4, sigH := pktField p 56 4,
    sigO := pktField p 60 4, args := (List.range 16).map (fun k => BitVec.ofNat 32 (pktField p (64 + 4 * k) 4)) }

/-- A field of a packet is invalid (R386, R388). -/
def pktBad (p : Nat) : Bool :=
  let sh := pktField p 12 4
  let res := pktField p 18 1
  pktField p 0 1 != 1 || 16 ≤ pktField p 1 1 || pktField p 8 4 % 12 != 0 || pktField p 2 2 == 0 || bitsOf sh 31 19 != 0 ||
    decide (2048 < pktField p 16 2) || bitsOf res 7 5 != 0 || bitsOf res 4 3 == 3 || decide (16 < pktField p 19 1) ||
    decide (256 < pktField p 20 2) || decide (pktField p 22 2 < 16) || decide (1024 < pktField p 22 2) || bitsOf res 2 0 == 7

def exceptKind {α : Type} (x : Except Nat α) : Option Nat := match x with | .ok _ => none | .error k => some k

/-- `CheckPacket` (R388): the KIND of a refusal, the handles first. -/
def State.checkPacket (s : State) (p : Nat) (l : Launch) : Option Nat :=
  let flags := pktField p 1 1
  let part := kget s.parts l.part
  let kinds : List (Option Nat) :=
    [exceptKind (s.checkIdx l.asid l.codeH l.codeOff (12 * l.kwords) rightC [kindBulk] 1),
     exceptKind (s.checkIdx l.asid l.doneH l.doneO 32 rightW [kindTiled] 32),
     if flags / 2 % 2 = 1 then exceptKind (s.checkIdx l.asid (pktField p 24 4) (pktField p 28 4) 8 rightA [kindTiled] 8) else none,
     if flags / 4 % 2 = 1 then exceptKind (s.checkIdx l.asid (pktField p 40 4) (pktField p 44 4) 4 rightR [kindTiled] 4) else none,
     if l.sigH ≠ 0xFFFFFFFF then exceptKind (s.checkIdx l.asid l.sigH l.sigO 8 rightA [kindTiled] 8) else none,
     if pktBad p then some 0x11 else none,
     if !CoreRoom.empty.fits l.need || !instanceFits l.need l.nblk (List.replicate 4 CoreRoom.empty) ||
        decide ((maskBits part.mask).length < l.nstk) then some 0x10 else none]
  kinds.findSome? id

/-- The DEP wait of a packet is over (R388): a counter that cannot be read is left to the packet's check. -/
def State.depMet (s : State) (p asid : Nat) : Bool × State :=
  if pktField p 1 1 / 2 % 2 = 0 then (true, s)
  else match s.checkIdx asid (pktField p 24 4) (pktField p 28 4) 8 rightA [kindTiled] 8 with
    | .error _ => (true, s)
    | .ok e =>
      match s.schedLoc asid e (pktField p 28 4) with
      | (none, s) => (true, s)
      | (some l, s) =>
        let (x, s) := s.schedRead l 8 e
        (decide (pktField p 32 8 ≤ x), s)

/-- The condition word of a packet says to skip it (R388, R389); one that cannot be read is left to the packet's check. -/
def State.condSkips (s : State) (p asid : Nat) : Bool × State :=
  let flags := pktField p 1 1
  if flags / 4 % 2 = 0 then (false, s)
  else match s.checkIdx asid (pktField p 40 4) (pktField p 44 4) 4 rightR [kindTiled] 4 with
    | .error _ => (false, s)
    | .ok e =>
      match s.schedLoc asid e (pktField p 44 4) with
      | (none, s) => (false, s)
      | (some l, s) =>
        let (x, s) := s.schedRead l 4 e
        ((x != 0) == (flags / 8 % 2 == 1), s)

/-- The launches that a packet has waited on through BARRIER, or through a counter that their signals advanced, with those that they waited
on themselves (R392). -/
def State.waitedOn (s : State) (p asid q : Nat) : List Nat :=
  let flags := pktField p 1 1
  let place := fun (a h o : Nat) => match s.bufEnt a (h % 2 ^ 16) with | some e => s.bufLoc a e o | none => none
  let dep := if flags / 2 % 2 = 1 then place asid (pktField p 24 4) (pktField p 28 4) else none
  let direct := s.launches.filter (fun kv => kv.2.phase == 3 &&
    ((flags % 2 == 1 && kv.2.queue == q) || (dep.isSome && kv.2.sigH != 0xFFFFFFFF && place kv.2.asid kv.2.sigH kv.2.sigO == dep)))
  ((direct.map (fun kv => kv.1 :: kv.2.after)).flatten).eraseDups

/-- The buffers that a packet names, by index: its code, DONE, DEP, COND and SIG (R386). -/
def pktHandles (p : Nat) : List Nat :=
  let flags := pktField p 1 1
  [pktField p 4 4, pktField p 48 4] ++ (if flags / 2 % 2 = 1 then [pktField p 24 4] else []) ++
    (if flags / 4 % 2 = 1 then [pktField p 40 4] else []) ++ (if pktField p 56 4 = 0xFFFFFFFF then [] else [pktField p 56 4])

/-- A packet whose waits are over is taken: HEAD passes it; it is skipped, refused, or becomes a launch. -/
def State.takePacket (s : State) (q d p : Nat) : State :=
  let l := Launch.ofPacket p (qAsid d) q (qPrio d) (qPart d) (qHead d)
  let s := s.tableWrite (s.qaddr q + 56) 4 ((qHead d + 1) % 2 ^ 32)
  let (skip, s) := s.condSkips p (qAsid d)
  if skip then (s.report l 2 0).releaseSlot q
  else match s.checkPacket p l with
    | some kind => (s.report l 3 kind).releaseSlot q
    | none =>
      let (id, s) := s.fresh
      s.setLaunch id { l with after := s.waitedOn p (qAsid d) q, ring := some (q, qHead d) }

/-- The hardware slot whose turn it is: the mapped one after the one examined last (R388). -/
def State.nextTurn (s : State) : Option Nat :=
  match s.hwslots.find? (fun kv => decide (s.turn < kv.1)) with
  | some kv => some kv.1
  | none => s.hwslots.head?.map Prod.fst

/-- The head packet of a queue that holds a slot is examined (R388). -/
def State.examine (s : State) (q : Nat) : State :=
  let s := s.readTable (s.qaddr q) 64
  let d := s.qdesc q
  let stop := fun (s : State) (kind : Nat) =>
    let s := { s with queues := kmod s.queues q (fun x => { x with stop := some (d % 2 ^ 448) }) }
    (s.post 0 { type := 1, kind := kind, seq := 0, asid := qAsid d, core := 0, gang := 0, pc := 0, lanes := 0, handle := qRing d,
                path := 0, src := 0, code := q, off := 0 }).2
  -- one that cannot be read stops its queue as a ring that fails its check does (DESIGN CHOICE, log 142)
  if s.tableBad (s.qaddr q) 64 then (if (kget s.queues q).stop = some 0 then s else stop s fkUncorr)
  else
  -- a descriptor is rewritten while VALID is clear (R383)
  let s := if qValid d then s else { s with queues := s.queues.map (fun kv => if kv.1 = q then (kv.1, { kv.2 with stop := none }) else kv) }
  if !qValid d || qCount d == 0 || s.partShut (qPart d) || s.queueStopped q then s
  else
    let s := s.readEnt (qAsid d) (qRing d)
    match s.checkRing d rightR (qHeadSlot d) with
    | .error kind => stop s kind
    | .ok e =>
      let (p, s) := s.schedWords (qAsid d) e (128 * qHeadSlot d) 16
      if pktField p 1 1 % 2 = 1 ∧ s.queueBusy q then s
      else
        let s := (pktHandles p).foldl (fun s h => s.readEnt (qAsid d) (h % 2 ^ 16)) s
        let (met, s) := s.depMet p (qAsid d)
        if met then s.takePacket q d p else s

/-- QUEUE_EXAMINE (R388): the head packet of the slot whose turn it is. -/
def execQueueExamine (hwslot : Nat) (s : State) : Out :=
  .next (match kfind s.hwslots hwslot with
    | none => s
    | some h => if !s.isReady || s.nextTurn != some hwslot then s else { s with turn := hwslot }.attempt (fun s => s.examine h.queue))

/-- SLICE_EXPIRY (R395): the slice of a queue with blocks on the core is over: SLICE µs of wall time, at the controllers' 1.25 GHz. -/
def execSliceExpiry (core queue : Nat) (s : State) : Out :=
  let c := s.core core
  .next (if (s.activeBlocks core).any (fun kv => (s.launch kv.2.launch).queue == queue) &&
      decide (kget c.slices queue + 1250 * qSlice (s.qdesc queue) ≤ s.mcNow (32 * (core / 16))) then
      s.modCore core (fun c => { c with expired := if c.expired.contains queue then c.expired else c.expired ++ [queue] })
    else s)

/-! ## `qlaunch` (R393, R394) -/

/-- The scheduler's step of `qlaunch`: the status word. A descriptor that cannot be read fails it with UNCORR (DESIGN CHOICE, log 142). -/
def State.enqueue (s : State) (asid q p : Nat) : Word × State :=
  let s := s.readTable (s.qaddr q) 64
  let d := s.qdesc q
  if s.tableBad (s.qaddr q) 64 then (BitVec.ofNat 32 (3 + 256 * fkUncorr), s)
  else if !qValid d || qAsid d != asid || !qDevq d then (2, s)
  else
    let s := s.readEnt asid (qRing d)
    match s.checkRing d rightW (qTailSlot d) with
    | .error f => (BitVec.ofNat 32 (3 + 256 * f), s)
    | .ok e =>
      if qCount d = 2 ^ qRingN d then (1, s)
      else
        let s := s.schedStore asid (qRing d) e (128 * qTailSlot d) 16 p
        ((0, (s.tableWrite (s.qaddr q + 60) 4 ((qTail d + 1) % 2 ^ 32)).ring q))

/-- The stores that a gang has released come before the accesses of the launch that it enqueues at a place of a ring, and so do its copies
that have completed and its posts that are over (R394). -/
def State.markKids (s : State) (gid : Nat) (at_ : Nat × Nat) : State :=
  let ended := fun (g : Lag) => match g.from_ with
    | .t | .b => true
    | .c => s.copies.all (fun kv => kv.2.serial != g.req || kv.2.complete)
    | .x => (kfind s.posts g.req).isNone
  { s with lags := s.lags.map (fun g => if g.gid == gid && ended g then { g with kids := g.kids ++ [at_] } else g) }

/-- `qlaunch` (R394): the packet is read at issue; the gang's stores are released and acknowledged before the scheduler takes it. -/
def execQlaunch (f : Fields) (s : State) : Out :=
  let i := Instr.qlaunch f
  let e := s.execLanes f
  let gid := s.cur.gid
  let g := s.gang gid
  let r := s.view
  let l := lowLane e
  let ids := g.taintLoads (g.waitTaint i e)
  let fromBlk := f.slot == 0
  let off := (s.readReg r l 0 f.b).toNat
  if e = 0 then .next s.retire
  else if s.cur.stage = 0 ∧ !ids.isEmpty then .next ((s.hold e (.loads ids) 1 i).latchClk i e)
  else if s.cur.stage < 2 ∧ fromBlk ∧ (off % 128 ≠ 0 ∨ (s.block g.block).blkmem < off + 128) then .next (s.illop gid s.cur.pc e)
  else
    let s := if s.cur.stage < 2 ∧ fromBlk then
        ((s.bankFlush ((lanesOf e).map (fun l => (g.thread l).tid)) g.block off 128).meetWords (.blk g.block off) 128 false).observeRecord gid
          (.blk g.block off) 128
      else s
    let p := if 2 ≤ s.cur.stage then s.cur.pkt
      else if fromBlk then s.peekN (.blk g.block off) 128
      else (List.range 32).foldl (fun x k => x + (s.readReg r l k f.b).toNat * 2 ^ (32 * k)) 0
    let s := if s.cur.stage < 2 then { s.release gid with cur := { s.cur with pkt := p } } else s
    if s.cur.stage < 2 ∧ !(s.gang gid).out.isEmpty then .next ((s.hold e .stores 2 i).latchClk i e)
    else
      let q := (s.readReg r l 0 f.a).toNat % 2 ^ 16
      let (st, s') := { s with stuck := false }.enqueue (s.launchOf gid).asid q p
      let s' := if st = 0 then s'.markKids gid (q, qTail (s.qdesc q)) else s'
      -- the scheduler takes it once its accesses can be made
      if s'.stuck then .next ((s.hold e .none 2 i).latchClk i e)
      else .next (({ s' with stuck := s.stuck }.result i e st).latchClk i e).retire

end Sys2Proof.Machine
end

