-- ==== Sys2Proof/Machine/Tray.lean ====
section
/-! DEFINITION. The Tray (R214 to R218, R328, R361, R396): the decision to switch, the load of an incoming context into the shadow
bank, the switch, and the spill of the outgoing context. The layout of an image the spec does not give and no program reaches it, so a
saved context stays in its records, and the bytes of its image are undefined (log 116). -/

namespace Sys2Proof.Machine

/-! ## Images (R216) -/

/-- The slabs that are spilled at a switch (R181). -/
def State.spillMask (s : State) (b : Nat) : Nat :=
  let k := s.block b
  let gs := (k.gangs.map s.gang).filter (fun g => g.live)
  let all := 2 ^ k.slabs - 1
  if gs.all (fun g => g.ppValid) then (gs.foldl (fun m g => m ||| g.ppMask.toNat) 0) &&& all else all

/-- The bytes of a block's image. -/
def State.imageSize (s : State) (b : Nat) : Nat :=
  let k := s.block b
  let gs := (k.gangs.map s.gang).filter (fun g => g.live)
  let gran := (gs.map (fun g => g.nb / 16 + (if g.ext = .held ∨ g.ext = .clearing then 2 ^ g.extK else 0))).sum
  let slabs := ((List.range 16).filter (fun q => (s.spillMask b).testBit q)).length
  (2048 * gran + 16384 * slabs + 64 + k.memSize + 4096 * gs.length + 4096 + 65535) / 65536 * 65536

/-- The ASID of a block. -/
def State.asidOf (s : State) (b : Nat) : Nat := (s.launch (s.block b).launch).asid

/-- The bytes of an ASID's save area, and those in use; a context that is not valid has none (R402). -/
def State.saveArea (s : State) (asid : Nat) : Nat := if s.ctxValid asid then 2 ^ 24 * s.hbmRead (s.ctxAddr asid + 14) 2 else 0
def State.saveUsed (s : State) (asid : Nat) : Nat :=
  (s.blocks.map (fun kv =>
    if kv.2.live && (kv.2.where_ == .saved || kv.2.where_ == .shadowOut) && s.asidOf kv.1 == asid then kv.2.image else 0)).sum

/-- The key slot under which images of an ASID are written (R216, R402). -/
def State.saveKey (s : State) (asid : Nat) : Nat := s.hbmRead (s.ctxAddr asid + 12) 1

/-- Every image of a core's resident blocks fits the free space of its ASID's area; an ASID with no area, or with a key under which nothing
can be written any more (R409; DESIGN CHOICE, log 139), is never switched out. -/
def State.imagesFit (s : State) (core : Nat) : Bool :=
  let out := (s.activeBlocks core).map (fun kv => (s.asidOf kv.1, s.imageSize kv.1))
  out.all (fun x =>
    decide (s.saveUsed x.1 + ((out.filter (fun y => y.1 == x.1)).map Prod.snd).sum ≤ s.saveArea x.1) && s.saveArea x.1 != 0 &&
      !(kget s.keys (s.saveKey x.1)).spent)

/-! ## The decision (R395, R396) -/

/-- A block's effective class. -/
def State.blockClass (s : State) (b : Nat) : Nat :=
  (((s.block b).gangs.filter (fun g => (s.gang g).live)).map s.effClass).foldl max (s.launch (s.block b).launch).prio

/-- The highest class resident on a core, as one more than it, or 0 on an empty core. -/
def State.topClass (s : State) (core : Nat) : Nat := ((s.activeBlocks core).map (fun kv => s.blockClass kv.1 + 1)).foldl max 0

/-- Every slice on the core of a queue with resident blocks has expired. -/
def State.slicesOver (s : State) (core : Nat) : Bool :=
  (s.activeBlocks core).all (fun kv => (s.core core).expired.contains (s.launch kv.2.launch).queue)

/-- A block of class `cls` may displace what is resident on a core. -/
def State.mayDisplace (s : State) (core cls : Nat) : Bool :=
  let top := s.topClass core
  (decide (top < cls + 1) || (top == cls + 1 && s.slicesOver core)) && s.imagesFit core

/-- The core that is switched for a block of class `cls` among those it may take. -/
def State.switchCore (s : State) (cls : Nat) (cores : List Nat) : Option Nat :=
  (cores.filter (fun c => s.mayDisplace c cls)).foldl (fun best c => match best with
    | none => some c
    | some b => if s.topClass c < s.topClass b then some c else some b) none

/-- A switched-out block may resume on a core (R169, R218, R358, R368, R385): one of the stack group that its partition gives its `sp.stk`, the
cluster that holds a named barrier of its gangs, its own core while a copy of it is not complete (R290), an armed `mma` of it is left to be
issued (R215) or packets of it are filed there, and the stack group of its open cursors; its queue holds a slot. -/
def State.mayResume (s : State) (b core : Nat) : Bool :=
  let k := s.block b
  let named := s.clusters.any (fun kv => kv.2.bars.any (fun r => k.gangs.any (fun g => r.2.attached.contains g)))
  let l := s.launch k.launch
  let copies := s.copies.any (fun kv => kv.2.block == b && !kv.2.complete)
  let armed := let c := s.core k.core
    (c.armed.map (fun a => a.mma) ++ c.ready).any (fun m => m.block == b)
  let cursor := s.cursors.any (fun kv => kv.2.block == b)
  (s.slotOf l.queue).1 != 64 && (maskBits (kget s.parts l.part).mask)[k.stk]? == some (core / 16) && (!named || core / 4 == k.core / 4) && (!(copies || armed || s.filedIn b) || core == k.core) && (!cursor || core / 16 == k.core / 16)

/-- What a block with its gangs takes of a core. -/
def State.blockNeed (s : State) (b : Nat) : CoreRoom :=
  let k := s.block b
  let gs := (k.gangs.map s.gang).filter (fun g => g.live)
  { gran := (gs.map (fun g => g.nb / 16 + (if g.ext = .held ∨ g.ext = .clearing then 2 ^ g.extK else 0))).sum, gangs := gs.length,
    mem := k.memSize, slabs := k.slabs, bars := 1 }

/-- Blocks of a core at a place of its shadow bank. -/
def State.shadowBlocks (s : State) (core : Nat) (w : Resides) : List Nat :=
  (s.blocks.filter (fun kv => kv.2.live && kv.2.core == core && kv.2.where_ == w)).map Prod.fst

/-- The shadow bank has room for one more block. -/
def State.shadowRoom (s : State) (core b : Nat) : Bool :=
  let used := (s.shadowBlocks core .shadowIn).map s.blockNeed
  (used.foldl CoreRoom.less { CoreRoom.empty with mem := CoreRoom.empty.mem - (used.map (fun u => u.mem)).sum }).fits (s.blockNeed b) &&
    decide (((used.map (fun u => u.mem)).sum) + (s.blockNeed b).mem ≤ 2 ^ 18)

/-- Switched-out block `a` resumes before `b`. -/
def State.resumesFirst (s : State) (a b : Nat) : Bool :=
  let ca := s.blockClass a
  let cb := s.blockClass b
  decide (cb < ca) || (ca == cb && decide ((s.block a).outAt < (s.block b).outAt))

/-- CONTEXT_LOAD (R396): the first switched-out block that the core may take is loaded into the core's empty shadow bank, or beside
the context that is loaded there. -/
def execContextLoad (core block : Nat) (s : State) : Out :=
  let k := s.block block
  let saved := (s.blocks.filter (fun kv => kv.2.live && !kv.2.ending && kv.2.where_ == .saved && s.mayResume kv.1 core)).map Prod.fst
  let beside := !(s.shadowBlocks core .shadowIn).isEmpty
  let cores := (List.range 192).filter (fun c => s.mayResume block c && (s.shadowBlocks c .shadowOut).isEmpty)
  .next (if !k.live || k.where_ ≠ .saved || !saved.contains block || saved.any (fun b => b != block && s.resumesFirst b block) ||
      !(s.shadowBlocks core .shadowOut).isEmpty || !s.shadowRoom core block ||
      (!beside && s.switchCore (s.blockClass block) cores != some core) then s
    else s.modBlock block (fun k => { k with where_ := .shadowIn, core := core }))

/-- A launch with an instance that no cluster of its stack group takes as it is waits for this core (R390, R396). -/
def State.launchWaits (s : State) (core : Nat) : Bool :=
  s.launches.any (fun kv =>
    let l := kv.2
    let part := kget s.parts l.part
    if l.phase ≠ 1 || part.down || (s.slotOf l.queue).1 == 64 then false
    else match (maskBits part.mask)[l.nextInst / max 1 l.nclu]? with
      | none => false
      | some sg =>
        ((List.range 4).map (4 * sg + ·)).all (fun cl => (s.addInstance kv.1 cl 0 0 l.nblk).isNone) &&
          s.switchCore l.prio ((List.range 16).map (16 * sg + ·)) == some core)

/-! ## The switch (R195, R214, R218, R328) -/

/-- The array has completed every `mma` that gangs of the core's blocks issued (R328). What the copy engine has not offered yet stays with it. -/
def State.arrayDone (s : State) (core : Nat) : Bool :=
  let c := s.core core
  let out := (s.activeBlocks core).map Prod.fst
  (c.mmaQ ++ c.mmaRun.toList).all (fun m => !out.contains m.block)

/-- A `waddr` wait gives up its monitor entry. -/
def Wait.unwatch (w : Wait) : Wait := match w with | .waddr x => .waddr { x with entry := false } | w => w

/-- A gang leaves the active bank (R195): every write that its core is to complete completes, and its STALL and its starvation counter are over.
Its saved stack carries no taint (R215, R217), not in words that nothing has written either. -/
def State.gangOut (s : State) (gid : Nat) : State :=
  (s.clearLast gid).modGang gid (fun g =>
    { g.modLanes (BitVec.allOnes 32) (fun t => { t with wait := t.wait.unwatch, savedWait := t.savedWait.unwatch }) with
      active := false, base := none, pend := g.pend.filter (fun p => p.done.isNone), stallTo := 0, starve := 0, spTaint := []
      ext := if g.ext = .held ∨ g.ext = .none then g.ext else .queued })

/-- The units of 64 KiB of an ASID's save area that no image holds (R216). -/
def State.freeUnits (s : State) (asid : Nat) : List Nat :=
  let used := (s.blocks.map (fun kv =>
    if kv.2.live && (kv.2.where_ == .saved || kv.2.where_ == .shadowOut) && s.asidOf kv.1 == asid then kv.2.imageAt else [])).flatten
  (List.range (s.saveArea asid / 65536)).filter (fun u => !used.contains u)

/-- A block leaves the active bank. -/
def State.blockOut (s : State) (b : Nat) : State :=
  let k := s.block b
  let image := s.imageSize b
  let mask := s.spillMask b
  let c := s.core k.core
  let units := (s.freeUnits (s.asidOf b)).take (image / 65536)
  let left := ((c.clearQ.filter (fun x => x.kind == 0 && x.owner == b)).map (fun x => x.left)).sum
  let (n, s) := s.fresh
  let s := k.gangs.foldl (fun s gid => if (s.gang gid).live then s.gangOut gid else s) s
  let s := s.modCore k.core (fun c => { c with
    allocs := c.allocs.filter (fun a => !k.gangs.contains a.gid), allocQ := c.allocQ.filter (fun a => !k.gangs.contains a.gid)
    clearQ := c.clearQ.filter (fun x => if x.kind = 0 then x.owner != b else !k.gangs.contains x.owner) })
  s.modBlock b (fun k => { k with where_ := .shadowOut, outAt := n, image := image, imageAt := units, spilled := mask, slabDue := k.slabDue + left })

/-- Allocates granules of an incoming gang, larger blocks first. What was not cleared yet is cleared now; what was held is as it was. -/
def State.reallocate (s : State) (core : Nat) (a : Alloc) : State :=
  let g := s.gang a.gid
  match findGranules (s.core core).allocs a.size with
  | none => s
  | some start =>
    if a.ext || g.cleared then
      let s := s.modCore core (fun c => { c with allocs := c.allocs ++ [{ a with start := start }] })
      s.modGang a.gid (fun g => if a.ext then { g with extBase := start } else { g with base := some start })
    else s.grant core a start

/-- A `waddr` wait that resumes registers again (R218); one that stands is read again. -/
def State.rewatch (s : State) (gid lane : Nat) : Option (Nat × WaddrWait) × State :=
  let g := s.gang gid
  let t := g.thread lane
  let ms := s.monitors g.core
  let again := fun (w : WaddrWait) =>
    { w with entry := ms.contains (w.loc, w.wide) || decide (ms.length < 64), next := s.now g.core + 128 }
  match t.st, t.wait, t.savedWait with
  | .waiting, .waddr w, _ =>
    let w := { again w with fresh := true }
    (some (lane, w), s.modGang gid (fun g => g.modThread lane (fun t => { t with wait := .waddr w })))
  | _, _, .waddr w => (none, s.modGang gid (fun g => g.modThread lane (fun t => { t with savedWait := .waddr (again w) })))
  | _, _, _ => (none, s)

/-- A gang takes its place on the active bank and behaves as if it had executed `phase.acq`; words that its threads wait on in `waddr` are read
once (R218). -/
def State.gangIn (s : State) (core gid : Nat) : State :=
  let place := s.newPlace core
  let s := s.modGang gid (fun g => { g with active := true, core := core, place := place, placedAt := s.now core })
  let s := s.acquire gid
  let (ws, s) := (List.range 32).foldl (fun (acc : List (Nat × WaddrWait) × State) l =>
    let (w, s) := acc.2.rewatch gid l
    (acc.1 ++ w.toList, s)) (([], s) : List (Nat × WaddrWait) × State)
  (s.readAgain gid ws).drainAcks gid (s.gang gid).acks.length

/-- The shadow's context takes the active bank. -/
def State.contextIn (s : State) (core : Nat) (bs : List Nat) : State :=
  let gs := ((bs.map (fun b => (s.block b).gangs)).flatten).filter (fun g => (s.gang g).live)
  let s := bs.foldl (fun s b =>
    let holes := s.memHoles core (s.block b).memSize
    let (k, s) := s.choose holes.length
    s.modBlock b (fun x => { x with where_ := .active, core := core, memBase := holes.getD k 0 })) s
  let s := ((bs.map (fun b => (s.launch (s.block b).launch).queue)).eraseDups).foldl (fun s q => s.startSlice core q) s
  let s := gs.foldl (fun s g => s.gangIn core g) s
  let wants : List Alloc := (gs.map (fun gid =>
    let g := s.gang gid
    [{ gid := gid, ext := false, start := 0, size := g.nb / 16 }] ++
      (if g.ext = .held then [{ gid := gid, ext := true, start := 0, size := 2 ^ g.extK : Alloc }] else []))).flatten
  let s := [8, 4, 2, 1].foldl (fun s n => (wants.filter (fun a => a.size == n)).foldl (fun s a => s.reallocate core a) s) s
  let asks : List Alloc := (gs.filter (fun gid => (s.gang gid).ext == .queued)).map (fun gid =>
    { gid := gid, ext := true, start := 0, size := 2 ^ (s.gang gid).extK })
  iter (fun s => s.refill core) 4 (s.modCore core (fun c => { c with allocQ := c.allocQ ++ asks }))

/-- TRAY_SWITCH (R214): the resident context of a core and that of its shadow bank change places; 96 cycles pass in which no slot of
the core issues. -/
def execTraySwitch (core : Nat) (s : State) : Out :=
  let incoming := s.shadowBlocks core .shadowIn
  let cls := (incoming.map s.blockClass).foldl max 0
  .next (if !(s.shadowBlocks core .shadowOut).isEmpty || !s.arrayDone core ||
      (if incoming.isEmpty then !s.launchWaits core else !s.mayDisplace core cls) then s
    else
      let s := ((s.activeBlocks core).map Prod.fst).foldl (fun s b => s.blockOut b) s
      let s := s.modCore core (fun c => { c with frozen := s.now core + 96, expired := [] })
      s.contextIn core incoming)

/-- A page of the save area is written (R216), with undefined bytes, under the ASID's DEFKEY: false where that key is spent, or its
re-encryption spends it (R409). -/
def State.savePage (s : State) (asid page key : Nat) : Bool × State :=
  let pa := page * 4096
  let s := if s.minorFull [(pa, 4096)] then (s.modPage pa (fun p => { p with key := key })).reencrypt page else s
  let n := kget s.undefs asid
  let bytes : Sparse 8 := (List.range 4096).map (fun k => (k, (Config.freeBits asid (n + k / 16) >>> (8 * (k % 16))).setWidth 8))
  if (kget s.keys key).spent then (false, s)
  else if !hbmExists pa then (true, s)
  else (true, (({ s with undefs := kset s.undefs asid (n + 256) }.putTileMem page (bytes.filter (fun kb => kb.2 != 0))).touchLines pa 4096 key).chanTake
    noQueue pa 4096)

/-- The pages of the save area that hold the image of a block, at SAVEBASE (R216, R402). -/
def State.imagePages (s : State) (b : Nat) : List Nat :=
  let base := s.hbmRead (s.ctxAddr (s.asidOf b) + 120) 8
  ((s.block b).imageAt.map (fun u => (List.range 16).map (fun k => (base + 65536 * u) / 4096 + k))).flatten

/-- Writes of an image may be made: no page of it is being encrypted again, and their channels are free (R403, R408). -/
def State.imageOpen (s : State) (b : Nat) : Bool :=
  (s.imagePages b).all (fun p => s.pageTurn (p * 4096) none && s.chanOpen noQueue (p * 4096) 4096)

/-- The image of a block is written to its units of the save area (R216, R402), under ECC grade S: whether all of it was. -/
def State.saveImage (s : State) (b : Nat) : Bool × State :=
  let asid := s.asidOf b
  let key := s.saveKey asid
  (s.imagePages b).foldl (fun (acc : Bool × State) p =>
    if acc.1 then { acc.2 with grades := sset acc.2.grades (p / 16) 0 }.savePage asid p key else acc) (true, s)

/-- A slab that is not spilled is undefined (R181), its configuration apart. -/
def State.loseSlab (s : State) (b q : Nat) : State :=
  let x := kget (s.block b).slab q
  let (y, s) := s.undefSlab (s.asidOf b) { x with rows := 32, rbytes := 512 }
  s.modSlab b q (fun _ => { x with data := y.data, flaw := 0 })

/-- A block of the shadow bank still has work in flight (R215, R361): loads, accesses at the banks, copies into block memory and slabs, and
bag instructions. -/
def State.spillWaits (s : State) (b : Nat) : Bool :=
  let k := s.block b
  k.gangs.any (fun gid => (s.gang gid).loads.any (fun l => l.tag != 18)) ||
    s.reqs.any (fun r => r.kind != .waddr && (match r.words with | some (c, _) => c == b | none => false)) ||
    s.copies.any (fun kv => kv.2.block == b && !kv.2.complete && kv.2.dst.sort != 1) ||
    s.bagOps.any (fun kv => k.gangs.contains kv.2.gid)

/-- BACKGROUND_SPILL (R215, R216, R361): a block of the shadow bank is saved once its work has landed and its image can be written. One whose
key is spent cannot be: a FAULT record of KEYEXH says so, and the block stays in the shadow bank (R409; DESIGN CHOICE, log 139). -/
def execBackgroundSpill (core : Nat) (s : State) : Out :=
  .next ((s.shadowBlocks core .shadowOut).foldl (fun s b =>
    if s.spillWaits b || !s.imageOpen b then s
    else match s.saveImage b with
      | (false, s) => s.postFault core fkKeyExh (s.asidOf b) 0 0 0 0 0
      | (true, s) =>
        let k := s.block b
        let s := (List.range k.slabs).foldl (fun s q => if k.spilled.testBit q then s else s.loseSlab b q) s
        s.modBlock b (fun k => { k with where_ := .saved })) s)

end Sys2Proof.Machine
end

