-- ==== Sys2Proof/Machine/Platform.lean ====
section
/-! DEFINITION. The platform (R400 to R414, R207, R368): the fault-record ring, management registers, keys, translation
invalidation, partitions, boot, attestation, the supply and the margins. -/

namespace Sys2Proof.Machine

/-! ## The fault-record ring (R207, R410) -/

/-- A record's 32 bytes, as a number. -/
def Frec.bits (r : Frec) : Nat :=
  r.type % 2 ^ 8 + 2 ^ 8 * (r.kind % 2 ^ 8) + 2 ^ 16 * (r.seq % 2 ^ 16) + 2 ^ 32 * (r.asid % 2 ^ 10) + 2 ^ 48 * (r.core % 2 ^ 8) +
    2 ^ 56 * (r.gang % 2 ^ 8) + 2 ^ 64 * r.pc.toNat + 2 ^ 96 * r.lanes.toNat + 2 ^ 128 * (r.handle % 2 ^ 16) + 2 ^ 144 * (r.path % 2 ^ 8) +
    2 ^ 152 * (r.src % 2 ^ 8) + 2 ^ 160 * (r.code % 2 ^ 32) + 2 ^ 192 * (r.off % 2 ^ 64)

/-- The ring is enabled. -/
def State.ringOn (s : State) : Bool := decide (6 ≤ (s.mg 0x0080).toNat) && decide ((s.mg 0x0080).toNat ≤ 20)

/-- FAULT_RECORD_POST (R410): the oldest record of a core is written to the ring once the ring is enabled and has room. -/
def execFaultRecordPost (core : Nat) (s : State) : Out :=
  let tail := s.mg 0x007C
  let n := 2 ^ (s.mg 0x0080).toNat
  .next (match (s.core core).recQ with
    | [] => s
    | r :: rest =>
      if !s.ringOn || (tail - s.mg 0x0078).toNat == n then s
      else
        let s := s.modCore core (fun c => { c with recQ := rest })
        ({ s with host := memWrite s.host (s.mg64 0x0070 + 32 * (tail.toNat % n)) 32 r.bits }).setMg 0x007C (tail + 1))

/-! ## Management registers (R6, R400, R401) -/

/-- The base offsets of the 64-bit registers with no behaviour of their own. -/
def mgWide (off : Nat) : Bool :=
  [0x0010, 0x0018, 0x0040, 0x0048, 0x0058, 0x0060, 0x0068, 0x0438].contains off ||
    (List.range 48).any (fun c => off == clusterMg c 0x0900 || off == clusterMg c 0x0908)

/-- The bits that a write sets of a 32-bit register with no behaviour of its own; none where a write is ignored. -/
def mgMask (off : Nat) : Option Word :=
  if off = 0x0078 then some 0xFFFFFFFF
  else if 0x0100 ≤ off ∧ off < 0x01C0 then
    match off % 16 with | 0 => some 0x80FF00FF | 4 | 8 => some 0xFFFFFFFF | _ => none
  else if off = 0x0200 ∨ off = 0x0504 then some 0xFFFFFFFF
  else if 0x0300 ≤ off ∧ off < 0x0320 ∨ 0x0400 ≤ off ∧ off < 0x0430 then some 0xFFFFFFFF
  else if 0x0600 ≤ off ∧ off < 0x0630 then some 0x00000FFF
  else if 0x00100000 ≤ off ∧ off < 0x00130000 then
    match off % 0x1000 with | 0x0800 => some 0x8000FF1F | 0x0804 | 0x0808 => some 0xFFFFFFFF | _ => none
  else if 0x00200000 ≤ off ∧ off < 0x002C0000 ∧ 0x0500 ≤ off % 0x1000 ∧ off % 0x1000 < 0x0540 then
    (if off % 16 = 0 then some 0x000033FF else some 0xFFFFFFFF)
  else none

/-- The write of one half of a 64-bit register: the high word commits the value (R400). -/
def State.setWide (s : State) (base : Nat) (high : Bool) (x : Word) : State :=
  if high then (s.setMg base (sget s.mgLow base)).setMg (base + 4) x else { s with mgLow := sset s.mgLow base x }

/-- The cycles before a write of HOT.CTL count under the DECAY that stood in it (R244). -/
def State.settleCtl (s : State) (off : Nat) : State :=
  if 0x00100000 ≤ off ∧ off < 0x00130000 ∧ off % 0x1000 = 0x0800 then s.hotSettle ((off - 0x00100000) / 0x1000) else s

/-- MGMT_REGISTER_WRITE (R400, R401): a host write of a register that has no behaviour of its own; until READY only the RECOV
registers take one. XLAT.INV takes one while no invalidation runs, and one with [31] set starts one; a KEY.CMD whose OP is 10 or 11 writes
SLOT alone (R407). -/
def execMgmtRegisterWrite (off value : Nat) (s : State) : Out :=
  let x := BitVec.ofNat 32 value
  let base := off / 8 * 8
  .next (if off % 4 != 0 || (!s.isReady && !(decide (0x0010 ≤ off) && decide (off < 0x0020))) then s
    else if mgWide base then s.setWide base (off % 8 == 4) x
    else if off = 0x00F0 then (if (s.mg 0x00F0).getLsbD 31 then s else s.setMg 0x00F0 (x &&& 0x800003FF))
    else if off = 0x0320 then (if x.getLsbD 31 then s.setMg 0x0320 (x &&& 0x000000FF) else s)
    else match mgMask off with
      | some m => (s.settleCtl off).setMg off (x &&& m)
      | none => s)

/-- CORE_POLICY_WRITE (R190): 00 or 01 is the core's policy from the next cycle on; 10 and 11 are ignored. -/
def execCorePolicyWrite (core value : Nat) (s : State) : Out :=
  let old := s.mg (coreMg core 0)
  .next (if !s.isReady || 192 ≤ core || 2 ≤ value % 4 then s
    else (s.modCore core (fun c => { c with
      polOld := if c.polAt = some (s.now core) then c.polOld else old, polAt := some (s.now core) })).setMg (coreMg core 0) (BitVec.ofNat 32 (value % 4)))

/-- FREC_CONFIG_WRITE (R410): FREC.BASE and FREC.SIZE change only while the ring is disabled or empty; FREC.SIZE empties it. -/
def execFrecConfigWrite (off value : Nat) (s : State) : Out :=
  let x := BitVec.ofNat 32 value
  let free := !s.ringOn || s.mg 0x0078 == s.mg 0x007C
  .next (if !s.isReady then s
    else match off with
      | 0x0070 => s.setWide 0x0070 false x
      | 0x0074 => if free then s.setWide 0x0070 true x else s
      | 0x0080 => if free then ((s.setMg 0x0080 x).setMg 0x0078 0).setMg 0x007C 0 else s
      | _ => s)

/-! ## Keys (R407) -/

/-- KEY_LOAD: the key words become the key of a slot. -/
def execKeyLoad (keySlot : Nat) (s : State) : Out :=
  .next (if !s.isReady || 256 ≤ keySlot then s
    else
      let key := (List.range 8).foldl (fun k i => k + (s.mg (0x0300 + 4 * i)).toNat * 2 ^ (32 * i)) 0
      let (gen, s) := s.fresh
      ({ s with keys := kset s.keys keySlot { loaded := true, key := BitVec.ofNat 256 key, gen := gen, spent := false } }).setMg 0x0320
        (BitVec.ofNat 32 keySlot))

/-- KEY_ERASE: the slot is zero. -/
def execKeyErase (keySlot : Nat) (s : State) : Out :=
  .next (if !s.isReady || 256 ≤ keySlot then s
    else
      let (gen, s) := s.fresh
      ({ s with keys := kset s.keys keySlot { loaded := false, key := 0, gen := gen, spent := false } }).setMg 0x0320
        (BitVec.ofNat 32 keySlot))

/-! ## Translation invalidation (R233, R401) -/

/-- XLAT_INV: an invalidation starts; bit 31 reads 1 while it runs. -/
def execXlatInv (asid : Nat) (s : State) : Out :=
  .next (if !s.isReady || (s.mg 0x00F0).getLsbD 31 then s else s.setMg 0x00F0 (BitVec.ofNat 32 (asid % 1024 + 2 ^ 31)))

/-- XLAT_INV_DONE: no core's and no cluster's translation cache holds a translation of the ASID. -/
def execXlatInvDone (asid : Nat) (s : State) : Out :=
  .next (if (s.mg 0x00F0).toNat != asid % 1024 + 2 ^ 31 then s
    else
      let keep := fun (x : Xlat) => x.asid != asid % 1024
      ({ s with cores := kmap s.cores (fun c => { c with xlat := c.xlat.filter keep })
                clusters := kmap s.clusters (fun c => { c with xlat := c.xlat.filter keep }) }).setMg 0x00F0 (BitVec.ofNat 32 (asid % 1024)))

/-! ## Partitions (R367, R368, R380) -/

/-- A request to stitch a partition to a mask and a shape is refused (R368). -/
def State.partRefused (s : State) (p mask shape : Nat) : Bool :=
  decide (12 ≤ p) || s.parts.any (fun kv => kv.1 != p && kv.2.mask &&& mask != 0) || (mask != 0 && !Config.shapeFits mask shape)

/-- PART_CMD: a request to re-stitch a partition is pending, or is refused. -/
def execPartCmd (value : Nat) (s : State) : Out :=
  let p := value % 16
  let low := value % 64
  .next (if !s.isReady || (s.mg 0x0640).getLsbD 31 then s
    else if value / 2 ^ 31 % 2 = 0 then s.setMg 0x0640 (BitVec.ofNat 32 low ||| (s.mg 0x0640 &&& 0x40000000))
    else if s.partRefused p (s.mg (0x0600 + 4 * p)).toNat (value / 16 % 4) then s.setMg 0x0640 (BitVec.ofNat 32 (low + 2 ^ 30))
    else s.setMg 0x0640 (BitVec.ofNat 32 (low + 2 ^ 31)))

/-- A launch runs on some stack group of a mask. -/
def State.runsOn (s : State) (mask : Nat) : Bool :=
  s.launches.any (fun kv => (kv.2.phase == 1 || kv.2.phase == 2) && (kget s.parts kv.2.part).mask &&& mask != 0)

/-- The shape descriptor of a partition (R367). -/
def shapeWord (mask shape : Nat) : Word :=
  if mask = 0 then 0
  else
    let root := if shape = 2 then Config.fabricRoot mask shape else 4 * (maskBits mask).headD 0
    BitVec.ofNat 32 (shape + 2 ^ 8 * (root % 64) + 2 ^ 16 * hopsOf mask shape)

/-- PARTITION_RESTITCH (R368): the request in PART.CMD is carried out once no launch runs on the old or the new stack groups; a
partition that a corrupt header brought down is stitched as it was (R380). A PART.SG rewritten while the request is pending counts as it
stands then, and the request is refused then if it overlaps (DESIGN CHOICE, log 108). Queues of a partition that becomes unused give up
their slots. -/
def execPartitionRestitch (part : Nat) (s : State) : Out :=
  let p := kget s.parts part
  let cmd := s.mg 0x0640
  let asked := cmd.getLsbD 31 && cmd.toNat % 16 == part
  let mask := if asked then (s.mg (0x0600 + 4 * part)).toNat else p.mask
  let shape := if asked then cmd.toNat / 16 % 4 else p.shape
  .next (if 12 ≤ part || !(asked || p.down) || s.runsOn (p.mask ||| mask) then s
    else if asked && s.partRefused part mask shape then s.setMg 0x0640 (BitVec.ofNat 32 (cmd.toNat % 64 + 2 ^ 30))
    else
      let s := { s with parts := kset s.parts part { mask := mask, shape := shape, down := false } }
      let s := s.setMg (0x00C0 + 4 * part) (shapeWord mask shape)
      let s := if mask = 0 then { s with hwslots := s.hwslots.filter (fun kv => qPart (s.qdesc kv.2.queue) != part) } else s
      if asked then s.setMg 0x0640 (cmd &&& 0x0000003F) else s)

/-! ## Boot and attestation (R411, R412) -/

/-- Firmware runs: every key slot and every counter of a line and a page is clear, BOOT.STAT reads 1 and READY is set. -/
def State.runImage (s : State) (image : Memory) : State :=
  ({ s with image := image, keys := [], pages := [], lineInfo := kmap s.lineInfo (fun x => { x with minor := 0 }) }).setMg 0x0008 0x00000101

/-- BOOT: the ROM verifies the stored image and runs it, or waits for a recovery image. -/
def execBoot (s : State) : Out :=
  .next (if s.mg 0x0008 != 0 then s
    else if Config.imageOk s.flash then s.runImage s.flash else s.setMg 0x0008 2)

/-- BOOT_CMD_RECOVER: the image in the host's memory is verified and runs, or the ROM halts. The stored image stays. -/
def execBootCmdRecover (s : State) : Out :=
  let a := s.mg64 0x0010
  let n := s.mg64 0x0018
  let image := (s.host.filter (fun kv => decide (a ≤ kv.1) && decide (kv.1 < a + n))).map (fun kv => (kv.1 - a, kv.2))
  .next (if s.mg 0x0008 != 2 then s
    else if Config.imageOk image then s.runImage image else s.setMg 0x0008 3)

/-- ATTEST_REQUEST: 0x0440 reads 1 until the report is written. -/
def execAttestRequest (s : State) : Out := .next (if s.isReady then s.setMg 0x0440 1 else s)

/-- What a report holds before its signature, from byte 0 on: DEV.ID, FW.VER, the digest of the running image, the nonce and the device's public
key. The spec gives these in this order and no offsets (DESIGN CHOICE, log 146). -/
def State.attested (s : State) : Nat :=
  let nonce := (List.range 12).foldl (fun x i => x + (s.mg (0x0400 + 4 * i)).toNat * 2 ^ (32 * i)) 0
  (s.mg 0x0000).toNat + 2 ^ 32 * (s.mg 0x0004).toNat + 2 ^ 64 * (Config.imageDigest s.image).toNat + 2 ^ 448 * nonce +
    2 ^ 832 * Config.deviceKey.toNat

/-- The report of 512 bytes is written at the address that the host gave, signed with the device key; 0x0440 then reads 0, and 0x0448 as
well, for success (R412). -/
def State.attest (s : State) : State :=
  let r := s.attested + 2 ^ 1600 * (Config.deviceSign s.attested).toNat
  (({ s with host := memWrite s.host (s.mg64 0x0438) 512 r }).setMg 0x0440 0).setMg 0x0448 0

/-! ## Power and ageing (R413, R414) -/

/-- SUPPLY_SAG: the die's clock is stretched, and the event is counted. -/
def execSupplySag (die : Nat) (s : State) : Out :=
  .next (if 4 ≤ die then s else ({ s with sag := s.sag ||| (1#4 <<< die) }).countMg 0x0504)

/-- SUPPLY_RECOVERY: the stretch relaxes. -/
def execSupplyRecovery (die : Nat) (s : State) : Out :=
  .next (if 4 ≤ die then s else { s with sag := s.sag &&& ~~~(1#4 <<< die) })

/-- MARGIN_REPLAN: the margin that remains is measured; where more voltage does not restore it, the ceiling falls by 10 MHz, LOW is set
and a RAS record of KIND 3 is posted. -/
def execMarginReplan (s : State) : Out :=
  let m := s.mg 0x0500
  let (mv, s) := s.undef noAsid 16
  let (short, s) := s.choose 2
  .next (if !s.isReady then s
    else if short = 0 then s.setMg 0x0500 ((m &&& 0xFFFF0000) ||| mv.setWidth 32)
    else
      let ceil := (m.toNat / 2 ^ 16 % 256) - 1
      let s := s.setMg 0x0500 (BitVec.ofNat 32 (2 ^ 31 + 2 ^ 16 * ceil) ||| mv.setWidth 32)
      (s.post 0 { type := 7, kind := 3, seq := 0, asid := 0, core := 0, gang := 0, pc := 0, lanes := 0, handle := 0, path := 0, src := 0,
                  code := 0, off := 0 }).2)

end Sys2Proof.Machine
end

