-- ==== Sys2Proof/Machine/Issue.lean ====
section
/-! DEFINITION. Issue (R101 to R103, R184 to R194): the chosen PC, what holds a word back, the choice of a gang, starvation. -/

namespace Sys2Proof.Machine

/-! ## The chosen PC (R101) -/

/-- A thread that may be issued: ready, and not about to be parked for a long operation (R210), which waits while it takes part in a
handler. -/
def Thread.issuable (t : Thread) : Bool := t.st == .ready && (!t.longPark || t.inTrap)

/-- The PC held by the most ready threads, the lowest on a tie, and the bundle of all that stand at it. -/
def Gang.chosen (g : Gang) : Option (Word × Lanes) :=
  let at_ := fun (pc : Word) => g.lanesWith (fun t => t.issuable && t.pc == pc)
  (lanesOf (g.lanesWith Thread.issuable)).foldl (fun best l =>
    let pc := (g.thread l).pc
    let n := (lanesOf (at_ pc)).length
    match best with
    | none => some (pc, at_ pc)
    | some (p, m) =>
      let k := (lanesOf m).length
      if k < n ∨ (k = n ∧ pc.toNat < p.toNat) then some (pc, at_ pc) else best) none

/-- What the decode of a word depends on for a bundle of a gang (R54, R69). -/
def State.decodeCtx (s : State) (gid : Nat) (lanes : Lanes) : DecodeCtx :=
  let g := s.gang gid
  { nv := g.nb + (if g.ext = .held then 16 * 2 ^ g.extK else 0), slabs := (s.block g.block).slabs, base := g.nb,
    covered := (lanesOf lanes).any (fun l => (g.thread l).blk.isSome) }

/-- The instruction at a PC for a bundle, or the sub-cause that its decode raises (R52, R73). -/
def State.wordAt (s : State) (gid : Nat) (pc : Word) (lanes : Lanes) : Except SubCause Instr :=
  match s.fetchAt (s.launchOf gid) pc with
  | none => .error .fetch
  | some w => decode (s.decodeCtx gid lanes) w

/-! ## What holds a word back (R187, R206, R312, R321) -/

/-- Words that may fault (R196). -/
def Instr.mayFault (i : Instr) : Bool :=
  match i with
  | .ld _ | .st _ | .spill _ | .fill _ | .atom _ | .cas _ | .red _ | .tfetch _ | .tevict _ | .mdld _ | .mdst _ | .waddr _
  | .cp _ | .cpq _ | .cpflag _ | .swb _ | .bput _ | .bputk _ | .bputv _ | .bcommit _ | .bsquash _ | .bcount _ | .bdrain _ | .bnext _ | .bstat _
  | .xpost _ | .xbcast _ | .qlaunch _ => true
  | _ => false

/-- An `mma.a`, which the scoreboard holds only on its scale registers (R187). -/
def Instr.armedMma (i : Instr) : Bool := match i with | .mma f => f.mod.getLsbD 0 | _ => false

/-- What special registers give from the issue of a word of a gang now (R32, R416). -/
def State.issNow (s : State) (gid : Nat) : Issued :=
  let g := s.gang gid
  { clk := s.now g.core, core := g.core, hi := g.clkh }

/-- The v register that an R-form `vrd` names in the s register of its lowest executing lane (R144). -/
def State.dynReads (s : State) (gid : Nat) (lanes : Lanes) (i : Instr) : List Nat :=
  match i with
  | .vrd f =>
    let g := s.gang gid
    let r := g.view (s.now g.core)
    let e := (lanesOf lanes).filter (fun l => threadActs r f.guard (g.thread l) l)
    if f.immForm || e.isEmpty then []
    else
      let x := { s with cur := { s.cur with gid := gid, iss := s.issNow gid } }.readReg r (e.headD 0) 0 f.a
      opCodes 1 (.v (x.setWidth 8))
  | _ => []

/-- The v, s and p registers on which the scoreboard holds a word that reads them (R187): those of the scales for an `mma.a`. -/
def Instr.heldOn (i : Instr) : List Nat :=
  match i with
  | .mma f => if f.mod.getLsbD 0 then opCodes i.shape.b.regs f.b ++ opCodes i.shape.c.regs f.c else Instr.reads i
  | _ => Instr.reads i

/-- The outstanding writes of a gang that hold a word back on its v, s and p registers. -/
def Gang.regHolds (g : Gang) (i : Instr) (more : List Nat) : List Pend :=
  let rd := (Instr.heldOn i ++ more).filter (fun c => decide (c < 768))
  let wr := (Instr.writes i).filter (fun c => decide (c < 768))
  g.pend.filter (fun p => (rd.contains p.reg && !p.fixed) || wr.contains p.reg)

/-- The outstanding writes of a slab by any gang of a block. -/
def State.slabPends (s : State) (b q : Nat) : List Pend :=
  ((s.block b).gangs.map (fun gid => (s.gang gid).pend.filter (fun p => p.reg == 768 + q))).flatten

/-- The outstanding slab writes that hold a word back, and whether an outstanding slab read does (R312). -/
def State.slabHolds (s : State) (gid : Nat) (i : Instr) : List Pend × Bool :=
  let b := (s.gang gid).block
  let c := s.core (s.gang gid).core
  let waiting := c.mmaWaiting.filter (fun m => m.block == b)
  let all := waiting ++ c.mmaRun.toList.filter (fun m => m.block == b)
  let slabs := fun (l : List Nat) => (l.filter (fun k => decide (768 ≤ k))).map (fun k => k - 768)
  if Instr.armedMma i then ([], false)
  else
    match i with
    | .mma f =>
      let d := f.d.index
      let rd := [f.a.index, (f.imm.extractLsb' 0 4).toNat]
      ((rd.map (fun q => s.slabPends b q)).flatten ++ (s.slabPends b d).filter (fun p => all.all (fun m => m.id != p.id)),
        waiting.any (fun m => m.c == d) || all.any (fun m => m.a == d || m.b == d) || s.heldReads b d none)
    | _ =>
      let rd := slabs (Instr.reads i)
      let wr := slabs (Instr.writes i)
      (((rd ++ wr).map (fun q => s.slabPends b q)).flatten,
        wr.any (fun q => all.any (fun m => m.a == q || m.b == q || m.c == q) || s.heldReads b q none))

/-- A word is held back by something that no cycle count ends: a full replay buffer, a full slot queue of the array, or OUT at 256 (R372). -/
def State.fullHold (s : State) (gid : Nat) (i : Instr) : Bool :=
  let g := s.gang gid
  let c := s.core g.core
  (Instr.mayFault i && (!g.fails.isEmpty || decide (4 ≤ (g.replay.filter (fun r => r.type == 1)).length))) ||
    (match i with
      | .mma _ => !Instr.armedMma i && decide (2 ≤ (c.mmaQ.filter (fun m => m.from_ == g.place / 48)).length)
      | .xpost _ | .xbcast _ => decide (256 ≤ g.posts.length)
      | _ => false)

/-- The cycle from which a list of outstanding writes is over, none while an engine holds one. -/
def pendsOver (l : List Pend) (from_ : Nat) : Option Nat :=
  l.foldl (fun t p => match t, p.done with
    | some t, some d => some (max t d)
    | _, _ => none) (some from_)

/-- The word at a PC, and the tables on the way to it, find their turn at their pages and channels (R397, R403, R408). A PC that is not
fetchable reads nothing (R74). -/
def State.codeOpen (s : State) (gid : Nat) (pc : Word) : Bool :=
  let l := s.launchOf gid
  !fetchable l.kwords pc ||
    ((s.codeLines l pc).all (fun n => s.pageTurn (64 * n) none && s.chanOpen l.queue (64 * n) 64) &&
      (s.bufEnt l.asid (l.codeH % 2 ^ 16)).all (fun e => [0, 11].all (fun k => s.pageOpen l.queue l.asid e (l.codeOff + pc.toNat + k))))

/-- The cycle from which a gang is a candidate as things stand (R101, R191): none while it is not, whatever the cycle. It issues nothing while
the checks of a word it has issued have no result (R196), a replay's apart, nor while OUT has no room for a bundle at its issue (R372). -/
def State.readyAt (s : State) (gid : Nat) : Option Nat :=
  let g := s.gang gid
  let c := s.core g.core
  if !(g.live && g.active && g.cleared && g.base.isSome && g.stop == .running) ||
      g.held.any (fun h => match h.cond with | .walk _ => !h.parked | .postRoom => true | _ => false) || s.trapfHold gid then none
  else match g.chosen with
    | none => none
    | some (pc, lanes) =>
      let from_ := max g.stallTo c.frozen
      if !s.codeOpen gid pc then none
      else match s.wordAt gid pc lanes with
      | .error _ => some from_
      | .ok i =>
        let (ps, held) := s.slabHolds gid i
        if held || s.fullHold gid i then none else pendsOver (g.regHolds i (s.dynReads gid lanes i) ++ ps) from_

/-- A gang is a candidate in the cycle of its core. -/
def State.candidate (s : State) (gid : Nat) : Bool :=
  match s.readyAt gid with
  | some t => decide (t ≤ s.now (s.gang gid).core)
  | none => false

/-! ## Starvation (R193) -/

/-- The counter of a gang after the cycles from `old` to `new`. -/
def Gang.waited (g : Gang) (ready : Option Nat) (old new : Nat) : Gang :=
  match ready with
  | none => g
  | some t =>
    let from_ := max t old
    if new ≤ from_ then g
    else
      let n := g.starve + (new - from_)
      { g with starve := n, starvedAt := if g.starve < 512 ∧ 512 ≤ n then from_ + (512 - g.starve) else g.starvedAt }

/-- Adds two lists of counters. -/
def addAll : List Nat → List Nat → List Nat
  | [], b => b
  | a, [] => a
  | x :: a, y :: b => (x + y) :: addAll a b

/-- Cycles pass on each die and at the controller of each channel (R5, R11). -/
def State.pass (s : State) (e : Elapse) : State :=
  let clock : Elapse := { d0 := s.clock.d0 + e.d0, d1 := s.clock.d1 + e.d1, d2 := s.clock.d2 + e.d2, d3 := s.clock.d3 + e.d3,
                          mc := (addAll s.clock.mc e.mc).take 384 }
  { s with
    clock := clock
    gangs := s.gangs.map (fun kv =>
      if kv.2.live && kv.2.active then
        (kv.1, kv.2.waited (s.readyAt kv.1) (elapseDie s.clock (kv.2.core / 48)) (elapseDie clock (kv.2.core / 48)))
      else kv) }

/-! ## The choice (R192) -/

/-- The best of a list. -/
def pickBy {α : Type} (better : α → α → Bool) (l : List α) : Option α :=
  l.foldl (fun best x => match best with
    | none => some x
    | some b => if better x b then some x else some b) none

/-- `a` is older than `b` on its slot (R191). -/
def State.older (s : State) (a b : Nat) : Bool :=
  let x := s.gang a
  let y := s.gang b
  decide (x.placedAt < y.placedAt) || (x.placedAt == y.placedAt && decide (x.place < y.place))

/-- The forced gang, if any: the one that reached 512 first. -/
def State.forced (s : State) (cs : List Nat) : Option Nat :=
  pickBy (fun a b =>
    let x := s.gang a
    let y := s.gang b
    decide (x.starvedAt < y.starvedAt) || (x.starvedAt == y.starvedAt && decide (x.place < y.place)))
    (cs.filter (fun g => decide (512 ≤ (s.gang g).starve)))

/-- The policy of a core in this cycle (R190): a write of it takes effect from the cycle after. -/
def State.policy (s : State) (core : Nat) : Word :=
  let c := s.core core
  if c.polAt = some (s.now core) then c.polOld else s.mg (coreMg core 0)

/-- The choice under the core's policy among candidates of the highest class. -/
def State.choosePolicy (s : State) (core : Nat) (sl : Slot) (cs : List Nat) : Option Nat :=
  let top := (cs.map s.effClass).foldl max 0
  let c := cs.filter (fun g => s.effClass g == top)
  let low := fun a b => decide ((s.gang a).place < (s.gang b).place)
  if s.policy core = 0 then
    if sl.yield = false ∧ c.any (fun g => sl.last == some g) then sl.last
    else
      let d := if sl.yield && c.any (fun g => sl.last != some g) then c.filter (fun g => sl.last != some g) else c
      pickBy s.older d
  else match sl.rrLast with
    | none => pickBy low c
    | some l =>
      match pickBy low (c.filter (fun g => decide ((s.gang l).place < (s.gang g).place))) with
      | some g => some g
      | none => pickBy low c

/-- At its next issue boundary a thread that a long operation's fault has stopped is parked, or restarts where RETRY came first (R210). -/
def Thread.atBoundary (t : Thread) : Thread :=
  match t.longRe with
  | some (pc, blk) => t.restart pc blk
  | none => { t with st := .parked }

/-- The threads of a core's gangs that a long operation's fault has stopped are at an issue boundary. -/
def State.parkLong (s : State) (core : Nat) : State :=
  { s with gangs := s.gangs.map (fun kv =>
      if kv.2.live && kv.2.active && kv.2.core == core then
        (kv.1, kv.2.modLanes (kv.2.lanesWith (fun t => t.st == .ready && t.longPark && !t.inTrap)) Thread.atBoundary)
      else kv) }

/-- A slot starts the chosen bundle of a gang: the next step runs it. -/
def State.startBundle (s : State) (core slot gid : Nat) (wasForced : Bool) : State :=
  match (s.gang gid).chosen with
  | none => s
  | some (pc, lanes) =>
    let t := s.now core
    let b : Bundle := { gid := gid, mask := lanes, pc := pc, t := t, exec := none, word := none, snap := none, stage := 0,
                        serial := (s.gang gid).serial + 1, absent := [], pid := 0, replay := false, pkt := 0, cmd := none, posts := [],
                        iss := s.issNow gid }
    let rr := wasForced && s.policy core != 0
    let s := s.modGang gid (fun g => { g with starve := 0 })
    let s := s.modCore core (fun c => { c with slots := kmod c.slots slot (fun sl =>
      { sl with last := some gid, rrLast := if rr then sl.rrLast else some gid }) })
    { s with cur := b, issuing := true }

/-- The candidates of a slot. -/
def State.candidates (s : State) (core slot : Nat) : List Nat :=
  (s.residents core).filter (fun g => (s.gang g).place / 48 == slot && s.candidate g)

/-- ISSUE_CHOICE (R192): a free slot chooses a gang and starts its bundle; with no candidate it idles. -/
def execIssueChoice (core slot : Nat) (s : State) : Out :=
  let s := s.parkLong core
  let sl := kget (s.core core).slots slot
  .next (if s.now core < sl.busy then s
    else
      let cs := s.candidates core slot
      match s.forced cs with
      | some g => s.startBundle core slot g true
      | none =>
        match s.choosePolicy core sl cs with
        | some g => s.startBundle core slot g false
        | none => s)

/-- STARVATION_FORCE (R193): the gang whose counter has reached 512 is taken ahead of every class and policy. -/
def execStarvationForce (gid : Nat) (s : State) : Out :=
  let g := s.gang gid
  let slot := g.place / 48
  .next (if s.now g.core < (kget (s.core g.core).slots slot).busy then s
    else if s.forced (s.candidates g.core slot) = some gid then s.startBundle g.core slot gid true
    else s)

end Sys2Proof.Machine
end

