-- ==== Sys2Proof/Machine/Lane.lean ====
section
/-! DEFINITION. Lane operations (R146 to R150) and `vrd` (R144). Results are of variable latency 10 (R186); `vrd` is of fixed
latency 5. -/

namespace Sys2Proof.Machine

/-- Ends a lane operation: writes the values, moves on, sets the flags (R149). -/
def laneOp (i : Instr) (s : State) (res : State → Regs → Lanes → List (Nat × BitVec 64) × Flags) : Out :=
  let e := s.execLanes i.fields
  let r := res s s.view e
  let s := if e = 0 then s
    else (s.writeBack i e 1 (r.1.map (fun v => (v.1, v.2.setWidth 128))) 10 false).latchClk i e
  .next (s.finishArith e (if e = 0 then 0 else r.2))

/-- The source lane of `shfl` (R147). -/
def shflLane (opx : BitVec 3) (lane b : Nat) : Int :=
  match opx.toNat with
  | 0 => (b % 32 : Nat)
  | 1 => (lane : Int) - b
  | 2 => (lane : Int) + b
  | _ => (lane ^^^ (b % 32) : Nat)

/-- `shfl` (R147): the value of va in the source lane where that thread is in the bundle, else the thread's own. -/
def execShfl (f : Fields) (s : State) : Out :=
  laneOp (.shfl f) s (fun s r e =>
    ((lanesOf e).map (fun l =>
      let b := (if f.immForm then f.imm else s.readReg r l 0 f.b).toNat
      let src := shflLane f.opx l b
      let from_ := if 0 ≤ src ∧ src ≤ 31 ∧ s.cur.mask.getLsbD src.toNat then src.toNat else l
      (l, s.readOp r from_ false f.a)), 0))

/-- `vote` (R148). -/
def execVote (f : Fields) (s : State) : Out :=
  laneOp (.vote f) s (fun s r e =>
    let yes := if f.uni then e else lanesFrom ((lanesOf e).filter (fun l => s.readOp r l false f.a != 0))
    let n := (lanesOf yes).length
    let v : BitVec 64 := match f.opx.toNat with
      | 0 => boolBits (yes != 0)
      | 1 => boolBits (yes == e)
      | 2 => yes.setWidth 64
      | _ => BitVec.ofNat 64 n
    (if f.uni then [(lowLane e, v)] else (lanesOf e).map (fun l => (l, v)), 0))

/-- The folds over the executing lanes in ascending order, with each lane's value so far (R149). -/
def foldLanes (opx : BitVec 3) (t : BitVec 5) (vals : List (Nat × Word)) : List (Nat × Word) × Flags :=
  match vals with
  | [] => ([], 0)
  | (l, x) :: rest =>
    let r := rest.foldl (fun (acc : List (Nat × Word) × Word × Flags) (v : Nat × Word) =>
      let y := foldStep opx t acc.2.1 v.2
      (acc.1 ++ [(v.1, y.1)], y.1, acc.2.2 ||| y.2)) ([(l, x)], x, (0 : Flags))
    (r.1, r.2.2)

/-- The source of each executing thread: a uniform form takes its s register once for each (R149). -/
def foldVals (s : State) (r : Regs) (f : Fields) (e : Lanes) : List (Nat × Word) :=
  (lanesOf e).map (fun l => (l, s.readReg r (if f.uni then lowLane e else l) 0 f.a))

/-- `lred` (R149). -/
def execLred (f : Fields) (s : State) : Out :=
  laneOp (.lred f) s (fun s r e =>
    let x := foldLanes f.opx f.ty (foldVals s r f e)
    let v := ((x.1.getLast?.map Prod.snd).getD 0).setWidth 64
    (if f.uni then [(lowLane e, v)] else (lanesOf e).map (fun l => (l, v)), x.2))

/-- `lscan` (R149). -/
def execLscan (f : Fields) (s : State) : Out :=
  laneOp (.lscan f) s (fun s r e =>
    let x := foldLanes f.opx f.ty (foldVals s r f e)
    (x.1.map (fun v => (v.1, v.2.setWidth 64)), x.2))

/-- `match` (R150). -/
def execMatch (f : Fields) (s : State) : Out :=
  laneOp (.match_ f) s (fun s r e =>
    ((lanesOf e).map (fun l =>
      (l, (lanesFrom ((lanesOf e).filter (fun k => s.readOp r k false f.a == s.readOp r l false f.a))).setWidth 64)), 0))

/-- `vrd` (R144): one thread's v register. The R form reads the register's number and the lane when it executes; a number that
R54 would reject raises illegal-operation. A vacant lane gives an undefined value (R7). -/
def execVrd (f : Fields) (s : State) : Out :=
  let i := Instr.vrd f
  let e := s.execLanes f
  let r := s.view
  let gid := s.cur.gid
  let g := s.gang gid
  let n := if f.immForm then (f.imm.extractLsb' 0 8).toNat else (s.readReg r (lowLane e) 0 f.a).toNat % 256
  let lane := if f.immForm then (f.imm.extractLsb' 8 5).toNat else (s.readReg r (lowLane e) 0 f.b).toNat % 32
  let nv := g.nb + (if g.ext = .held then 16 * 2 ^ g.extK else 0)
  if e = 0 then .next (s.finishArith e 0)
  else if n ≠ 255 ∧ nv ≤ n then .next (s.illop gid s.cur.pc e)
  else
    let (x, s) := if (g.thread lane).st = .vacant ∧ n ≠ 255 then s.undef (s.launchOf gid).asid 32
      else (s.readReg r lane 0 (.v (BitVec.ofNat 8 n)), s)
    let s := (s.writeBack i e 1 [(0, x.setWidth 128)] 5 true).latchClk i e
    let t := g.newTaint i e ||| g.taintOf (opCodes 1 (.v (BitVec.ofNat 8 n)))
    let s := s.modGang gid (fun g => g.setTaint (opCodes 1 f.d) e t)
    .next (s.finishArith e 0)

end Sys2Proof.Machine
end

