-- ==== Sys2Proof/Machine/Dispatch.lean ====
section
/-! DEFINITION. What each instruction does: one arm per constructor, each a direct call of its meaning. -/

namespace Sys2Proof.Machine

def exec (i : Instr) (s : State) : Host.Outcome State Fault Refusal :=
  match i with
  | .add f => Sys2Proof.Machine.execAdd f s
  | .sub f => Sys2Proof.Machine.execSub f s
  | .mul f => Sys2Proof.Machine.execMul f s
  | .mulh f => Sys2Proof.Machine.execMulh f s
  | .mad f => Sys2Proof.Machine.execMad f s
  | .neg f => Sys2Proof.Machine.execNeg f s
  | .abs f => Sys2Proof.Machine.execAbs f s
  | .min f => Sys2Proof.Machine.execMin f s
  | .max f => Sys2Proof.Machine.execMax f s
  | .and f => Sys2Proof.Machine.execAnd f s
  | .or f => Sys2Proof.Machine.execOr f s
  | .xor f => Sys2Proof.Machine.execXor f s
  | .andn f => Sys2Proof.Machine.execAndn f s
  | .shl f => Sys2Proof.Machine.execShl f s
  | .shr f => Sys2Proof.Machine.execShr f s
  | .sar f => Sys2Proof.Machine.execSar f s
  | .clz f => Sys2Proof.Machine.execClz f s
  | .popc f => Sys2Proof.Machine.execPopc f s
  | .bfx f => Sys2Proof.Machine.execBfx f s
  | .bfi f => Sys2Proof.Machine.execBfi f s
  | .sel f => Sys2Proof.Machine.execSel f s
  | .setp f => Sys2Proof.Machine.execSetp f s
  | .plop f => Sys2Proof.Machine.execPlop f s
  | .p2v f => Sys2Proof.Machine.execP2v f s
  | .v2p f => Sys2Proof.Machine.execV2p f s
  | .fadd f => Sys2Proof.Machine.execFadd f s
  | .fsub f => Sys2Proof.Machine.execFsub f s
  | .fmul f => Sys2Proof.Machine.execFmul f s
  | .ffma f => Sys2Proof.Machine.execFfma f s
  | .fmin f => Sys2Proof.Machine.execFmin f s
  | .fmax f => Sys2Proof.Machine.execFmax f s
  | .fsetp f => Sys2Proof.Machine.execFsetp f s
  | .frcp f => Sys2Proof.Machine.execFrcp f s
  | .frsq f => Sys2Proof.Machine.execFrsq f s
  | .fsqrt f => Sys2Proof.Machine.execFsqrt f s
  | .fex2 f => Sys2Proof.Machine.execFex2 f s
  | .flg2 f => Sys2Proof.Machine.execFlg2 f s
  | .frnd f => Sys2Proof.Machine.execFrnd f s
  | .fclass f => Sys2Proof.Machine.execFclass f s
  | .cvt f => Sys2Proof.Machine.execCvt f s
  | .hadd2 f => Sys2Proof.Machine.execHadd2 f s
  | .hmul2 f => Sys2Proof.Machine.execHmul2 f s
  | .hfma2 f => Sys2Proof.Machine.execHfma2 f s
  | .hmax2 f => Sys2Proof.Machine.execHmax2 f s
  | .pack f => Sys2Proof.Machine.execPack f s
  | .unpk f => Sys2Proof.Machine.execUnpk f s
  | .mov f => Sys2Proof.Machine.execMov f s
  | .vrd f => Sys2Proof.Machine.execVrd f s
  | .rdsp f => Sys2Proof.Machine.execRdsp f s
  | .wrsp f => Sys2Proof.Machine.execWrsp f s
  | .shfl f => Sys2Proof.Machine.execShfl f s
  | .vote f => Sys2Proof.Machine.execVote f s
  | .lred f => Sys2Proof.Machine.execLred f s
  | .lscan f => Sys2Proof.Machine.execLscan f s
  | .match_ f => Sys2Proof.Machine.execMatch f s
  | .bra f => Sys2Proof.Machine.execBra f s
  | .brx f => Sys2Proof.Machine.execBrx f s
  | .call f => Sys2Proof.Machine.execCall f s
  | .ret f => Sys2Proof.Machine.execRet f s
  | .exit f => Sys2Proof.Machine.execExit f s
  | .pblk f => Sys2Proof.Machine.execPblk f s
  | .nop f => Sys2Proof.Machine.execNop f s
  | .brk f => Sys2Proof.Machine.execBrk f s
  | .trap f => Sys2Proof.Machine.execTrap f s
  | .mjoin f => Sys2Proof.Machine.execMjoin f s
  | .mleave f => Sys2Proof.Machine.execMleave f s
  | .mwait f => Sys2Proof.Machine.execMwait f s
  | .mpoll f => Sys2Proof.Machine.execMpoll f s
  | .mrd f => Sys2Proof.Machine.execMrd f s
  | .reform f => Sys2Proof.Machine.execReform f s
  | .bsync f => Sys2Proof.Machine.execBsync f s
  | .barv f => Sys2Proof.Machine.execBarv f s
  | .bwt f => Sys2Proof.Machine.execBwt f s
  | .nbatt f => Sys2Proof.Machine.execNbatt f s
  | .nbarv f => Sys2Proof.Machine.execNbarv f s
  | .nbwt f => Sys2Proof.Machine.execNbwt f s
  | .nbdet f => Sys2Proof.Machine.execNbdet f s
  | .twait f => Sys2Proof.Machine.execTwait f s
  | .waddr f => Sys2Proof.Machine.execWaddr f s
  | .xacq f => Sys2Proof.Machine.execXacq f s
  | .xrel f => Sys2Proof.Machine.execXrel f s
  | .region f => Sys2Proof.Machine.execRegion f s
  | .ppoint f => Sys2Proof.Machine.execPpoint f s
  | .tret f => Sys2Proof.Machine.execTret f s
  | .ld f => Sys2Proof.Machine.execLd f s
  | .st f => Sys2Proof.Machine.execSt f s
  | .spill f => Sys2Proof.Machine.execSpill f s
  | .fill f => Sys2Proof.Machine.execFill f s
  | .atom f => Sys2Proof.Machine.execAtom f s
  | .cas f => Sys2Proof.Machine.execCas f s
  | .red f => Sys2Proof.Machine.execRed f s
  | .phaseRel f => Sys2Proof.Machine.execPhaseRel f s
  | .phaseAcq f => Sys2Proof.Machine.execPhaseAcq f s
  | .phaseAr f => Sys2Proof.Machine.execPhaseAr f s
  | .pfence f => Sys2Proof.Machine.execPfence f s
  | .sbwait f => Sys2Proof.Machine.execSbwait f s
  | .tsync f => Sys2Proof.Machine.execTsync f s
  | .untaint f => Sys2Proof.Machine.execUntaint f s
  | .tfetch f => Sys2Proof.Machine.execTfetch f s
  | .tevict f => Sys2Proof.Machine.execTevict f s
  | .mdld f => Sys2Proof.Machine.execMdld f s
  | .mdst f => Sys2Proof.Machine.execMdst f s
  | .cp f => Sys2Proof.Machine.execCp f s
  | .cpq f => Sys2Proof.Machine.execCpq f s
  | .cpflag f => Sys2Proof.Machine.execCpflag f s
  | .cpcommit f => Sys2Proof.Machine.execCpcommit f s
  | .cpwait f => Sys2Proof.Machine.execCpwait f s
  | .cpst f => Sys2Proof.Machine.execCpst f s
  | .scfg f => Sys2Proof.Machine.execScfg f s
  | .mma f => Sys2Proof.Machine.execMma f s
  | .szero f => Sys2Proof.Machine.execSzero f s
  | .smovIn f => Sys2Proof.Machine.execSmovIn f s
  | .smovOut f => Sys2Proof.Machine.execSmovOut f s
  | .quant f => Sys2Proof.Machine.execQuant f s
  | .bexp f => Sys2Proof.Machine.execBexp f s
  | .swb f => Sys2Proof.Machine.execSwb f s
  | .samax f => Sys2Proof.Machine.execSamax f s
  | .bput f => Sys2Proof.Machine.execBput f s
  | .bputk f => Sys2Proof.Machine.execBputk f s
  | .bputv f => Sys2Proof.Machine.execBputv f s
  | .bcommit f => Sys2Proof.Machine.execBcommit f s
  | .bsquash f => Sys2Proof.Machine.execBsquash f s
  | .bcount f => Sys2Proof.Machine.execBcount f s
  | .bdrain f => Sys2Proof.Machine.execBdrain f s
  | .bnext f => Sys2Proof.Machine.execBnext f s
  | .bclose f => Sys2Proof.Machine.execBclose f s
  | .bstat f => Sys2Proof.Machine.execBstat f s
  | .xpost f => Sys2Proof.Machine.execXpost f s
  | .xbcast f => Sys2Proof.Machine.execXbcast f s
  | .xfence f => Sys2Proof.Machine.execXfence f s
  | .qlaunch f => Sys2Proof.Machine.execQlaunch f s
  | .issueChoice core slot => Sys2Proof.Machine.execIssueChoice core slot s
  | .starvationForce gid => Sys2Proof.Machine.execStarvationForce gid s
  | .maskArrival gid lane => Sys2Proof.Machine.execMaskArrival gid lane s
  | .barrierArrival gid lane bar => Sys2Proof.Machine.execBarrierArrival gid lane bar s
  | .namedBarrierArrival gid name => Sys2Proof.Machine.execNamedBarrierArrival gid name s
  | .twaitExpiry gid lane => Sys2Proof.Machine.execTwaitExpiry gid lane s
  | .waddrReread gid lane => Sys2Proof.Machine.execWaddrReread gid lane s
  | .allocatorGrant core => Sys2Proof.Machine.execAllocatorGrant core s
  | .compactorMove core start target => Sys2Proof.Machine.execCompactorMove core start target s
  | .clearEngineGranule core => Sys2Proof.Machine.execClearEngineGranule core s
  | .sifterAgeCapExpiry core bin => Sys2Proof.Machine.execSifterAgeCapExpiry core bin s
  | .sifterBinDraw core bin => Sys2Proof.Machine.execSifterBinDraw core bin s
  | .gangEnd gid => Sys2Proof.Machine.execGangEnd gid s
  | .loadPerform gid id => Sys2Proof.Machine.execLoadPerform gid id s
  | .storeAck gid => Sys2Proof.Machine.execStoreAck gid s
  | .translationWalk core asid space va => Sys2Proof.Machine.execTranslationWalk core asid space va s
  | .memoryFaultPark gid => Sys2Proof.Machine.execMemoryFaultPark gid s
  | .faultRecordPost core => Sys2Proof.Machine.execFaultRecordPost core s
  | .faultAckRetry core seq => Sys2Proof.Machine.execFaultAckRetry core seq s
  | .faultAckDeliver core seq => Sys2Proof.Machine.execFaultAckDeliver core seq s
  | .faultAckKill core seq => Sys2Proof.Machine.execFaultAckKill core seq s
  | .dbgResume core seq => Sys2Proof.Machine.execDbgResume core seq s
  | .traySwitch core => Sys2Proof.Machine.execTraySwitch core s
  | .contextLoad core block => Sys2Proof.Machine.execContextLoad core block s
  | .backgroundSpill core => Sys2Proof.Machine.execBackgroundSpill core s
  | .sliceRequest slice src => Sys2Proof.Machine.execSliceRequest slice src s
  | .tileArrival tile => Sys2Proof.Machine.execTileArrival tile s
  | .tileEviction tile => Sys2Proof.Machine.execTileEviction tile s
  | .hotTilePromotion tile => Sys2Proof.Machine.execHotTilePromotion tile s
  | .hotTileDecay slice => Sys2Proof.Machine.execHotTileDecay slice s
  | .phaseCacheEviction core line => Sys2Proof.Machine.execPhaseCacheEviction core line s
  | .hbmRequest chan idx => Sys2Proof.Machine.execHbmRequest chan idx s
  | .pageReencrypt page => Sys2Proof.Machine.execPageReencrypt page s
  | .scrubLine line => Sys2Proof.Machine.execScrubLine line s
  | .copyChunk core id chunk => Sys2Proof.Machine.execCopyChunk core id chunk s
  | .copyComplete core id => Sys2Proof.Machine.execCopyComplete core id s
  | .mmaHandover core idx => Sys2Proof.Machine.execMmaHandover core idx s
  | .mmaAccept core => Sys2Proof.Machine.execMmaAccept core s
  | .mmaComplete core => Sys2Proof.Machine.execMmaComplete core s
  | .bagAdmit bag src => Sys2Proof.Machine.execBagAdmit bag src s
  | .bagPlace bag put stack bank => Sys2Proof.Machine.execBagPlace bag put stack bank s
  | .bagSettle bag op steward => Sys2Proof.Machine.execBagSettle bag op steward s
  | .bagCut bag cursor bank => Sys2Proof.Machine.execBagCut bag cursor bank s
  | .bagClaim bag op rec => Sys2Proof.Machine.execBagClaim bag op rec s
  | .bagFree bag idx => Sys2Proof.Machine.execBagFree bag idx s
  | .egressArbitration port idx => Sys2Proof.Machine.execEgressArbitration port idx s
  | .packetAgeSaturation pkt => Sys2Proof.Machine.execPacketAgeSaturation pkt s
  | .postDelivery pkt unit => Sys2Proof.Machine.execPostDelivery pkt unit s
  | .postAck pkt => Sys2Proof.Machine.execPostAck pkt s
  | .flitUncorr pkt => Sys2Proof.Machine.execFlitUncorr pkt s
  | .corruptHeader pkt => Sys2Proof.Machine.execCorruptHeader pkt s
  | .clusterReset cluster => Sys2Proof.Machine.execClusterReset cluster s
  | .partitionRestitch part => Sys2Proof.Machine.execPartitionRestitch part s
  | .queueBell queue => Sys2Proof.Machine.execQueueBell queue s
  | .queueSlotMap queue => Sys2Proof.Machine.execQueueSlotMap queue s
  | .queueExamine hwslot => Sys2Proof.Machine.execQueueExamine hwslot s
  | .clusterInstancePlace launch => Sys2Proof.Machine.execClusterInstancePlace launch s
  | .launchComplete launch => Sys2Proof.Machine.execLaunchComplete launch s
  | .sliceExpiry core queue => Sys2Proof.Machine.execSliceExpiry core queue s
  | .boot => Sys2Proof.Machine.execBoot s
  | .bootCmdRecover => Sys2Proof.Machine.execBootCmdRecover s
  | .keyLoad keySlot => Sys2Proof.Machine.execKeyLoad keySlot s
  | .keyErase keySlot => Sys2Proof.Machine.execKeyErase keySlot s
  | .xlatInv asid => Sys2Proof.Machine.execXlatInv asid s
  | .partCmd value => Sys2Proof.Machine.execPartCmd value s
  | .attestRequest => Sys2Proof.Machine.execAttestRequest s
  | .corePolicyWrite core value => Sys2Proof.Machine.execCorePolicyWrite core value s
  | .frecConfigWrite off value => Sys2Proof.Machine.execFrecConfigWrite off value s
  | .mgmtRegisterWrite off value => Sys2Proof.Machine.execMgmtRegisterWrite off value s
  | .supplySag die => Sys2Proof.Machine.execSupplySag die s
  | .supplyRecovery die => Sys2Proof.Machine.execSupplyRecovery die s
  | .marginReplan => Sys2Proof.Machine.execMarginReplan s
  | .postanLinkDown port => Sys2Proof.Machine.execPostanLinkDown port s
  | .postanLinkUp port => Sys2Proof.Machine.execPostanLinkUp port s
  | .reservationBudgetRefill => Sys2Proof.Machine.execReservationBudgetRefill s
  | .xlatInvDone asid => Sys2Proof.Machine.execXlatInvDone asid s
  | .fabricPortAccess src => Sys2Proof.Machine.execFabricPortAccess src s

end Sys2Proof.Machine
end

