-- ==== Sys2Proof/Machine/Run.lean ====
section
/-! DEFINITION. The run of one word for its bundle (R69, R74, R185, R189, R298), the resumption of bundles in completion waits
(R204), the events, and where a fetch reads (R52, R387). -/

namespace Sys2Proof.Machine

/-! ## Check mode (R189) -/

/-- The copy ID's s register of an `mma.a`, which stands in its immediate (R315). -/
def Instr.sidReads (i : Instr) : List Nat :=
  match i with
  | .mma f => if f.mod.getLsbD 0 then opCodes 1 (.s ((f.imm.extractLsb' 8 6).setWidth 8)) else []
  | _ => []

/-- The operand fields that an instruction reads, with the registers behind each: A, B, C, D, what stands elsewhere, the guard. A register
that an operand's value names (R144) is in `dyn`; a register of a group that a block-memory end leaves unread (R293, R297, R325) is not
there. -/
def Instr.fieldReads (i : Instr) (acts : Bool) (dyn : List Nat) : List (Opnd × List Nat) :=
  let f := i.fields
  let sh := i.shape
  let one := fun (r : Role) (o : Opnd) (skip : List Nat) => if r.rd then [(o, Role.reads r o skip)] else []
  let more := (Instr.moreReads i ++ Instr.sidReads i ++ dyn).map (fun c =>
    (if c < 256 then .v (BitVec.ofNat 8 c) else if c < 512 then .s (BitVec.ofNat 8 (c - 256)) else .p (BitVec.ofNat 8 (c - 512)), [c]))
  (if acts then one sh.a f.a (Instr.skipA i) ++ one sh.b f.b (Instr.skipB i) ++ one sh.c f.c (Instr.skipC i) ++ one sh.d f.d [] ++ more else []) ++
    (guardCodes f.guard).map (fun c => (.p (BitVec.ofNat 8 (c - 512)), [c]))

/-- The first field that reads a fixed-latency result too early at cycle `t`, and by how many cycles. -/
def Gang.earlyRead (g : Gang) (i : Instr) (acts : Bool) (dyn : List Nat) (t : Nat) : Option (Opnd × Nat) :=
  (Instr.fieldReads i acts dyn).findSome? (fun fr =>
    let early := (g.pend.filter (fun p => p.fixed && fr.2.contains p.reg)).filterMap (fun p =>
      p.done.bind (fun d => if t < d then some (d - t) else none))
    if early.isEmpty then none else some (fr.1, early.foldl max 0))

/-- The word raised illegal-operation, as a trap or as an escalation (R198, R201). -/
def State.raisedIllop (s s' : State) (gid : Nat) : Bool :=
  let g := s.gang gid
  let c := (s.core g.core).recQ
  let c' := (s'.core g.core).recQ
  (!g.trap && (s'.gang gid).trap && (s'.gang gid).tCause == 2) ||
    (decide (c.length < c'.length) && (c'.drop c.length).any (fun r => r.type == 3 && r.kind == 2 && r.gang == g.place))

/-! ## A word -/

/-- The tables and the lines of a word are read from main memory for its fetch (R231, R387, R397, R405); a PC that is not fetchable reads
nothing (R74). -/
def State.readCode (s : State) (gid : Nat) (pc : Word) : State :=
  let l := s.launchOf gid
  let idx := l.codeH % 2 ^ 16
  if !fetchable l.kwords pc then s
  else
    let s := s.readEnt l.asid idx
    let s := match s.bufEnt l.asid idx with
      | some e => if s.entBad l.asid idx then s
          else [0, 11].foldl (fun s k => s.readPage l.queue l.asid e (l.codeOff + pc.toNat + k)) s
      | none => s
    (s.codeLines l pc).foldl (fun s n => ((s.readLines (64 * n) 64 (s.codeKey l)).2).chanTake l.queue (64 * n) 64) s

/-- Correctable soft errors in registers that a word reads are counted and corrected; those of registers that it only writes are gone (R401,
R405). -/
def State.meetRegs (s : State) (gid : Nat) (rd wr : List Nat) : State :=
  let hit := s.soft.filter (fun e => match e with | .reg g c => g == gid && (rd.contains c || wr.contains c) | _ => false)
  let read := hit.filter (fun e => match e with | .reg _ c => rd.contains c | _ => false)
  if hit.isEmpty then s else iter (fun s => s.countMg 0x0200) read.length { s with soft := s.soft.filter (fun e => !hit.contains e) }

/-- A bundle is issued: the first of a gang opens its first phase, bundles are numbered, and the word is fetched. -/
def State.opens (s : State) : State :=
  let gid := s.cur.gid
  let s := if (s.gang gid).acq = 0 then s.acquire gid else s
  (s.modGang gid (fun g => { g with serial := g.serial + 1 })).readCode gid s.cur.pc

/-- The slot is busy until the bundle's last beat, `yield` is the word's Y, and the gang waits for its STALL (R102, R185, R192). -/
def State.occupy (s : State) (beats : Nat) (yield : Bool) (stall : Nat) : State :=
  let gid := s.cur.gid
  let g := s.gang gid
  let ended := s.cur.t + beats
  let s := s.modCore g.core (fun c => { c with slots := kmod c.slots (g.place / 48) (fun sl => { sl with busy := ended, yield := yield }) })
  s.modGang gid (fun g => { g with stallTo := max g.stallTo (ended + stall) })

/-- An illegal word (R74): it occupies one cycle, and neither its STALL nor its Y applies. -/
def State.runIllegal (s : State) (c : SubCause) : State :=
  let s := (s.withdrawArm s.cur.gid).occupy 1 false 0
  s.illegal s.cur.gid s.cur.pc s.cur.mask c

/-- A decoded word is issued for its bundle. -/
def State.runWord (s : State) (i : Instr) : Out :=
  let gid := s.cur.gid
  let f := i.fields
  let e := s.execLanes f
  let g := s.gang gid
  let dyn := s.dynReads gid s.cur.mask i
  let s := s.occupy (beatsOf i e) f.yield f.stall.toNat
  if g.arm.isSome && !Instr.armedMma i then .next ((s.withdrawArm gid).illop gid s.cur.pc e)
  else
    let s := if e = 0 then s.meetRegs gid (guardCodes f.guard) [] else s.meetRegs gid (Instr.reads i ++ dyn) (Instr.writes i)
    let out := exec i s
    match (if g.chk then g.earlyRead i (e != 0) dyn s.cur.t else none) with
    | none => out
    | some (o, n) =>
      let trap : Out := .next (s.takeTrap gid 0x04 0 (o.bits.setWidth 32 ||| BitVec.ofNat 32 (2 ^ 16 * min n 31)) s.cur.pc e none)
      match out with
      | .next s' => if s.raisedIllop s' gid then out else trap
      | _ => trap

/-- The bundle that a slot has chosen is issued: its word is fetched and decoded. Of a word that was rewritten, the next fetch finds another
value (R8, R387). -/
def State.runBundle (s : State) : Out :=
  let s := { s with issuing := false }.opens
  let w := s.wordAt s.cur.gid s.cur.pc s.cur.mask
  let s := s.refetched (s.block (s.gang s.cur.gid).block).launch s.cur.pc
  match w with
  | .error c => .next (s.runIllegal c)
  | .ok i => s.runWord i

/-! ## Completion waits (R204) -/

/-- What a held bundle waits for is over. -/
def State.condMet (s : State) (gid : Nat) (h : Held) : Bool :=
  let g := s.gang gid
  match h.cond with
  | .none => true
  | .loads ids => g.loads.all (fun l => !ids.contains l.id)
  | .stores => g.out.isEmpty
  | .copySlot => !(s.freeIds g.core).isEmpty
  | .batchRoom => decide (g.batches.length < 16)
  | .batches n => decide (g.batches.length ≤ n)
  | .posts n => decide (g.posts.length ≤ n)
  | .postRoom => decide (g.posts.length < 256)
  | .done ids => s.allDone ids
  | .extIdle => !g.extBusy (s.now g.core)
  | .puts n => !s.putsOpen gid n
  | .walk pages => pages.all (fun p =>
      h.bundle.absent.contains p || (s.cachedEnt g.core (s.launchOf gid).asid p.1 (p.2 * 2 ^ 16)).isSome)

/-- A word that the replay buffer issues again is held as a new bundle would be (R187, R209, R312), and while its gang is in trap state
(R208). -/
def State.replayHeld (s : State) (gid : Nat) (b : Bundle) (i : Instr) : Bool :=
  let g := s.gang gid
  let (ps, held) := s.slabHolds gid i
  let now := s.now g.core
  g.trap || held || (g.regHolds i [] ++ ps).any (fun p => p.stands now && (b.pid == 0 || p.id != b.pid))

/-- A held bundle may go on now: its gang runs, its wait is over, and nothing holds it back (R206). -/
def State.mayGoOn (s : State) (gid : Nat) (h : Held) : Bool :=
  let g := s.gang gid
  g.active && g.stop == .running && decide ((s.core g.core).frozen ≤ s.now g.core) && s.condMet gid h &&
    (match h.instr with
      | none => false
      | some i => !(h.parked && s.replayHeld gid h.bundle i) &&
          (!Instr.mayFault i || (g.fails.isEmpty && decide ((g.replay.filter (fun r => r.type == 1)).length < 4))))

/-- The held bundles that may go on, with their places. -/
def State.goers (s : State) : List (Nat × Nat) :=
  (s.gangs.map (fun kv => if kv.2.live && !kv.2.held.isEmpty then
    ((List.range kv.2.held.length).filter (fun k => match kv.2.held[k]? with
      | some h => s.mayGoOn kv.1 h
      | none => false)).map (fun k => (kv.1, k)) else [])).flatten

/-- A held bundle goes on: its threads leave the wait, the writes it kept outstanding are its own again, and its word acts. -/
def State.goOn (s : State) (gid k : Nat) : Out :=
  match (s.gang gid).held[k]? with
  | none => .next s
  | some h =>
    match h.instr with
    | none => .next s
    | some i =>
      let b := h.bundle
      let s := s.modGang gid (fun g =>
        { g.modLanes b.mask (fun t => if (t.st = .waiting ∧ t.wait = .comp) ∨ (t.st = .parked ∧ h.parked) then t.wake else t) with
          held := g.held.eraseIdx k
          pend := if b.pid = 0 then g.pend else g.pend.filter (fun p => !(p.done == none && p.id == b.pid)) })
      exec i { s with cur := { b with t := s.now (s.gang gid).core } }

/-! ## Events -/

/-- An event happens after the cycles before it have passed; a word is no event. -/
def State.runEvent (s : State) (e : Elapse) (i : Instr) : Out :=
  let s := s.pass e
  if i.isWord then .next s else exec i s

/-- The next event: the agenda's, or one that nothing fixes (R9). -/
def State.nextEvent (s : State) : Out :=
  match s.agenda with
  | (e, i) :: rest => { s with agenda := rest }.runEvent e i
  | [] => { s with free := s.free + 1 }.runEvent (Config.freeElapse s.free) (Config.freeEvent s.free)

/-- What may happen without an event of the table: a held bundle goes on, a bank performs a request (R223), or an attestation report that was
asked for is written (R412). -/
inductive Move where
  | go (gid k : Nat)
  | bank (r : Req)
  | attest
  deriving DecidableEq, Repr, Inhabited

/-- The moves that are possible. -/
def State.moves (s : State) : List Move :=
  s.goers.map (fun x => .go x.1 x.2) ++ s.bankReady.map .bank ++ (if s.mg 0x0440 = 1 then [.attest] else [])

/-- A core whose gangs all wait for granules that nothing will free takes its trap (R117), however the last of them came to wait. -/
def State.deadlocks (s : State) : State :=
  (s.cores.filter (fun kv => !kv.2.allocQ.isEmpty)).foldl (fun s kv => s.allocDeadlock kv.1) s

/-- One of the moves, or the next event, in no fixed order. -/
def State.advanceMachine (s : State) : Out :=
  let s := s.deadlocks
  match s.moves with
  | [] => s.nextEvent
  | l =>
    let (k, s) := s.choose (l.length + 1)
    match l[k]? with
    | some (.go gid n) => s.goOn gid n
    | some (.bank r) => .next (s.bankServe r)
    | some .attest => .next s.attest
    | none => s.nextEvent

/-! ## A program in place (R231, R387) -/

/-- The bytes of a word stand in main memory from where the current bundle's word is fetched. -/
def State.fetchPas (s : State) : Option (List Nat) :=
  let l := s.launchOf s.cur.gid
  if s.issuing && fetchable l.kwords s.cur.pc && (kfind l.rewritten (s.cur.pc.toNat / 12)).isNone &&
      (s.codeLines l s.cur.pc).all (fun n => !s.lineBad (s.codeKey l) n && (kget s.lineInfo n).flips == 0) then
    let ls := (List.range 12).map (fun k => match s.codeLoc (s.launchOf s.cur.gid) (s.cur.pc.toNat + k) with
      | some (.hbm pa) => if hbmExists pa then some pa else none
      | _ => none)
    if ls.all Option.isSome then some (ls.map (fun l => l.getD 0)) else none
  else none

/-- Stores a list of bytes at a list of addresses. -/
def storeAll (m : Memory) : List (Nat × Byte) → Memory
  | [] => m
  | (a, b) :: rest => storeAll (memSet m a b) rest

/-- Where the program that `State.withProgram` places, its buffer table and its translation tables lie. -/
abbrev progBase : Nat := 0x0A0000000

/-- A program of one word in place: a context, a buffer and translations for ASID 1023, a launch of one block of one gang, placed on
core 0 with all its threads ready at its word, which slot 0 has chosen. -/
def State.withProgram (s : State) (bytes : List Byte) : State :=
  let l := s.next + 1
  let b := s.next + 2
  let gid := s.next + 3
  let c := s.ctxAddr 1023
  let m := s.hbm
  let m := memWrite m c 8 (progBase + 0x1000)
  let m := memWrite m (c + 8) 4 1
  let m := memWrite m (c + 12) 4 (2 ^ 8)
  let m := memWrite m (c + 16) 8 (progBase + 0x2000)
  let m := memWrite m (progBase + 0x2000) 8 (progBase + 0x3000 + 3)
  let m := memWrite m (progBase + 0x3000) 8 (progBase + 0x4000 + 3)
  let m := memWrite m (progBase + 0x4000) 8 (progBase + 0x200000 + 1)
  let m := memWrite m (progBase + 0x1000) 32 (1023 * 2 ^ 222 + 1 * 2 ^ 200 + kindBulk * 2 ^ 197 + rightC * 2 ^ 191 + 4096 * 2 ^ 128)
  let m := storeAll m ((List.range bytes.length).map (fun k => (progBase + 0x200000 + k, bytes.getD k 0)))
  let place := s.newPlace 0
  let (threads, s) := s.newThreads 1023 (fun j => (.ready, 0, BitVec.ofNat 32 j))
  let now := s.now 0
  let g := newGang b 0 0 place 64 threads [] now
  let s := { s with hbm := m, next := s.next + 3, issuing := true }
  let s := s.setLaunch l { (default : Launch) with phase := 2, asid := 1023, kwords := 1, ngang := 1, nblk := 1, nclu := 1, nstk := 1,
                                                   regs := 64, slabs := 16, blkmem := 4096, ageCap := 16, sigH := 0xFFFFFFFF, blocks := [b] }
  let s := s.setBlock b { (default : Block) with live := true, launch := l, gangs := [gid], ngang := 1, blkmem := 4096, slabs := 16,
                                                 slab := (List.range 16).map (fun k => (k, Slab.reset)) }
  let s := s.modCore 0 (fun co => { co with allocs := co.allocs ++ [{ gid := gid, ext := false, start := 0, size := 4 }] })
  let s := s.setGang gid { g with cleared := true, base := some 0 }
  { s with cur := { gid := gid, mask := BitVec.allOnes 32, pc := 0, t := now, exec := none, word := none, snap := none, stage := 0,
                    serial := 1, absent := [], pid := 0, replay := false, pkt := 0, cmd := none, posts := []
                    iss := { clk := now, core := 0, hi := 0 } } }

end Sys2Proof.Machine
end

