-- ==== Sys2Proof/Machine/Step.lean ====
section
/-! DEFINITION. One step of the machine, and a word put where the next step fetches. -/

namespace Sys2Proof.Machine

/-- One step: a fault that a step before raised stops the machine; a bundle that a slot has chosen is issued; else a bundle leaves its
completion wait, or the next event happens. -/
def step (s : State) : Host.Outcome State Fault Refusal :=
  match s.err with
  | some f => .fault f
  | none => if s.issuing then s.runBundle else s.advanceMachine

/-- The state with an instruction where `step` fetches its next one: at the chosen bundle's PC where its code can be written there,
else as a program of its own, loaded, placed and chosen. -/
def State.withFetchWord (s : State) (nbits w : Nat) : State :=
  match s.fetchPas with
  | some pas => { s with hbm := storeAll s.hbm (pas.zip (tableBytes nbits w)), err := none }
  | none => { s with err := none }.withProgram (tableBytes nbits w)

end Sys2Proof.Machine
end

