-- ==== Sys2Proof/Safety.lean ====
section
/-! DEFINITION. The terms that statements about the machine use: what a word of a bundle leaves unchanged, what it writes, what
taking a trap does, and the invariants of the state. -/

namespace Sys2Proof.Machine

/-- The keys of a map stand in strictly ascending order, as every operation of the machine keeps them. -/
abbrev Keyed {α : Type} (m : KMap α) : Prop := (m.map Prod.fst).Pairwise (· < ·)

/-! ## Frames -/

/-- The gang whose bundle is being issued. -/
def State.me (s : State) : Gang := s.gang s.cur.gid

/-- Nothing but gang `gid` changes: every byte of main, host and block memory, every tile, request, core, block, launch, copy, bag, post,
queue and management register, the clock, and every other gang are the same. -/
def OnlyGang (gid : Nat) (s t : State) : Prop := t = s.setGang gid (t.gang gid)

/-- Of a gang, only its threads, registers, taints, outstanding writes, flags and the latched half of the clock change: masks, trap
registers, loads, stores, waits and all else are the same. -/
def Gang.SameFrame (g h : Gang) : Prop :=
  h = { g with threads := h.threads, regs := h.regs, taint := h.taint, pend := h.pend, flags := h.flags, clkh := h.clkh }

/-- The threads of `m` go on at the word after their own, with their block states one position further (R53, R68); no other thread
changes. -/
def Gang.MovesOn (g h : Gang) (m : Lanes) : Prop :=
  ∀ l, l < 32 → h.thread l =
    if m.getLsbD l then { g.thread l with pc := (g.thread l).pc + 12, blk := (g.thread l).blk.bind Blk.step } else g.thread l

/-- The threads of `m` go on at the next word, but those of `e` for which `to` names a target go on there (R152). -/
def Gang.GoesTo (g h : Gang) (m e : Lanes) (toward : Nat → Option Word) : Prop :=
  ∀ l, l < 32 → h.thread l =
    if m.getLsbD l then
      { g.thread l with
        pc := if e.getLsbD l then (toward l).getD ((g.thread l).pc + 12) else (g.thread l).pc + 12
        blk := (g.thread l).blk.bind Blk.step }
    else g.thread l

/-- No register of a gang changes, in any lane. -/
def Gang.SameRegs (g h : Gang) : Prop := ∀ c l, l < 32 → h.regs.codeVal c l = g.regs.codeVal c l

/-! ## Results -/

/-- What a result puts into register `c` of lane `l`, if anything (R54, R58, R60): a v destination takes each executing lane's own
value, an s destination the value of the lowest executing lane, a predicate bit 0 of the lane's value, or in a uniform form of the lowest
executing lane's; `vz` takes nothing. -/
def resultIn (o : Opnd) (uni : Bool) (e : Lanes) (n : Nat) (val : Nat → BitVec 128) (c l : Nat) : Option Word :=
  if e = 0 then none
  else match o with
    | .v x => if x ≠ 255 ∧ e.getLsbD l = true ∧ x.toNat ≤ c ∧ c < x.toNat + n then some ((val l >>> (32 * (c - x.toNat))).setWidth 32) else none
    | .s x =>
      if 256 + x.toNat ≤ c ∧ c < 256 + x.toNat + n then some ((val (lowLane e) >>> (32 * (c - 256 - x.toNat))).setWidth 32) else none
    | .p x =>
      if c = 512 + x.toNat ∧ e.getLsbD l = true then some (if (val (if uni then lowLane e else l)).getLsbD 0 then 1 else 0) else none
    | .q _ => none

/-- The registers after a result: the destination as `resultIn` says, every other register of every lane the same. -/
def Gang.Wrote (g h : Gang) (o : Opnd) (uni : Bool) (e : Lanes) (n : Nat) (val : Nat → BitVec 128) : Prop :=
  ∀ c l, l < 32 → h.regs.codeVal c l = (resultIn o uni e n val c l).getD (g.regs.codeVal c l)

/-- The taints after a result of taint `x` (R125): a register written takes `x` where it is uniform or every live thread of the gang
executes, else its old taint united with `x`, SAT left out while the gang has no load outstanding (R250); no other register's taint changes. -/
def Gang.Tainted (g h : Gang) (codes : List Nat) (e : Lanes) (x : Taint) : Prop :=
  ∀ c, sget h.taint c =
    if c ∈ codes then
      (if (256 ≤ c ∧ c < 512) ∨ (g.lanesWith (fun t => !t.gone)) &&& ~~~e = 0 then h.standing x else sget g.taint c ||| h.standing x)
    else sget g.taint c

/-- The registers written have an outstanding write that ends `lat` cycles after the bundle's last beat (R186). -/
def Gang.Awaits (h : Gang) (codes : List Nat) (ended : Nat) (fixed : Bool) : Prop :=
  ∀ c ∈ codes, ∃ p ∈ h.pend, p.reg = c ∧ p.done = some ended ∧ p.fixed = fixed

/-- The latched high half of the clock after a bundle (R416). -/
def State.clkhAfter (s : State) (i : Instr) (e : Lanes) : Word :=
  if Instr.readsClk i = true ∧ e ≠ 0 ∧ s.cur.snap = none then BitVec.ofNat 32 (s.cur.iss.clk / 2 ^ 32) else s.me.clkh

/-- A thread after the word: one of the bundle goes on at the next word (R53, R68), any other stays as it is. -/
def State.passed (s : State) (l : Nat) : Thread :=
  if s.cur.mask.getLsbD l then { s.me.thread l with pc := (s.me.thread l).pc + 12, blk := (s.me.thread l).blk.bind Blk.step } else s.me.thread l

/-- No register of any gang changes. -/
def SameRegisters (s t : State) : Prop := ∀ g, (t.gang g).regs = (s.gang g).regs

/-- No stored byte changes: main memory, the host's, tiles with their logs, and block memory and slabs. -/
def SameMemory (s t : State) : Prop :=
  t.hbm = s.hbm ∧ t.host = s.host ∧ t.tiles = s.tiles ∧ ∀ b, (t.block b).mem = (s.block b).mem ∧ (t.block b).slab = (s.block b).slab

/-- Of a gang, a word changes only its threads and the latched half of the clock; of the machine, only the gang. -/
def ThreadsOnly (i : Instr) (th : Nat → Thread) (s t : State) : Prop :=
  OnlyGang s.cur.gid s t ∧ t.me = { s.me with threads := t.me.threads, clkh := s.clkhAfter i (s.execLanes i.fields) } ∧
    ∀ l, l < 32 → t.me.thread l = th l

/-- A word has written `n` registers of its destination, with taint `x`, and moved on: everything that it changes, and that nothing else
changes. The flags `fl` are ORed into the gang's (R85). With no executing thread it only moves on. -/
structure Gave (i : Instr) (n lat : Nat) (fixed : Bool) (val : Nat → BitVec 128) (x : Taint) (fl : BitVec 5) (toward : Nat → Option Word)
    (s t : State) : Prop where
  frame : OnlyGang s.cur.gid s t
  gang  : s.me.SameFrame t.me
  moved : s.me.GoesTo t.me s.cur.mask (s.execLanes i.fields) toward
  regs  : s.me.Wrote t.me i.fields.d (Instr.uniform i) (s.execLanes i.fields) n val
  taint : s.me.Tainted t.me (if s.execLanes i.fields = 0 then [] else opCodes n i.fields.d) (s.execLanes i.fields) x
  await : s.execLanes i.fields ≠ 0 → t.me.Awaits (opCodes n i.fields.d) (s.lastBeat i (s.execLanes i.fields) + lat) fixed
  flags : t.me.flags = s.me.flags ||| fl
  clkh  : t.me.clkh = s.clkhAfter i (s.execLanes i.fields)

/-- Flags of the executing threads, ORed; a uniform form raises those of the lowest executing thread. -/
def orFlags (uni : Bool) (e : Lanes) (fl : Nat → BitVec 5) : BitVec 5 :=
  if e = 0 then 0 else if uni then fl (lowLane e) else (lanesOf e).foldl (fun x l => x ||| fl l) 0

/-- A word that gives each thread the value `val` of `n` registers and raises the flags `raised` (R85), and changes nothing else, completes;
where a trap is enabled for a flag that it raised, the gang, the word complete, then takes that trap (R86). -/
def Completes (i : Instr) (n lat : Nat) (fixed : Bool) (val : Nat → BitVec 128) (raised : BitVec 5) (s : State) : Prop :=
  ∃ t, Gave i n lat fixed val (s.me.newTaint i (s.execLanes i.fields)) raised (fun _ => none) s t ∧
    exec i s = .next (if raised &&& s.me.ten = 0 then t
      else t.takeTrap s.cur.gid 0x03 0 (raised.setWidth 32) s.cur.pc (s.execLanes i.fields) none)

/-- An arithmetic word completes: one register of 32 bits, or a pair in a 64-bit form, written with latency `lat` (R125, R186), and the flags that
the threads raise. -/
def Arith (i : Instr) (lat : Nat) (val : Nat → BitVec 64) (fl : Nat → BitVec 5) (s : State) : Prop :=
  Completes i (if tyWide i.fields.ty then 2 else 1) lat true (fun l => (val l).setWidth 128)
    (orFlags (Instr.uniform i) (s.execLanes i.fields) fl) s

/-- A word with neither result nor flag, whose executing threads go where `to` says and all others of the bundle on, does so and nothing else. -/
def Goes (i : Instr) (toward : Nat → Option Word) (s : State) : Prop :=
  ∃ t, exec i s = .next t ∧ Gave i 0 0 true (fun _ => 0) 0 0 toward s t

/-- No flag. -/
def noFlags : Nat → BitVec 5 := fun _ => 0

/-- The fold of a list of values, with the flags of all its steps (R149). -/
def foldFrom (step : Word → Word → Word × BitVec 5) (x : Word) (ys : List Word) : Word × BitVec 5 :=
  ys.foldl (fun a y => ((step a.1 y).1, a.2 ||| (step a.1 y).2)) (x, 0)

/-! ## Operands of an arithmetic word (R33, R54, R57, R121) -/

/-- A's value in a lane, a pair in a 64-bit form. -/
def State.valA (s : State) (f : Fields) (l : Nat) : BitVec 64 := s.readOp s.view l (tyWide f.ty) f.a
/-- B's, or the immediate of an I form. -/
def State.valB (s : State) (f : Fields) (l : Nat) : BitVec 64 := s.srcB f s.view l
/-- C's, or the old D of layout 3I. -/
def State.valC (s : State) (f : Fields) (l : Nat) : BitVec 64 := s.srcC f s.view l

/-- The result of an integer operation of exact value `x` (R78, R128): clamped to the type's range with `.sat`, then x modulo 2^w, extended. -/
def intResult (f : Fields) (x : Int) : BitVec 64 :=
  writeInt f.ty (if f.opx = 1 then max (tyLo f.ty) (min (tyHi f.ty) x) else x)

/-! ## Floating-point values -/

/-- The fp32 value of a lane's raw operand, 32 bits. -/
def bits32 (x : BitVec 64) : Nat := x.toNat % 2 ^ 32

/-- A result and its flags, as an arithmetic word of fp32 gives them in each lane. -/
def ArithF (i : Instr) (lat : Nat) (res : Nat → Nat × BitVec 5) (s : State) : Prop :=
  Arith i lat (fun l => BitVec.ofNat 64 (res l).1) (fun l => (res l).2) s

/-- 2^149 times the value of an fp32 number that is no NaN, an infinity standing beyond every finite number. -/
def fp32Scaled (bits : Nat) : Int :=
  match Fp.read fp32 bits with
  | .nan _ => 0
  | .inf n => if n then -(2 ^ 300) else 2 ^ 300
  | .fin n m e => if n then -((m * 2 ^ (e + 149).toNat : Nat) : Int) else ((m * 2 ^ (e + 149).toNat : Nat) : Int)

/-- Bits of a format hold a NaN. -/
abbrev isNaNBits (f : FpFmt) (bits : Nat) : Prop := f.infBits < bits % f.signBit

/-- Bits of a format hold a signalling NaN: the top fraction bit is 0 (R79). -/
abbrev isSNaNBits (f : FpFmt) (bits : Nat) : Prop := isNaNBits f bits ∧ bits / 2 ^ (f.mbits - 1) % 2 = 0

/-! ## Accesses -/

/-- The threads whose access the word makes: each executing thread, or for the bundle of a uniform form the lowest (R60, R124). -/
def State.askers (s : State) (i : Instr) : List Nat :=
  if Instr.uniform i then [lowLane (s.execLanes i.fields)] else lanesOf (s.execLanes i.fields)

/-- The taint wait of R251 is over: the word comes back from it, or no load in its operands' taint is outstanding. -/
def State.taintClear (s : State) (i : Instr) : Prop :=
  s.cur.stage ≠ 0 ∨ s.me.taintLoads (s.me.newTaint i (s.execLanes i.fields)) = []

/-- Some thread executes the word, its taint wait is over, every access passes its checks with the target that `oks` gives for its thread,
the targets exist, and no watchpoint matches. -/
structure Passes (i : Instr) (m : Ask) (chk : Nat → Chk) (oks : List (Nat × Target)) (s : State) : Prop where
  acts      : s.execLanes i.fields ≠ 0
  clear     : s.taintClear i
  lanes     : oks.map Prod.fst = s.askers i
  checks    : ∀ o ∈ oks, chk o.1 = .ok o.2
  there     : ∀ o ∈ oks, ∀ pa, o.2.loc = .hbm pa → hbmExists pa = true
  unwatched : ∀ o ∈ oks, ∀ k, k < 4 → s.watchHit s.me.core (s.launchOf s.cur.gid).asid o.2 m k = false

/-- The state in which a word whose checks gave the targets `ts` acts: `sp.clk` is latched where the word reads it, its gang is held where a translation cache was asked
(R196), and the entries of its handles have been read (R226, R405). -/
def State.asked (s : State) (i : Instr) (asks : Bool) (ts : List Target) : State := s.checked i asks (ts.map Chk.ok)

/-- No thread waits in a `waddr`. -/
def NoWatchers (s : State) : Prop := ∀ g l w, ((s.gang g).thread l).wait ≠ .waddr w ∧ ((s.gang g).thread l).savedWait ≠ .waddr w

/-- The load record that a word starts: the lowest free tag or SAT (R250), its destination, type and lanes. -/
def Gang.Started (g : Gang) (l : LoadOp) (i : Instr) (e : Lanes) : Prop :=
  (l.tag < 16 ∨ l.tag = 16) ∧ (∀ x ∈ g.loads, x.tag = l.tag → l.tag = 16) ∧ (∀ k, k < l.tag → ∃ x ∈ g.loads, x.tag = k) ∧
    l.dst = i.fields.d ∧ l.ty = i.fields.mty ∧ l.lanes = e ∧ l.uni = Instr.uniform i

/-- What a word that starts a load does beside its accesses: the record joins the gang's loads, its destination is outstanding with the taint of its
operands and its tag (R187, R250), the bundle moves on, and no register, store-buffer entry, mask, flag or trap register changes. -/
structure StartsLoad (i : Instr) (n : Nat) (l : LoadOp) (tag : Taint) (s t : State) : Prop where
  loads   : t.me.loads = s.me.loads ++ [l]
  regs    : t.me.regs = s.me.regs
  taint   : s.me.Tainted t.me (opCodes n i.fields.d) (s.execLanes i.fields) tag
  waits   : ∀ c ∈ opCodes n i.fields.d, ∃ p ∈ t.me.pend, p.reg = c ∧ p.done = none ∧ p.id = l.id ∧ p.fixed = false
  threads : ∀ k, k < 32 → t.me.thread k = s.passed k
  rest    : t.me = { s.me with loads := t.me.loads, pend := t.me.pend, taint := t.me.taint, threads := t.me.threads, clkh := t.me.clkh,
                               stallTo := t.me.stallTo, ovf := t.me.ovf, spSet := t.me.spSet }
  others  : ∀ g, g ≠ s.cur.gid → t.gang g = { s.gang g with ovf := (t.gang g).ovf }

/-- What a word does beside its accesses that only sends requests: the bundle moves on, and of its gang nothing else changes but the
unacknowledged-store counter, the gang's next issue and marks of the phase cache; no other gang but for those marks. -/
structure Sends (s t : State) : Prop where
  threads : ∀ k, k < 32 → t.me.thread k = s.passed k
  rest    : t.me = { s.me with threads := t.me.threads, clkh := t.me.clkh, stallTo := t.me.stallTo, ovf := t.me.ovf, out := t.me.out }
  others  : ∀ g, g ≠ s.cur.gid → t.gang g = { s.gang g with ovf := (t.gang g).ovf }

/-- `r` is the request of a lane's access on path T: its kind, place, width and source, and its threads. -/
def Req.Asks (r : Req) (s : State) (i : Instr) (kind : ReqKind) (w : Nat) (o : Nat × Target) : Prop :=
  r.kind = kind ∧ r.loc = o.2.loc ∧ r.width = w ∧ r.lane = o.1 ∧ r.gid = s.cur.gid ∧ r.src = s.me.core ∧ r.path = .t ∧ r.pc = s.cur.pc ∧
    r.handle = o.2.handle ∧ r.off = o.2.off ∧ r.key = o.2.key ∧ r.lanes = (if Instr.uniform i then s.execLanes i.fields else laneBit o.1)

/-- The requests that a word sends, one for each access in order, joined at the end of the requests on their way. -/
def SendsEach {α : Type} (s t : State) (oks : List α) (P : α → Req → Prop) : Prop :=
  t.reqs.take s.reqs.length = s.reqs ∧ t.reqs.length = s.reqs.length + oks.length ∧
    ∀ k o r, oks[k]? = some o → t.reqs[s.reqs.length + k]? = some r → P o r

/-- The parts of `n` words that accesses of block memory are made in, each with its number (R223). -/
def wordParts (n : Nat) (oks : List (Nat × Target)) : List ((Nat × Target) × Nat) :=
  oks.flatMap (fun o => (List.range n).map (fun k => ((o.1, { o.2 with loc := o.2.loc.plus (4 * k), off := o.2.off + 4 * k }), k)))

/-- The threads that issued a request to a bank of block memory stand in it (R158, R272), its lane says its place in the bundle's order (R104). -/
def Req.AtBank (r : Req) (s : State) : Prop :=
  r.who = (lanesOf r.lanes).map (fun l => (s.me.thread l).tid) ∧ r.order = r.lane ∧ r.serial = s.cur.serial

/-- A command takes the slot of a free ID (R290): its copy stands in the slot, the key joins the open batch, D holds the ID with latency 4, the bundle moves on,
and no other slot, gang, register, byte of memory or slab changes. -/
structure TakesSlot (i : Instr) (id : Nat) (c : Copy) (s t : State) : Prop where
  free    : id < 512 ∧ kfind s.copies (512 * s.me.core + id) = none
  slot    : kfind t.copies (512 * s.me.core + id) = some c
  slots   : ∀ k, k ≠ 512 * s.me.core + id → kfind t.copies k = kfind s.copies k
  owner   : c.gid = s.cur.gid ∧ c.block = s.me.block ∧ c.asid = (s.launchOf s.cur.gid).asid ∧ c.pc = s.cur.pc ∧ c.lanes = s.execLanes i.fields
  batch   : t.me.open_ = s.me.open_ ++ [512 * s.me.core + id] ∧ t.me.batches = s.me.batches
  result  : s.me.Wrote t.me i.fields.d true (s.execLanes i.fields) 1 (fun _ => BitVec.ofNat 128 id)
  threads : ∀ l, l < 32 → t.me.thread l = s.passed l
  rest    : t.me = { s.me with threads := t.me.threads, clkh := t.me.clkh, stallTo := t.me.stallTo, open_ := t.me.open_, regs := t.me.regs, taint := t.me.taint,
                               pend := t.me.pend, arm := t.me.arm, ppValid := t.me.ppValid }
  others  : ∀ g, g ≠ s.cur.gid → t.gang g = { s.gang g with ppValid := (t.gang g).ppValid }
  machine : t = { s with gangs := t.gangs, copies := t.copies, next := t.next, free := t.free }

/-- `c` is the command `x` in its slot: all of it but what the slot gives, the number, the owner and the place of issue. -/
def Copy.SameCommand (x c : Copy) : Prop :=
  c = { x with serial := c.serial, gid := c.gid, block := c.block, asid := c.asid, pc := c.pc, lanes := c.lanes, blks := c.blks }

/-- The word writes slab `k` of the block: its new contents and configuration satisfy `P`, the write is outstanding for `lat` cycles after the last beat (R312, R326),
PPOINT.LIVE.VALID clears in every gang of the block (R181), the bundle moves on, and no other slab, register or byte of memory changes. -/
structure WritesSlab (i : Instr) (k lat : Nat) (P : Slab → Slab → Prop) (s t : State) : Prop where
  slab    : P (kget (s.block s.me.block).slab k) (kget (t.block s.me.block).slab k)
  slabs   : ∀ j, j ≠ k → kget (t.block s.me.block).slab j = kget (s.block s.me.block).slab j
  blocks  : (∀ b, b ≠ s.me.block → t.block b = s.block b) ∧ t.block s.me.block = { s.block s.me.block with slab := (t.block s.me.block).slab }
  pending : ∃ p ∈ t.me.pend, p.reg = 768 + k ∧ p.done = some (s.lastBeat i (s.execLanes i.fields) + lat)
  valid   : ∀ g ∈ (s.block s.me.block).gangs, (t.gang g).ppValid = false
  threads : ∀ l, l < 32 → t.me.thread l = s.passed l
  machine : t = { s with gangs := t.gangs, blocks := t.blocks }

/-- A word leaves its executing threads in the completion wait `c` (R204), at the word; the others of the bundle move on. No register changes. -/
def HeldFor (i : Instr) (c : HoldCond) (s t : State) : Prop :=
  SameRegisters s t ∧ (∃ h ∈ t.me.held, h.cond = c ∧ h.bundle.mask = s.execLanes i.fields ∧ h.bundle.word = some (encode i) ∧ h.bundle.snap = some s.view) ∧
    ∀ l, l < 32 → t.me.thread l = if (s.execLanes i.fields).getLsbD l then { s.me.thread l with st := .waiting, wait := .comp } else s.passed l

/-- A bag instruction is under way as number `id` (R344): its record holds what its results need, its destinations are outstanding and tainted under R125, the bundle
moves on, and no register, no other gang and no byte of memory changes. -/
structure StartsBagOp (i : Instr) (n pd id : Nat) (x : BagOp) (s t : State) : Prop where
  found   : kfind t.bagOps id = some x
  ops     : ∀ k, k ≠ id → kfind t.bagOps k = kfind s.bagOps k
  record  : x.gid = s.cur.gid ∧ x.lanes = s.execLanes i.fields ∧ x.pc = s.cur.pc ∧ x.uni = Instr.uniform i ∧ x.dst = i.fields.d ∧ x.n = n ∧ x.pd = pd
  waits   : ∀ c ∈ opCodes n i.fields.d ++ pdCode pd, ∃ p ∈ t.me.pend, p.reg = c ∧ p.done = none ∧ p.id = id
  taint   : s.me.Tainted t.me (opCodes n i.fields.d ++ pdCode pd) (s.execLanes i.fields) (s.me.newTaint i (s.execLanes i.fields))
  threads : ∀ l, l < 32 → t.me.thread l = s.passed l
  rest    : t.me = { s.me with threads := t.me.threads, clkh := t.me.clkh, stallTo := t.me.stallTo, taint := t.me.taint, pend := t.me.pend }
  others  : ∀ g, g ≠ s.cur.gid → t.gang g = s.gang g
  machine : t = { s with gangs := t.gangs, bags := t.bags, bagOps := t.bagOps, cursors := t.cursors, next := t.next, undefs := t.undefs }

/-! ## Invariants -/

/-- Every byte map of the machine is in canonical form: main and host memory, the firmware images, the frames of the tiles, block memory and what
ended blocks left in it. Equal memories are then equal data. -/
structure MemoryForm (s : State) : Prop where
  hbm    : Memory.wf s.hbm = true
  host   : Memory.wf s.host = true
  flash  : Memory.wf s.flash = true
  image  : Memory.wf s.image = true
  tiles  : ∀ kv ∈ s.tiles, Memory.wf kv.2.data = true
  blocks : ∀ kv ∈ s.blocks, Memory.wf kv.2.mem = true
  cores  : ∀ kv ∈ s.cores, Memory.wf kv.2.bmem = true

end Sys2Proof.Machine
end

