-- ==== Sys2Proof/Certificates/Slice0/Obligations.lean ====
section
/-! DEFINITION. The statements about the FT960. -/

open Sys2Proof Sys2Proof.Machine

/-! ## Encodings -/

/-- R51, R54, R56, R63, R64, R72: words written out bit by bit from the spec's encodings decode to the instructions that they stand for:
`mul.n32 v4, v2, 5 | s4`, `shfl.xor.b32 v4, v1, 1`, `bsync 2, s5`, `pfence.t.c`, and `mma q2, q0, q1, v20, v22, 1`; a word of one bits is no instruction. -/
def Obligations.WordsDecodeAsWritten : Prop :=
  let f : Fields := { guard := 7, stall := 0, yield := false, slot := 0, mod := 0, d := .v 0, a := .v 0, b := .v 0, c := .v 0, imm := 0 }
  decode DecodeCtx.widest 0x025C81600100200000000005 = .ok (.mul { f with slot := 1, stall := 4, mod := 0x160, d := .v 4, a := .v 2, imm := 5 }) ∧
  decode DecodeCtx.widest 0x325C00430100100000000001 = .ok (.shfl { f with slot := 1, mod := 0x043, d := .v 4, a := .v 1, imm := 1 }) ∧
  decode DecodeCtx.widest 0x4D1C00020010500000000000 = .ok (.bsync { f with mod := 2, a := .s 5 }) ∧
  decode DecodeCtx.widest 0x689C00480000000000000000 = .ok (.pfence { f with slot := 2, mod := 0x048 }) ∧
  decode DecodeCtx.widest 0x91DC0000C0B0005016000011 = .ok (.mma { f with slot := 3, d := .q 2, a := .q 0, b := .v 20, c := .v 22, imm := 0x11 }) ∧
  decode DecodeCtx.widest 0xFFFFFFFFFFFFFFFFFFFFFFFF = .error .opcode

/-- R51, R54, R56, R72: decoding the word that `encode` gives for a well-formed instruction gives the instruction, with every operand, guard, STALL, Y,
MOD and immediate that the encoding admits, for all 131 instruction words. -/
def Obligations.DecodeOfEncode : Prop :=
  ∀ i : Instr, WellFormed i → decode DecodeCtx.widest (encode i) = .ok i

/-- R51, R55, R73: a decoded word is the word of the instruction that it decodes to: no two words stand for one instruction, and the decoder reads or
checks every bit. -/
def Obligations.EncodeOfDecode : Prop :=
  ∀ (ctx : DecodeCtx) (w : IWord) (i : Instr), decode ctx w = .ok i → encode i = w

/-- R53, R55, R67, R69, R73: of a word with an assigned opcode, guard 15 anywhere, and any guard but `pt` on `pblk` or on a covered word, is rejected as GUARD; with any other
guard a reserved field, bits 75 and 74, that is not zero is rejected as RESERVED, whatever else the word holds; an opcode that the grid does not assign is rejected as OPCODE before
either. -/
def Obligations.RejectedWords : Prop :=
  ∀ (ctx : DecodeCtx) (w : IWord),
    let q := w.extractLsb' 88 8
    let f := fieldsOf (fmtOf (opOf w)) w
    let assigned := (Instr.ofQuad q f).isSome = true ∧ (quadSlots q f).getLsbD f.slot.toNat = true
    (¬ assigned → decode ctx w = .error .opcode) ∧
    let guard := w.extractLsb' 82 4
    let refused := guard = 15 ∨ (guard ≠ 7 ∧ (ctx.covered = true ∨ ∃ x, Instr.ofQuad q f = some (.pblk x)))
    (assigned → refused → decode ctx w = .error .guard) ∧
    (assigned → ¬ refused → w.extractLsb' 74 2 ≠ 0 → decode ctx w = .error .reserved)

/-! ## Steps, reset and the form of memory -/

/-- R52, R101, R189, R204, R263, R298, R405: a step that issues a bundle opens it: a gang's first bundle opens its first phase, the bundle is counted, and the tables and lines of its
word are read from main memory. Where the word then decodes to an instruction, the step is that instruction's `exec` on the state in which the slot is busy for the word's beats and
holds the word's Y, the gang waits for its STALL, and soft errors of the registers that the word reads or writes have been met. Two cases run no `exec`: a word that follows an armed copy and is no armed `mma` withdraws the arm and is illegal-operation; and
in check mode a word that reads a fixed-latency result too early, and is not illegal-operation, takes the stall-count trap, with the operand field and the number of cycles,
and has no other effect.
The model's choices in it: log entries 16 and 18. -/
def Obligations.StepRunsDecodedWord : Prop :=
  ∀ (s : State) (i : Instr), s.err = none → s.issuing = true →
    let gid := s.cur.gid
    let s1 := { s with issuing := false }
    let o := ((if s.me.acq = 0 then s1.acquire gid else s1).modGang gid (fun g => { g with serial := g.serial + 1 })).readCode gid s.cur.pc
    let e := s.execLanes i.fields
    let o' := o.refetched (s.block s.me.block).launch s.cur.pc
    let dyn := o'.dynReads gid s.cur.mask i
    let early := s.me.earlyRead i (e != 0) dyn s.cur.t
    let u := o'.occupy (beatsOf i e) i.fields.yield i.fields.stall.toNat
    let v := if e = 0 then u.meetRegs gid (guardCodes i.fields.guard) [] else u.meetRegs gid (Instr.reads i ++ dyn) (Instr.writes i)
    let runs := s.me.arm = none ∨ Instr.armedMma i = true
    o.wordAt gid s.cur.pc s.cur.mask = .ok i →
    (runs → s.me.chk = false ∨ early = none → step s = exec i v) ∧
    (¬ runs → step s = .next ((u.withdrawArm gid).illop gid s.cur.pc e)) ∧
    (∀ x n t, runs → s.me.chk = true → early = some (x, n) → exec i v = .next t →
      step s = .next (if v.raisedIllop t gid = true then t
        else v.takeTrap gid 0x04 0 (x.bits.setWidth 32 ||| BitVec.ofNat 32 (2 ^ 16 * min n 31)) s.cur.pc e none))

/-- R5, R9, R117, R204: with no bundle at issue, a step first takes the trap of a core whose gangs all wait for granules; with no bundle whose completion wait is over, no request at a bank
of block memory and no attestation report to write, it lets the agenda's cycles pass on each die and then takes the agenda's event; a step after a fault stays stopped with it. (The agenda is the model's own: it lists the
events that an outside choice fixes.)
The model's choices in it: log entries 5, 25 and 141. -/
def Obligations.StepTakesTheAgendasEvent : Prop :=
  ∀ (s : State) (e : Elapse) (i : Instr) (rest : List (Elapse × Instr)),
    let d := s.deadlocks
    (s.err = none → s.issuing = false → d.moves = [] → d.agenda = (e, i) :: rest → i.isWord = false →
      step s = exec i ({ d with agenda := rest }.pass e)) ∧
    ((∀ kv ∈ s.cores, kv.2.allocQ = []) → d = s) ∧
    (∀ f, s.err = some f → step s = .fault f)

/-- R244, R368, R383, R401, R407, R410, R411: what reset leaves: DEV.ID, the firmware's major version, HBM.CTL, PART.SG and HOT.CTL at their reset values and every other
64-bit table register, FREC.SIZE and BOOT.STAT at 0; partition 0 holds every stack group as a mesh; every key slot is erased; nothing is resident, running, queued or under
way. (Memory reads 0 where nothing is listed: the model's choice.)
The model's choices in it: log entries 1, 7 and 8. -/
def Obligations.ResetState : Prop :=
  let s := State.reset
  s.mg 0x0000 = 0x0960B100 ∧ (s.mg 0x0004) >>> 24 = 3 ∧ s.mg 0x0008 = 0 ∧ s.mg64 0x0040 = 0 ∧ s.mg64 0x0048 = 0 ∧ s.mg64 0x0058 = 0 ∧
  s.mg64 0x0060 = 0 ∧ s.mg64 0x0068 = 0 ∧ s.mg64 0x0070 = 0 ∧ s.mg 0x0080 = 0 ∧
  (∀ k, k < 12 → s.mg (0x0100 + 16 * k) = 0x80180080 ∧ s.mg (0x0104 + 16 * k) = 0 ∧ s.mg (0x0108 + 16 * k) = 0) ∧
  s.mg 0x0600 = 0x0FFF ∧ (∀ p, 0 < p → p < 12 → s.mg (0x0600 + 4 * p) = 0) ∧
  (∀ c, c < 48 → s.mg (clusterMg c 0x0800) = 0x8000100C ∧ s.mg (clusterMg c 0x0804) = 0) ∧
  (∀ c, c < 192 → s.mg (coreMg c 0) = 0) ∧
  s.parts = [(0, { mask := 0xFFF, shape := 0, down := false })] ∧ (∀ k, (kget s.keys k).loaded = false ∧ (kget s.keys k).key = 0) ∧
  s.gangs = [] ∧ s.blocks = [] ∧ s.launches = [] ∧ s.tiles = [] ∧ s.reqs = [] ∧ s.copies = [] ∧ s.posts = [] ∧ s.hwslots = [] ∧ s.hbmQ = [] ∧ s.lags = [] ∧ s.soft = [] ∧
  s.err = none ∧ s.issuing = false ∧ s.clock = { d0 := 0, d1 := 0, d2 := 0, d3 := 0, mc := [] } ∧ (∀ k, s.mcNow k = 0) ∧ ∀ a, memByte s.hbm a = 0 ∧ memByte s.host a = 0

/-- Every step of the machine keeps the canonical form of its memories, from every state that has it: after a step, equal memories are equal data, whatever the
step stored, applied from a crumb log, evicted, moved or wiped (R2, R238, R242, R221).
The model's choices in it: log entry 1. -/
def Obligations.StepKeepsMemoryForm : Prop :=
  ∀ s t : State, MemoryForm s → step s = .next t → MemoryForm t

/-- Reset has the form, and it means that a byte map is its reading: two maps in it that read alike are one. -/
def Obligations.MemoryFormAtReset : Prop :=
  MemoryForm State.reset ∧
    ∀ m n : Memory, Memory.wf m = true → Memory.wf n = true → (∀ a, memByte m a = memByte n a) → m = n

/-! ## Integers, predicates and moves -/

/-- R77, R78, R127, R128: `add`, `sub`, `mul`, `mulh`, `mad`, `neg`, `abs`, `min` and `max` complete, give every executing thread (or the uniform
destination) the exact result of R127 clamped or wrapped under R128, set no flag (R85), and change nothing else. For every integer type code
(`.i8` to `.i64`, `.n8` to `.n64`, `.b8` to `.b64`) a written integer reads back as the one that is congruent modulo 2^w and lies in the type's
range, a value in range reads back as itself, and the register holds the w bits sign-extended for an `.i` type and zero-extended for the others, to
32 bits, or to 64 for a 64-bit type. -/
def Obligations.IntegerArithmeticResults : Prop :=
  (∀ (t : BitVec 5) (x : Int), (tySigned t ∨ t = tyN8 ∨ t = tyN16 ∨ t = tyN32 ∨ t = tyN64 ∨ t = tyB8 ∨ t = tyB16 ∨ t = tyB32 ∨ t = tyB64) →
    (readInt t (writeInt t x) - x) % 2 ^ tyBits t = 0 ∧
    tyLo t ≤ readInt t (writeInt t x) ∧ readInt t (writeInt t x) ≤ tyHi t ∧
    (tyLo t ≤ x → x ≤ tyHi t → readInt t (writeInt t x) = x) ∧
    (tyBits t ≤ 32 → (writeInt t x).toNat < 2 ^ 32 ∧
      ∀ k, tyBits t ≤ k → k < 32 → (writeInt t x).getLsbD k = (tySigned t && (writeInt t x).getLsbD (tyBits t - 1)))) ∧
  ∀ (f : Fields) (s : State),
    let a := fun l => readInt f.ty (s.valA f l)
    let b := fun l => readInt f.ty (s.valB f l)
    let c := fun l => readInt f.ty (s.valC f l)
    (WellFormed (.add f) → Arith (.add f) 5 (fun l => intResult f (a l + b l)) noFlags s) ∧
    (WellFormed (.sub f) → Arith (.sub f) 5 (fun l => intResult f (a l - b l)) noFlags s) ∧
    (WellFormed (.mul f) → Arith (.mul f) 5 (fun l => intResult f (a l * b l)) noFlags s) ∧
    (WellFormed (.mulh f) → Arith (.mulh f) 5 (fun l => writeInt f.ty (a l * b l / 2 ^ 32)) noFlags s) ∧
    (WellFormed (.mad f) → Arith (.mad f) 5 (fun l => writeInt f.ty (a l * b l + c l)) noFlags s) ∧
    (WellFormed (.neg f) → Arith (.neg f) 5 (fun l => intResult f (-a l)) noFlags s) ∧
    (WellFormed (.abs f) → Arith (.abs f) 5 (fun l => intResult f (if 0 ≤ a l then a l else -a l)) noFlags s) ∧
    (WellFormed (.min f) → Arith (.min f) 5 (fun l => writeInt f.ty (if a l ≤ b l then a l else b l)) noFlags s) ∧
    (WellFormed (.max f) → Arith (.max f) 5 (fun l => writeInt f.ty (if a l ≤ b l then b l else a l)) noFlags s)

/-- R127, R129: `and`, `or`, `xor` and `andn` complete and give the bitwise result on 32 bits; `shl`, `shr` and `sar` complete and give a × 2^k and
floor(a ÷ 2^k), `shr` of a unsigned and `sar` of a signed, with k = b modulo 32, or modulo 64 in the 64-bit form of `shl`; `clz` and `popc` give the
number of leading zero bits (32 for 0) and of one bits. No flag is raised, and nothing else changes. -/
def Obligations.BitwiseAndShiftResults : Prop :=
  ∀ (f : Fields) (s : State),
    let k := fun l => (s.valB f l).toNat % (if tyWide f.ty then 64 else 32)
    let a := fun l => (s.valA f l).setWidth 32
    let b := fun l => (s.valB f l).setWidth 32
    (WellFormed (.and f) → Arith (.and f) 5 (fun l => (a l &&& b l : Word).setWidth 64) noFlags s) ∧
    (WellFormed (.or f) → Arith (.or f) 5 (fun l => (a l ||| b l : Word).setWidth 64) noFlags s) ∧
    (WellFormed (.xor f) → Arith (.xor f) 5 (fun l => (a l ^^^ b l : Word).setWidth 64) noFlags s) ∧
    (WellFormed (.andn f) → Arith (.andn f) 5 (fun l => (a l &&& ~~~(b l) : Word).setWidth 64) noFlags s) ∧
    (WellFormed (.shl f) → Arith (.shl f) 5 (fun l => writeInt f.ty (readInt f.ty (s.valA f l) * 2 ^ k l)) noFlags s) ∧
    (WellFormed (.shr f) → Arith (.shr f) 5 (fun l => (a l >>> k l : Word).setWidth 64) noFlags s) ∧
    (WellFormed (.sar f) → Arith (.sar f) 5 (fun l => ((a l).sshiftRight (k l) : Word).setWidth 64) noFlags s) ∧
    (∃ z : Word → Nat, (∀ x, z x ≤ 32 ∧ (∀ j, 32 - z x ≤ j → j < 32 → x.getLsbD j = false) ∧ (z x < 32 → x.getLsbD (31 - z x) = true)) ∧
      (WellFormed (.clz f) → Arith (.clz f) 5 (fun l => BitVec.ofNat 64 (z (a l))) noFlags s)) ∧
    (WellFormed (.popc f) → Arith (.popc f) 5 (fun l => BitVec.ofNat 64 (lanesOf (a l)).length) noFlags s)

/-- R130: `bfx` and `bfi` complete; with position p and length n (each above 32 taken as 32), bit j of `bfx` is bit p + j of a, extended by a's
sign bit for `.i32` and by zeros for `.n32`, for j below n, and above n the field's sign bit for `.i32` or 0; bit j of `bfi` is bit j - p of a
for p ≤ j < p + n and bit j of the base elsewhere. In the R form of `bfi` the base is b and the control word c, in the I form D and the
immediate. -/
def Obligations.BitFieldResults : Prop :=
  ∀ (f : Fields) (s : State),
    (∃ x : Nat → BitVec 64, (WellFormed (.bfx f) → Arith (.bfx f) 5 x noFlags s) ∧
      ∀ l j, j < 32 →
        let p := min 32 ((s.valB f l).toNat % 256)
        let n := min 32 ((s.valB f l).toNat / 256 % 256)
        let bit := fun k => if k < 32 then (s.valA f l).getLsbD k else f.ty == tyI32 && (s.valA f l).getLsbD 31
        (x l).getLsbD j = (if j < n then bit (p + j) else f.ty == tyI32 && decide (0 < n) && bit (p + n - 1))) ∧
    (∃ x : Nat → BitVec 64, (WellFormed (.bfi f) → Arith (.bfi f) 5 x noFlags s) ∧
      ∀ l j, j < 32 →
        let base := if f.immForm then s.valC f l else s.valB f l
        let ctl := if f.immForm then s.valB f l else s.valC f l
        let p := min 32 (ctl.toNat % 256)
        let n := min 32 (ctl.toNat / 256 % 256)
        (x l).getLsbD j = if p ≤ j ∧ j < p + n then (s.valA f l).getLsbD (j - p) else base.getLsbD j)

/-- R131, R132, R134, R143: `sel` gives a where predicate OPX of the thread is 1 and b elsewhere; `setp` compares integers of its type; `plop`
combines predicates; `p2v` gives 1 or 0; `v2p` tests for a value that is not zero; `mov` moves the source's, or the immediate's, bits. Each
completes, with no flag and no other change. -/
def Obligations.SelectCompareMoveResults : Prop :=
  ∀ (f : Fields) (s : State),
    let a := fun l => readInt f.ty (s.valA f l)
    let b := fun l => readInt f.ty (s.valB f l)
    let pa := fun l => s.valA f l ≠ 0
    let pb := fun l => s.valB f l ≠ 0
    (WellFormed (.sel f) → Arith (.sel f) 5
      (fun l => if (sget s.view.p f.opx.toNat).getLsbD l then s.valA f l else s.valB f l) noFlags s) ∧
    (WellFormed (.setp f) → Arith (.setp f) 5 (fun l =>
      if (f.opx = 0 ∧ a l = b l) ∨ (f.opx = 1 ∧ a l ≠ b l) ∨ (f.opx = 2 ∧ a l < b l) ∨ (f.opx = 3 ∧ a l ≤ b l) ∨
        (f.opx = 4 ∧ b l < a l) ∨ (f.opx = 5 ∧ b l ≤ a l) then 1 else 0) noFlags s) ∧
    (WellFormed (.plop f) → Arith (.plop f) 5 (fun l =>
      if (f.opx = 0 ∧ (pa l ∧ pb l)) ∨ (f.opx = 1 ∧ (pa l ∨ pb l)) ∨ (f.opx = 2 ∧ (pa l ∧ ¬ pb l ∨ ¬ pa l ∧ pb l)) ∨
        (f.opx = 3 ∧ (pa l ∧ ¬ pb l)) ∨ (f.opx = 4 ∧ ¬ (pa l ∧ pb l)) ∨ (f.opx = 5 ∧ pa l) then 1 else 0) noFlags s) ∧
    (WellFormed (.p2v f) → Arith (.p2v f) 5 (s.valA f) noFlags s) ∧
    (WellFormed (.v2p f) → Arith (.v2p f) 5 (fun l => if s.valA f l ≠ 0 then 1 else 0) noFlags s) ∧
    (WellFormed (.mov f) → Arith (.mov f) 5 (fun l => if f.immForm then f.imm.setWidth 64 else s.valA f l) noFlags s)

/-! ## Floating point -/

/-- R80, R81, R82, R83, R135, R136, R138: the fp32 words complete and give every executing thread the IEEE result of their operation rounded
under RND, with the flags that it raises; `frcp`, `frsq`, `fsqrt`, `fex2` and `flg2` have latency 24, the others 5 (R186). -/
def Obligations.FloatResults : Prop :=
  ∀ (f : Fields) (s : State),
    let a := fun l => Fp.read fp32 (bits32 (s.valA f l))
    let b := fun l => Fp.read fp32 (bits32 (s.valB f l))
    let c := fun l => Fp.read fp32 (bits32 (s.valC f l))
    (WellFormed (.fadd f) → ArithF (.fadd f) 5 (fun l => addFp fp32 f.rnd (a l) (b l)) s) ∧
    (WellFormed (.fsub f) → ArithF (.fsub f) 5 (fun l => addFp fp32 f.rnd (a l) (b l).neg) s) ∧
    (WellFormed (.fmul f) → ArithF (.fmul f) 5 (fun l => mulFp fp32 f.rnd (a l) (b l)) s) ∧
    (WellFormed (.ffma f) → ArithF (.ffma f) 5 (fun l => fmaFp fp32 f.rnd (a l) (b l) (c l)) s) ∧
    (WellFormed (.fmin f) → ArithF (.fmin f) 5 (fun l => minMaxFp fp32 false (bits32 (s.valA f l)) (bits32 (s.valB f l))) s) ∧
    (WellFormed (.fmax f) → ArithF (.fmax f) 5 (fun l => minMaxFp fp32 true (bits32 (s.valA f l)) (bits32 (s.valB f l))) s) ∧
    (WellFormed (.frcp f) → ArithF (.frcp f) 24 (fun l => rcpFp f.rnd (a l)) s) ∧
    (WellFormed (.frsq f) → ArithF (.frsq f) 24 (fun l => rsqFp f.rnd (a l)) s) ∧
    (WellFormed (.fsqrt f) → ArithF (.fsqrt f) 24 (fun l => sqrtFp f.rnd (a l)) s) ∧
    (WellFormed (.fex2 f) → ArithF (.fex2 f) 24 (fun l => ex2Fp f.rnd (a l)) s) ∧
    (WellFormed (.flg2 f) → ArithF (.flg2 f) 24 (fun l => lg2Fp f.rnd (a l)) s) ∧
    (WellFormed (.frnd f) → ArithF (.frnd f) 5 (fun l => rndFp f.rnd (bits32 (s.valA f l))) s)

/-- R80, R82, R83, R85: what the fp32 operations give for NaNs, infinities and zeros: every NaN result is canonical; IV is raised exactly by a
signalling NaN, by inf - inf (also of a fused product), by 0 × inf (whatever the addend) and by a root or logarithm of a negative number; an exact zero sum of opposite signs is -0 under `.rdn` and +0 else, minimum
and maximum take the operand that is no NaN, and the functions of R83 give their special cases. -/
def Obligations.FloatSpecialCases : Prop :=
  ∀ (r : BitVec 2) (x y z : Nat), x < 2 ^ 32 → y < 2 ^ 32 → z < 2 ^ 32 →
    let a := Fp.read fp32 x
    let b := Fp.read fp32 y
    let c := Fp.read fp32 z
    let iv : BitVec 5 := if isSNaNBits fp32 x ∨ isSNaNBits fp32 y then 1 else 0
    let isInf := fun (x : Nat) => x % 2 ^ 31 = 0x7F800000
    let zeroInf := (isInf x ∧ y % 2 ^ 31 = 0) ∨ (x % 2 ^ 31 = 0 ∧ isInf y)
    let infInf := ¬ isNaNBits fp32 x ∧ ¬ isNaNBits fp32 y ∧ ¬ zeroInf ∧ (isInf x ∨ isInf y) ∧ isInf z ∧ (x / 2 ^ 31 + y / 2 ^ 31 + z / 2 ^ 31) % 2 = 1
    let negative := 0x80000000 < x ∧ x ≤ 0xFF800000
    (isNaNBits fp32 x ∨ isNaNBits fp32 y ∨ isNaNBits fp32 z → ¬ zeroInf →
      fmaFp fp32 r a b c = (0x7FC00000, if isSNaNBits fp32 x ∨ isSNaNBits fp32 y ∨ isSNaNBits fp32 z then 1 else 0)) ∧
    (infInf → fmaFp fp32 r a b c = (0x7FC00000, 1)) ∧
    ((addFp fp32 r a b).2.getLsbD 0 = true ↔ isSNaNBits fp32 x ∨ isSNaNBits fp32 y ∨ (isInf x ∧ isInf y ∧ x ≠ y)) ∧
    ((mulFp fp32 r a b).2.getLsbD 0 = true ↔ isSNaNBits fp32 x ∨ isSNaNBits fp32 y ∨ zeroInf) ∧
    ((fmaFp fp32 r a b c).2.getLsbD 0 = true ↔
      zeroInf ∨ infInf ∨ isSNaNBits fp32 x ∨ isSNaNBits fp32 y ∨ isSNaNBits fp32 z) ∧
    (∀ big, (minMaxFp fp32 big x y).2 = iv) ∧
    ((rcpFp r a).2.getLsbD 0 = true ↔ isSNaNBits fp32 x) ∧ ((ex2Fp r a).2.getLsbD 0 = true ↔ isSNaNBits fp32 x) ∧
    ((rndFp r x).2.getLsbD 0 = true ↔ isSNaNBits fp32 x) ∧ ((rsqFp r a).2.getLsbD 0 = true ↔ isSNaNBits fp32 x ∨ negative) ∧
    ((sqrtFp r a).2.getLsbD 0 = true ↔ isSNaNBits fp32 x ∨ negative) ∧ ((lg2Fp r a).2.getLsbD 0 = true ↔ isSNaNBits fp32 x ∨ negative) ∧
    (isNaNBits fp32 x ∨ isNaNBits fp32 y → addFp fp32 r a b = (0x7FC00000, iv) ∧ mulFp fp32 r a b = (0x7FC00000, iv)) ∧
    (x % 2 ^ 31 = 0x7F800000 → y % 2 ^ 31 = 0x7F800000 → x ≠ y → addFp fp32 r a b = (0x7FC00000, 1)) ∧
    (x % 2 ^ 31 = 0x7F800000 → y % 2 ^ 31 = 0 →
      mulFp fp32 r a b = (0x7FC00000, 1) ∧ mulFp fp32 r b a = (0x7FC00000, 1) ∧ fmaFp fp32 r a b c = (0x7FC00000, 1) ∧
        fmaFp fp32 r b a c = (0x7FC00000, 1)) ∧
    (x < 0x7F800000 → y = x + 2 ^ 31 → addFp fp32 r a b = (if r = 2 then 0x80000000 else 0, 0)) ∧
    (isNaNBits fp32 x → ¬ isNaNBits fp32 y →
      (minMaxFp fp32 false x y).1 = y ∧ (minMaxFp fp32 true y x).1 = y ∧ (minMaxFp fp32 true x y).2 = iv) ∧
    (isNaNBits fp32 x → isNaNBits fp32 y → minMaxFp fp32 false x y = (0x7FC00000, iv)) ∧
    minMaxFp fp32 false 0x80000000 0 = (0x80000000, 0) ∧ minMaxFp fp32 true 0x80000000 0 = (0, 0) ∧
    (isNaNBits fp32 x →
      let n : Nat × BitVec 5 := (0x7FC00000, if isSNaNBits fp32 x then 1 else 0)
      rcpFp r a = n ∧ rsqFp r a = n ∧ sqrtFp r a = n ∧ ex2Fp r a = n ∧ lg2Fp r a = n ∧ rndFp r x = n) ∧
    (x % 2 ^ 31 = 0 → rcpFp r a = (x + 0x7F800000, 2) ∧ rsqFp r a = (x + 0x7F800000, 2) ∧ lg2Fp r a = (0xFF800000, 2) ∧ sqrtFp r a = (x, 0)) ∧
    (x % 2 ^ 31 = 0x7F800000 → rcpFp r a = (x - 0x7F800000, 0)) ∧
    (0x80000000 < x → x ≤ 0xFF800000 → rsqFp r a = (0x7FC00000, 1) ∧ sqrtFp r a = (0x7FC00000, 1) ∧ lg2Fp r a = (0x7FC00000, 1)) ∧
    ex2Fp r (Fp.read fp32 0xFF800000) = (0, 0) ∧ ex2Fp r (Fp.read fp32 0x7F800000) = (0x7F800000, 0) ∧
    lg2Fp r (Fp.read fp32 0x7F800000) = (0x7F800000, 0)

/-- R80, R81: in each format a finite number rounds to itself, with no flag, in every mode; and a result that overflows is the infinity or the
largest finite number of the table of R81, with OF and NX. Of an exact value m × 2^e that does not overflow the result is the number of the format nearest to it, of two
the one with an even significand, or the nearest on the side that the mode rounds to; NX says that it is another number, UF that it is and that the value, rounded with an
unbounded exponent, lies below the least normal number. A value that lies in the gap above m × 2^e, m having two bits more than the format keeps, rounds as the middle of the gap. -/
def Obligations.RoundingKeepsNumbersAndOverflows : Prop :=
  ∀ (f : FpFmt), (f = fp32 ∨ f = fp16 ∨ f = bf16) → ∀ (r : BitVec 2),
    (∀ bits neg m e, bits < 2 * f.signBit → Fp.read f bits = .fin neg m e → roundFp f r neg m e false = (bits, 0)) ∧
    (∀ neg m e sticky, (roundFp f r neg m e sticky).2.getLsbD 2 = true →
      (roundFp f r neg m e sticky).2 = 20 ∧
      (roundFp f r neg m e sticky).1 % f.signBit = (if r = 0 ∨ (r = 2 ∧ neg = true) ∨ (r = 3 ∧ neg = false) then f.infBits else f.infBits - 1) ∧
      (f.signBit ≤ (roundFp f r neg m e sticky).1 ↔ neg = true)) ∧
    (∀ neg m e,
      let out := roundFp f r neg m e false
      -- the value is a / d, in units of the format's least subnormal number
      let a := m * 2 ^ (e - f.qmin).toNat
      let d := 2 ^ (f.qmin - e).toNat
      let top := 2 ^ (2 * f.bias + f.mbits)
      let least := 2 ^ f.mbits
      let down := r = 1 ∨ (r = 2 ∧ neg = false) ∨ (r = 3 ∧ neg = true)
      (out.2.getLsbD 2 = true ↔
        if r = 0 then top * d - 2 ^ (2 * f.bias - 2) * d ≤ a else if down then top * d ≤ a else top * d - 2 ^ (2 * f.bias - 1) * d < a) ∧
      (out.2.getLsbD 2 = false → ∃ m' e', Fp.read f out.1 = .fin neg m' e' ∧ f.qmin ≤ e' ∧ out.2 &&& 3 = 0 ∧
        let y := m' * 2 ^ (e' - f.qmin).toNat
        (out.2.getLsbD 4 = true ↔ y * d ≠ a) ∧
        (out.2.getLsbD 3 = true ↔ y * d ≠ a ∧
          if r = 0 then 4 * a + d < 4 * least * d else if down then a < least * d else 2 * a + d ≤ 2 * least * d) ∧
        ∀ bits n m'' e'', Fp.read f bits = .fin n m'' e'' →
          let z := m'' * 2 ^ (e'' - f.qmin).toNat
          if r = 0 then
            (((y * d : Nat) : Int) - a).natAbs ≤ (((z * d : Nat) : Int) - a).natAbs ∧
              ((((y * d : Nat) : Int) - a).natAbs = (((z * d : Nat) : Int) - a).natAbs → z ≠ y → out.1 % 2 = 0)
          else if down then y * d ≤ a ∧ (z * d ≤ a → z ≤ y)
          else a ≤ y * d ∧ (a ≤ z * d → y ≤ z))) ∧
    (∀ neg m e, 2 ^ (f.mbits + 1) ≤ m → roundFp f r neg m e true = roundFp f r neg (2 * m + 1) (e - 1) false)

/-- R137, R139: `fsetp` gives the condition of its table on the values of a and b, IV raised by a signalling NaN, or by any NaN for the four
ordered conditions; `fclass` gives the one bit of its table for the `.f32`, `.h16` or `.bf16` number a, and raises nothing. -/
def Obligations.FloatCompareAndClassResults : Prop :=
  ∀ (f : Fields) (s : State),
    (WellFormed (.fsetp f) → ∃ res : Nat → Bool × BitVec 5, Arith (.fsetp f) 5 (fun l => if (res l).1 then 1 else 0) (fun l => (res l).2) s ∧
      ∀ l,
        let x := bits32 (s.valA f l)
        let y := bits32 (s.valB f l)
        let nan := isNaNBits fp32 x ∨ isNaNBits fp32 y
        let u := fp32Scaled x
        let v := fp32Scaled y
        ((res l).1 = true ↔
          (f.opx = 0 ∧ ¬ nan ∧ u = v) ∨ (f.opx = 1 ∧ (nan ∨ u ≠ v)) ∨ (f.opx = 2 ∧ ¬ nan ∧ u < v) ∨ (f.opx = 3 ∧ ¬ nan ∧ u ≤ v) ∨
          (f.opx = 4 ∧ ¬ nan ∧ v < u) ∨ (f.opx = 5 ∧ ¬ nan ∧ v ≤ u) ∨ (f.opx = 6 ∧ ¬ nan) ∨ (f.opx = 7 ∧ nan)) ∧
        ((res l).2 = 1 ↔ isSNaNBits fp32 x ∨ isSNaNBits fp32 y ∨ (2 ≤ f.opx.toNat ∧ f.opx.toNat ≤ 5 ∧ nan)) ∧
        ((res l).2 = 1 ∨ (res l).2 = 0)) ∧
    (WellFormed (.fclass f) → ∃ k : Nat → Nat, Arith (.fclass f) 5 (fun l => BitVec.ofNat 64 (2 ^ k l)) noFlags s ∧
      ∀ l,
        let g := if f.ty = tyF32 then fp32 else if f.ty = tyH16 then fp16 else bf16
        let x := (s.valA f l).toNat % (2 * g.signBit)
        let neg := g.signBit ≤ x
        let m := x % g.signBit
        (k l = 0 ↔ isSNaNBits g x) ∧ (k l = 1 ↔ isNaNBits g x ∧ ¬ isSNaNBits g x) ∧ (k l = 2 ↔ neg ∧ m = g.infBits) ∧
        (k l = 3 ↔ neg ∧ 2 ^ g.mbits ≤ m ∧ m < g.infBits) ∧ (k l = 4 ↔ neg ∧ 0 < m ∧ m < 2 ^ g.mbits) ∧ (k l = 5 ↔ neg ∧ m = 0) ∧
        (k l = 6 ↔ ¬ neg ∧ m = 0) ∧ (k l = 7 ↔ ¬ neg ∧ 0 < m ∧ m < 2 ^ g.mbits) ∧ (k l = 8 ↔ ¬ neg ∧ 2 ^ g.mbits ≤ m ∧ m < g.infBits) ∧
        (k l = 9 ↔ ¬ neg ∧ m = g.infBits) ∧ k l ≤ 9)

/-- R89, R140, R141, R142: the packed words work on each 16-bit half on its own and raise the flags of both; `pack` rounds a into the low half and
b into the high half, `unpk` widens the half that OPX names, and `cvt` converts between an integer type and a float type, or within one of
them: an integer is rounded into a float; a float is rounded to an integer and clamped to the type's range, with IV for a NaN (0) and for a
value out of range; an integer is wrapped, or with RND 01 clamped. -/
def Obligations.PackedAndConversionResults : Prop :=
  ∀ (f : Fields) (s : State),
    let g := if f.ty = tyH16 then fp16 else bf16
    let half := fun (k : Nat) (x : BitVec 64) => x.toNat / 2 ^ (16 * k) % 2 ^ 16
    let two := fun (i : Instr) (op : Nat → Nat → Nat → Nat × BitVec 5) =>
      let r := fun l k => op (half k (s.valA f l)) (half k (s.valB f l)) (half k (s.valC f l))
      Arith i 5 (fun l => BitVec.ofNat 64 ((r l 0).1 + 2 ^ 16 * (r l 1).1)) (fun l => (r l 0).2 ||| (r l 1).2) s
    (WellFormed (.hadd2 f) → two (.hadd2 f) (fun a b _ => addFp g f.rnd (Fp.read g a) (Fp.read g b))) ∧
    (WellFormed (.hmul2 f) → two (.hmul2 f) (fun a b _ => mulFp g f.rnd (Fp.read g a) (Fp.read g b))) ∧
    (WellFormed (.hfma2 f) → two (.hfma2 f) (fun a b c => fmaFp g f.rnd (Fp.read g a) (Fp.read g b) (Fp.read g c))) ∧
    (WellFormed (.hmax2 f) → two (.hmax2 f) (fun a b _ => minMaxFp g true a b)) ∧
    (WellFormed (.pack f) → Arith (.pack f) 5
      (fun l => BitVec.ofNat 64 ((convFp fp32 g f.rnd (bits32 (s.valA f l))).1 + 2 ^ 16 * (convFp fp32 g f.rnd (bits32 (s.valB f l))).1))
      (fun l => (convFp fp32 g f.rnd (bits32 (s.valA f l))).2 ||| (convFp fp32 g f.rnd (bits32 (s.valB f l))).2) s) ∧
    (WellFormed (.unpk f) → ArithF (.unpk f) 5 (fun l => convFp g fp32 0 (half f.opx.toNat (s.valA f l))) s) ∧
    (WellFormed (.cvt f) →
      let src := [tyI32, tyN32, tyF32, tyH16, tyBF16].getD f.opx.toNat 0
      let fmt := fun (t : BitVec 5) => if t = tyF32 then fp32 else if t = tyH16 then fp16 else bf16
      let isF := fun (t : BitVec 5) => t = tyF32 ∨ t = tyH16 ∨ t = tyBF16
      let x := fun l => (s.valA f l).toNat % (2 * (fmt src).signBit)
      (isF src → isF f.ty → ArithF (.cvt f) 5 (fun l => convFp (fmt src) (fmt f.ty) f.rnd (x l)) s) ∧
      (isF src → ¬ isF f.ty → Arith (.cvt f) 5
        (fun l => writeInt f.ty (fpToInt (fmt src) f.rnd (tyLo f.ty) (tyHi f.ty) (x l)).1)
        (fun l => (fpToInt (fmt src) f.rnd (tyLo f.ty) (tyHi f.ty) (x l)).2) s) ∧
      (¬ isF src → isF f.ty → ArithF (.cvt f) 5 (fun l => intToFp (fmt f.ty) f.rnd (readInt src (s.valA f l))) s) ∧
      (¬ isF src → ¬ isF f.ty → Arith (.cvt f) 5
        (fun l => writeInt f.ty (if f.rnd = 1 then max (tyLo f.ty) (min (tyHi f.ty) (readInt src (s.valA f l))) else readInt src (s.valA f l)))
        noFlags s))

/-! ## Lane operations and moves of single registers -/

/-- R147, R148, R149, R150: with E the executing threads and U those of the bundle, `shfl` gives each thread of E the value of va in the lane that
its mode names where that lane is 0 to 31 and its thread in U, else its own; `vote` the any, all, ballot or count of pa over E, and in uniform form
of E itself; `lred` and `lscan` the fold of va over E in ascending lane order, `lscan` up to the thread's own lane, with the flags of the folds;
`match` the set of threads of E with the same va. Each completes with latency 10 and changes nothing else. -/
def Obligations.LaneOperationResults : Prop :=
  (∀ (t : BitVec 5) (x y : Word),
    foldStep 0 t x y = (x + y, 0) ∧ foldStep 3 t x y = (x &&& y, 0) ∧ foldStep 4 t x y = (x ||| y, 0) ∧
    (t = tyI32 → (foldStep 1 t x y).1.toInt = min x.toInt y.toInt ∧ (foldStep 2 t x y).1.toInt = max x.toInt y.toInt) ∧
    (t = tyN32 → (foldStep 1 t x y).1.toNat = min x.toNat y.toNat ∧ (foldStep 2 t x y).1.toNat = max x.toNat y.toNat) ∧
    (foldStep 5 t x y).1 = fp32Add x y ∧
    foldStep 6 t x y = (BitVec.ofNat 32 (minMaxFp fp32 false x.toNat y.toNat).1, (minMaxFp fp32 false x.toNat y.toNat).2) ∧
    foldStep 7 t x y = (BitVec.ofNat 32 (minMaxFp fp32 true x.toNat y.toNat).1, (minMaxFp fp32 true x.toNat y.toNat).2)) ∧
  ∀ (f : Fields) (s : State) (e : Lanes), e = s.execLanes f →
    (WellFormed (.shfl f) → Completes (.shfl f) 1 10 false (fun l =>
      let b : Nat := if f.immForm then f.imm.toNat else (s.readReg s.view l 0 f.b).toNat
      let src : Int := if f.opx = 0 then (b % 32 : Nat) else if f.opx = 1 then (l : Int) - b else if f.opx = 2 then (l : Int) + b else (l ^^^ (b % 32) : Nat)
      (s.readReg s.view (if 0 ≤ src ∧ src ≤ 31 ∧ s.cur.mask.getLsbD src.toNat = true then src.toNat else l) 0 f.a).setWidth 128) 0 s) ∧
    (WellFormed (.vote f) → ∃ yes : Lanes,
      (∀ l, l < 32 → (yes.getLsbD l = true ↔ e.getLsbD l = true ∧ (f.uni = true ∨ s.readReg s.view l 0 f.a ≠ 0))) ∧
      Completes (.vote f) 1 10 false (fun _ =>
        if f.opx = 0 then (if yes = 0 then 0 else 1) else if f.opx = 1 then (if yes = e then 1 else 0)
        else if f.opx = 2 then yes.setWidth 128 else BitVec.ofNat 128 (lanesOf yes).length) 0 s) ∧
    (WellFormed (.lred f) →
      let x := fun l => s.readReg s.view (if f.uni then lowLane e else l) 0 f.a
      let r := foldFrom (foldStep f.opx f.ty) (x (lowLane e)) ((lanesOf e).tail.map x)
      Completes (.lred f) 1 10 false (fun _ => r.1.setWidth 128) (if e = 0 then 0 else r.2) s) ∧
    (WellFormed (.lscan f) →
      let x := fun l => s.readReg s.view l 0 f.a
      let r := fun k => foldFrom (foldStep f.opx f.ty) (x (lowLane e)) (((lanesOf e).tail.filter (fun l => decide (l ≤ k))).map x)
      Completes (.lscan f) 1 10 false (fun l => (r l).1.setWidth 128) (if e = 0 then 0 else (r 31).2) s) ∧
    (WellFormed (.match_ f) → ∃ same : Nat → Lanes,
      (∀ l k, k < 32 → ((same l).getLsbD k = true ↔ e.getLsbD k = true ∧ s.readReg s.view k 0 f.a = s.readReg s.view l 0 f.a)) ∧
      Completes (.match_ f) 1 10 false (fun l => (same l).setWidth 128) 0 s)

/-- R144, R145, R161, R162: `vrd` reads, into an s register, the v register and the lane that its immediate names or its two sources hold, in the thread
at that lane whatever its state, with the taint of that register and of its sources; a register that R54 would reject traps as illegal-operation in the
R form, with nothing written; a vacant lane gives an undefined value of the program's ASID (a free value, of which nothing is said). `rdsp` reads a control register, with no taint beyond
its guard's; `mpoll` tests an mwait's release, or membership; `mrd` reads a mask's members, arrivals or live members.
The model's choices in it: log entries 9 and 64. -/
def Obligations.SingleReadResults : Prop :=
  ∀ (f : Fields) (s : State),
    let e := s.execLanes f
    let m := f.a.index - 16
    let live := sget s.me.mM m &&& ~~~(s.me.lanesWith Thread.gone)
    let n := if f.immForm then (f.imm.extractLsb' 0 8).toNat else (s.readReg s.view (lowLane e) 0 f.a).toNat % 256
    let lane := if f.immForm then (f.imm.extractLsb' 8 5).toNat else (s.readReg s.view (lowLane e) 0 f.b).toNat % 32
    let held := s.me.nb + (if s.me.ext = .held then 16 * 2 ^ s.me.extK else 0)
    (WellFormed (.vrd f) → f.immForm = false → e ≠ 0 → n ≠ 255 → held ≤ n → exec (.vrd f) s = .next (s.illop s.cur.gid s.cur.pc e)) ∧
    (WellFormed (.vrd f) → n = 255 ∨ (n < held ∧ (s.me.thread lane).st ≠ .vacant) →
      ∃ t, exec (.vrd f) s = .next t ∧
        Gave (.vrd f) 1 5 true (fun _ => if n = 255 then 0 else (sget s.view.v (32 * n + lane)).setWidth 128)
          (s.me.newTaint (.vrd f) e ||| (if n = 255 then 0 else sget s.me.taint n)) 0 (fun _ => none) s t) ∧
    (WellFormed (.vrd f) → e ≠ 0 → n < held → n ≠ 255 → (s.me.thread lane).st = .vacant →
      let u := (s.undef (s.launchOf s.cur.gid).asid 32).2
      let x : Word := (s.undef (s.launchOf s.cur.gid).asid 32).1
      u = { s with undefs := u.undefs } ∧ ∃ t, exec (.vrd f) s = .next t ∧
        Gave (.vrd f) 1 5 true (fun _ => x.setWidth 128) (s.me.newTaint (.vrd f) e ||| sget s.me.taint n) 0 (fun _ => none) u t) ∧
    (WellFormed (.rdsp f) → ∃ t, exec (.rdsp f) s = .next t ∧
      Gave (.rdsp f) 1 5 true (fun l => (if f.ctlNum < 0x100 then s.ctlGang s.cur.gid f.ctlNum else (s.me.thread l).ctl f.ctlNum).setWidth 128)
        (s.me.guardTaint f.guard e) 0 (fun _ => none) s t) ∧
    (WellFormed (.mpoll f) → ∃ t, exec (.mpoll f) s = .next t ∧
      Gave (.mpoll f) 1 5 true (fun l =>
        if f.mod.getLsbD 0 then (if (sget s.me.mM m).getLsbD l then 1 else 0)
        else if (sget s.me.mA m ||| e) &&& live = live then 1 else 0)
        (s.me.newTaint (.mpoll f) e) 0 (fun _ => none) s t) ∧
    (WellFormed (.mrd f) → ∃ t, exec (.mrd f) s = .next t ∧
      Gave (.mrd f) 1 5 true (fun _ => (if f.mod = 0 then sget s.me.mM m else if f.mod = 1 then sget s.me.mA m else live).setWidth 128)
        (s.me.newTaint (.mrd f) e) 0 (fun _ => none) s t)

/-! ## Control transfers, exits and traps -/

/-- R57, R67, R68, R152, R153: `bra`, `brx`, `ret` and `call` send each executing thread to its own target, and every other thread of the bundle to the next word: a
register's value, or PC + 12 + 12 × n for the signed count n of words (`brx` adding the register's signed value exactly), where a sum outside 32 bits
gives a PC that no kernel can fetch. `call` reads its target first and writes PC + 12, with its guard's taint alone, to its v register. `nop` only
moves on; `pblk` moves on and gives each executing thread a block state over the next n words, with the pattern of its immediate, the thread's value of the
predicate and that predicate's taint. Nothing else changes.
The model's choices in it: log entry 14. -/
def Obligations.ControlTransfers : Prop :=
  ∀ (f : Fields) (s : State),
    let reg := fun l => s.readReg s.view l 0 f.a
    let at_ := fun (n : Int) (y : Word) =>
      let x : Int := (s.cur.pc.toNat : Int) + 12 + 12 * n
      (0 ≤ x → x < 2 ^ 32 → (y.toNat : Int) = x) ∧ (x < 0 ∨ 2 ^ 32 ≤ x → ∀ k, fetchable k y = false)
    let toward := fun (y : Nat → Word) => ∀ l, if f.slot = 0 then y l = reg l else at_ f.imm.toInt (y l)
    let went := fun (i : Instr) (y : Nat → Word) (t : State) => Gave i 0 0 true (fun _ => 0) 0 0 (fun l => some (y l)) s t
    (WellFormed (.bra f) → ∃ (y : Nat → Word) (t : State), exec (.bra f) s = .next t ∧ toward y ∧ went (.bra f) y t) ∧
    (WellFormed (.ret f) → ∃ t, exec (.ret f) s = .next t ∧ went (.ret f) reg t) ∧
    (WellFormed (.brx f) → ∃ (y : Nat → Word) (t : State), exec (.brx f) s = .next t ∧ (∀ l, at_ (f.imm.toInt + (reg l).toInt) (y l)) ∧ went (.brx f) y t) ∧
    (WellFormed (.call f) → ∃ (y : Nat → Word) (t : State), exec (.call f) s = .next t ∧ toward y ∧
      Gave (.call f) 1 5 true (fun _ => (s.cur.pc + 12).setWidth 128) (s.me.guardTaint f.guard (s.execLanes f)) 0 (fun l => some (y l)) s t) ∧
    (∃ t, exec (.nop f) s = .next t ∧ Gave (.nop f) 0 0 true (fun _ => 0) 0 0 (fun _ => none) s t) ∧
    (WellFormed (.pblk f) → ∃ t, exec (.pblk f) s = .next t ∧ OnlyGang s.cur.gid s t ∧ t.me = { s.me with threads := t.me.threads } ∧
      ∀ l, l < 32 → t.me.thread l =
        let th := s.passed l
        if (s.execLanes f).getLsbD l then
          { th with blk := some { left := (f.imm.extractLsb' 0 3).toNat + 1, pat := f.imm.extractLsb' 8 8,
                                  b := (sget s.view.p f.a.index).getLsbD l, taint := sget s.me.taint (512 + f.a.index) } }
        else th)

/-- R107, R153 to R155: `exit` makes its executing threads exited and takes them from M and A of all twelve mask registers; the threads of the
bundle whose guard is false go on at the next word; every waiter of a mask whose arrivals then cover its live members is ready and its arrivals are
empty, and the waiters of any other mask still wait; no register of any gang and no byte of memory changes. A `trap` that some thread executes moves the whole bundle on and takes the trap of cause 0x05 with the code as
TRAP.INFO, the word's PC and the executing threads; a `brk` moves the bundle on, and where some thread executes it and the queue's debug enable is
set, stops the gang and posts a record of type 4 with the code, the PC and the executing threads. With no executing thread each only moves on. -/
def Obligations.ExitTrapAndBreakResults : Prop :=
  ∀ (f : Fields) (s : State),
    let e := s.execLanes f
    let code := if f.slot = 0 then (s.readReg s.view (lowLane e) 0 f.a).extractLsb' 0 16 else f.imm.extractLsb' 0 16
    (e = 0 → Goes (.exit f) (fun _ => none) s) ∧
    (e ≠ 0 → ∃ t, exec (.exit f) s = .next t ∧
        (∀ l, l < 32 → e.getLsbD l = true → (t.me.thread l).st = .exited ∧ (t.me.thread l).wait = .none) ∧
        (∀ k, k < 12 → sget t.me.mM k = sget s.me.mM k &&& ~~~e) ∧
        (∀ l, l < 32 → s.cur.mask.getLsbD l = true → e.getLsbD l = false → (t.me.thread l).pc = (s.me.thread l).pc + 12) ∧
        (∀ k, k < 12 →
          let waits := fun l => l < 32 ∧ e.getLsbD l = false ∧ (s.me.thread l).st = .waiting ∧ (s.me.thread l).wait = .mask k
          let done := (∃ l, waits l) ∧
            ∀ j, j < 32 → (sget s.me.mM k).getLsbD j = true → e.getLsbD j = false → (s.me.thread j).gone = false → (sget s.me.mA k).getLsbD j = true
          (done → sget t.me.mA k = 0) ∧ (¬ done → sget t.me.mA k = sget s.me.mA k &&& ~~~e) ∧
          (∀ l, waits l → done → (t.me.thread l).st = .ready ∧ (t.me.thread l).wait = .none) ∧
          (∀ l, waits l → ¬ done → (t.me.thread l).st = .waiting ∧ (t.me.thread l).wait = .mask k)) ∧
        SameRegisters s t ∧ SameMemory s t ∧ (∀ g, g ≠ s.cur.gid → (t.gang g).flags = (s.gang g).flags ∧ (t.gang g).mM = (s.gang g).mM) ∧
        t.me.flags = s.me.flags ∧ t.me.taint = s.me.taint ∧ t.me.pend = s.me.pend ∧
        t = { s with gangs := t.gangs, blocks := t.blocks, cores := t.cores, reqs := t.reqs, next := t.next, free := t.free }) ∧
    (WellFormed (.trap f) → ∃ t, Gave (.trap f) 0 0 true (fun _ => 0) 0 0 (fun _ => none) s t ∧
      exec (.trap f) s = .next (if e = 0 then t else t.takeTrap s.cur.gid 0x05 0 (code.setWidth 32) s.cur.pc e none)) ∧
    (WellFormed (.brk f) → e = 0 ∨ s.debugOn s.cur.gid = false → Goes (.brk f) (fun _ => none) s) ∧
    (WellFormed (.brk f) → e ≠ 0 → s.debugOn s.cur.gid = true → ∃ t, exec (.brk f) s = .next t ∧
      t.me.stop = .debug s.me.core (s.core s.me.core).seq.toNat ∧ t.me.regs = s.me.regs ∧ s.me.MovesOn t.me s.cur.mask ∧
      (∃ r, (t.core s.me.core).recQ = (s.core s.me.core).recQ ++ [r] ∧ r.type = 4 ∧ r.code = (f.imm.extractLsb' 0 16).toNat ∧ r.pc = s.cur.pc ∧
        r.lanes = e ∧ r.gang = s.me.place) ∧
      (∀ g, g ≠ s.cur.gid → t.gang g = s.gang g) ∧
      t = { s with gangs := t.gangs, cores := t.cores })

/-- R195, R200, R202: taking a trap outside trap state, where the trap table has an entry for its cause: each ready or waiting thread becomes ready at the
entry with no block state, its PC, its wait (none for a completion wait), its block state and its predicates saved; the gang enters trap state with
the cause, sub-cause, PC, information and mask in TRAP.CAUSE, TRAP.PC, TRAP.INFO and TRAP.MASK. Outstanding writes of fixed latency end, completion waits of the threads
taken are dropped, and the starvation counter is 0. Every other thread, every register, taint, mask, flag, load and buffered store of the gang, every other gang,
memory and all else but the gang's place in its slot are unchanged.
The model's choices in it: log entry 21. -/
def Obligations.TrapEntry : Prop :=
  ∀ (s : State) (gid cause sub : Nat) (info pc entry : Word) (mask : Lanes) (mf : Option FailSet),
    (s.gang gid).trap = false → s.trapEntry gid cause = some entry →
    let g := s.gang gid
    let t := s.takeTrap gid cause sub info pc mask mf
    let h := t.gang gid
    (∀ l, l < 32 →
      let a := g.thread l
      h.thread l = if a.st = .ready ∨ a.st = .waiting then
        { a with st := .ready, wait := .none, pc := entry, blk := none, inTrap := true, savedPc := a.pc, savedBlk := a.blk,
                 savedWait := if a.wait = .comp then .none else a.wait, savedP := (h.thread l).savedP }
      else a) ∧
    (∀ l k, l < 32 → k < 7 → (g.thread l).st = .ready ∨ (g.thread l).st = .waiting → (h.thread l).savedP.getLsbD k = (sget g.regs.p k).getLsbD l) ∧
    h = { g with threads := h.threads, trap := true, tCause := BitVec.ofNat 8 cause, tSub := BitVec.ofNat 8 sub, tPc := pc, tInfo := info, tMask := mask,
                 trapAt := g.serial, held := g.held.filter Held.parked, pend := h.pend, stallTo := h.stallTo, starve := 0 } ∧
    (∀ p ∈ h.pend, p ∈ g.pend ∧ p.fixed = false) ∧ (∀ p ∈ g.pend, p.fixed = false → g.held = [] → p ∈ h.pend) ∧
    (∀ k, k ≠ gid → t.gang k = s.gang k) ∧ t = { s with gangs := t.gangs, cores := t.cores } ∧
    (∀ c, t.core c = { s.core c with slots := (t.core c).slots })

/-- R201: a trap in trap state, or one without an entry in the table, is escalated: a record of type 3 with the cause as KIND, the PC, TRAP.MASK's
lanes, the code of a software trap, and for a memory fault its handle, path and offset, is posted by the gang's core, and the gang's block
ends: none of its live gangs holds a ready, waiting or parked thread any more, and no byte of main memory or of the host's changes. -/
def Obligations.TrapEscalation : Prop :=
  ∀ (s : State) (gid cause sub : Nat) (info pc : Word) (mask : Lanes) (mf : Option FailSet),
    (s.gang gid).trap = true ∨ s.trapEntry gid cause = none →
    let t := s.takeTrap gid cause sub info pc mask mf
    (∃ r rest, (t.core (s.gang gid).core).recQ = (s.core (s.gang gid).core).recQ ++ r :: rest ∧
      r.type = 3 ∧ r.kind = cause ∧ r.pc = pc ∧ r.lanes = mask ∧ r.seq = (s.core (s.gang gid).core).seq.toNat ∧
      r.asid = (s.launchOf gid).asid ∧ r.core = (s.gang gid).core ∧ r.gang = (s.gang gid).place ∧
      r.code = (if cause = 0x05 then info.toNat else 0) ∧ r.src = 0 ∧
      (match mf with
        | some x => r.handle = x.handle ∧ r.path = x.path ∧ r.off = x.off
        | none => r.handle = 0 ∧ r.path = 0 ∧ r.off = 0)) ∧
    (t.block (s.gang gid).block).ending = true ∧ (t.block (s.gang gid).block).failed = true ∧
    (∀ g ∈ (s.block (s.gang gid).block).gangs, (s.gang g).live = true → (t.gang g).stop = .ending ∧ (t.gang g).held = [] ∧ (t.gang g).replay = [] ∧
      ∀ l, l < 32 → ((t.gang g).thread l).st ≠ .ready ∧ ((t.gang g).thread l).st ≠ .waiting ∧ ((t.gang g).thread l).st ≠ .parked) ∧
    t.hbm = s.hbm ∧ t.host = s.host ∧ t.tiles = s.tiles

/-- R174, R177, R182, R203: `tret` outside trap state is illegal-operation. In trap state it ends trap state; each thread of the handler that is not exited or filed, one that
a fault of the handler parked included, goes back to its saved PC, block state, predicates and wait, ready where it had none or where the wait is over by now: a barrier's generation or
partial count, a named barrier's generation, a cycle that has come, a granted block, with which it stands behind its `xacq`. The handler's own completion waits are dropped. No v or s register of the gang, and no byte of memory, changes.
The model's choices in it: log entry 21. -/
def Obligations.TrapReturn : Prop :=
  ∀ (f : Fields) (s : State),
    let e := s.execLanes f
    (e = 0 → Goes (.tret f) (fun _ => none) s) ∧
    (e ≠ 0 → s.me.trap = false → exec (.tret f) s = .next (s.illop s.cur.gid s.cur.pc e)) ∧
    (e ≠ 0 → s.me.trap = true → s.me.acks = [] →
      (∀ l, l < 32 → (∀ w, (s.me.thread l).savedWait ≠ .waddr w ∧ (s.me.thread l).wait ≠ .waddr w) ∧ (∀ m, (s.me.thread l).savedWait ≠ .mask m) ∧ ∀ n w o, (s.me.thread l).savedWait ≠ .reform n w o) →
      (∀ g l, l < 32 → ∀ n w o, ((s.gang g).thread l).wait ≠ .reform n w o) →
      ∃ t, exec (.tret f) s = .next t ∧ t.me.trap = false ∧
        (∀ l, l < 32 →
          let a := s.me.thread l
          let b := t.me.thread l
          let done := match a.savedWait with
            | .none => True
            | .bar k gen part => (k, gen) ∉ a.pend ∨ (part ≠ 0 ∧ part ≤ (kget (s.block s.me.block).bars k).count)
            | .named id gen => ∀ r ∈ s.namedRec id, r.gen ≠ gen
            | .sleep wake acq => acq = 0 ∧ wake ≤ s.now s.me.core
            | .xacq => s.me.ext = .held ∨ s.me.ext = .none
            | _ => False
          let granted := a.savedWait = .xacq ∧ s.me.ext = .held
          if a.inTrap = true ∧ a.st ≠ .exited ∧ a.st ≠ .vacant ∧ a.st ≠ .filed then
            (done → b.st = .ready ∧ b.wait = .none) ∧ (¬ done → b.st = .waiting ∧ b.wait = a.savedWait) ∧
            b.pc = (if granted then a.savedPc + 12 else a.savedPc) ∧ b.blk = (if granted then a.savedBlk.bind Blk.step else a.savedBlk) ∧ b.inTrap = false ∧
            (∀ k, k < 7 → (sget t.me.regs.p k).getLsbD l = a.savedP.getLsbD k)
          else b.pc = a.pc ∧ b.inTrap = false) ∧
        t.me.held = s.me.held.filter Held.parked ∧ t.me.regs.v = s.me.regs.v ∧ t.me.regs.s = s.me.regs.s ∧ t.me.taint = s.me.taint ∧ t.me.mM = s.me.mM ∧
        t.hbm = s.hbm ∧ t.host = s.host ∧ t.tiles = s.tiles ∧ t.blocks = s.blocks)

/-- R74, R198: a word that is no instruction traps for the whole bundle with cause 0x01 and the sub-cause's code, and neither its STALL nor its Y applies: the slot
is busy for one cycle. A pending arm of the gang is withdrawn.
The model's choices in it: log entries 16 and 17. -/
def Obligations.IllegalWordTraps : Prop :=
  ∀ (s : State) (c : SubCause), s.err = none → s.issuing = true →
    let gid := s.cur.gid
    let s1 := { s with issuing := false }
    let o := ((if s.me.acq = 0 then s1.acquire gid else s1).modGang gid (fun g => { g with serial := g.serial + 1 })).readCode gid s.cur.pc
    o.wordAt gid s.cur.pc s.cur.mask = .error c →
      step s = .next ((((o.refetched (s.block s.me.block).launch s.cur.pc).withdrawArm gid).occupy 1 false 0).takeTrap gid 0x01 c.code (BitVec.ofNat 32 c.code) s.cur.pc s.cur.mask none)

/-! ## Synchronisation -/

/-- R105, R106, R160: `mjoin`, `mleave` and `mwait` make M ∪ e, M \ e, or A ∪ e of their mask register, where e are the executing threads (of an `mwait`, those
with no access of R158 left to drain arrive now), and the executing threads of an `mwait` wait on it. Then the release test: where A holds every live member
and some thread waits, A becomes empty and every waiting thread is ready. Nothing else of the gang or the machine changes. -/
def Obligations.MaskRegisterResults : Prop :=
  ∀ (f : Fields) (s : State),
    let e := s.execLanes f
    let m := f.d.index - 16
    let waiters := s.me.lanesWith (fun t => t.st == .waiting && t.wait == .mask m)
    let late := e &&& lanesFrom ((List.range 32).filter (fun l => !(s.drainIds s.cur.gid l).isEmpty))
    -- the state after: M and A of the mask before the release test, and the threads that come to wait
    let after := fun (mem arr new : Lanes) (t : State) =>
      let live := mem &&& ~~~(s.me.lanesWith Thread.gone &&& ~~~new)
      let released := e ≠ 0 ∧ arr &&& live = live ∧ waiters ||| new ≠ 0
      OnlyGang s.cur.gid s t ∧ t.me = { s.me with threads := t.me.threads, mM := t.me.mM, mA := t.me.mA, drains := t.me.drains } ∧
        (∀ k, sget t.me.mM k = if k = m then mem else sget s.me.mM k) ∧
        (∀ k, sget t.me.mA k = if k = m then (if released then 0 else arr) else sget s.me.mA k) ∧
        (¬ released → t.me.drains.take s.me.drains.length = s.me.drains ∧
          ∀ l, l < 32 → (new &&& late).getLsbD l = true → ∃ d ∈ t.me.drains, d.kind = 0 ∧ d.lane = l ∧ d.obj = m ∧ d.ids = s.drainIds s.cur.gid l) ∧
        ∀ l, l < 32 → t.me.thread l =
          if released ∧ (waiters ||| new).getLsbD l = true then { s.passed l with st := .ready, wait := .none }
          else if new.getLsbD l = true then { s.passed l with st := .waiting, wait := .mask m }
          else s.passed l
    (WellFormed (.mjoin f) → ∃ t, exec (.mjoin f) s = .next t ∧ after (sget s.me.mM m ||| e) (sget s.me.mA m) 0 t) ∧
    (WellFormed (.mleave f) → ∃ t, exec (.mleave f) s = .next t ∧ after (sget s.me.mM m &&& ~~~e) (sget s.me.mA m) 0 t) ∧
    (WellFormed (.mwait f) → ∃ t, exec (.mwait f) s = .next t ∧ after (sget s.me.mM m) (sget s.me.mA m ||| (e &&& ~~~late)) e t)

/-- R110, R111, R164: `reform` is illegal-operation for its bundle when an executing thread is a member of a mask. While a load in the taint of what it carries is outstanding, its
executing threads wait for it. Else each executing thread is filed at its target, read at issue, with its carried registers and predicates as they stand now, its thread number, its gang's flag
enables and check mode, in a packet of a bin for its block and target, or waits for a bin; a free bin takes at least the first. No register and no stored byte changes.
The model's choices in it: log entries 23 and 110. -/
def Obligations.ReformResults : Prop :=
  ∀ (f : Fields) (s : State),
    let e := s.execLanes f
    let n := (f.imm.extractLsb' 0 5).toNat
    let toward := fun l => s.readReg s.view l 0 f.a
    let r := s.me.view s.cur.t
    let waits := s.me.taintLoads (s.me.taintOf ((List.range n) ++ (List.range 7).map (512 + ·)))
    (e = 0 → ∃ t, exec (.reform f) s = .next t ∧ Gave (.reform f) 0 0 true (fun _ => 0) 0 0 (fun _ => none) s t) ∧
    (e ≠ 0 → (∃ k, k < 12 ∧ sget s.me.mM k &&& e ≠ 0) → exec (.reform f) s = .next (s.illop s.cur.gid s.cur.pc e)) ∧
    (e ≠ 0 → (∀ k, k < 12 → sget s.me.mM k &&& e = 0) → waits ≠ [] →
      ∃ t, exec (.reform f) s = .next t ∧ HeldFor (.reform f) (.loads waits) s t) ∧
    (e ≠ 0 → (∀ k, k < 12 → sget s.me.mM k &&& e = 0) → waits = [] → Keyed (s.core s.me.core).bins →
      ∃ t, exec (.reform f) s = .next t ∧ SameRegisters s t ∧ SameMemory s t ∧ t.me.flags = s.me.flags ∧ t.me.mM = s.me.mM ∧ t.me.mA = s.me.mA ∧
        (∀ l, l < 32 → e.getLsbD l = false → t.me.thread l = s.passed l) ∧
        (∀ l, l < 32 → e.getLsbD l = true →
          ((t.me.thread l).st = .waiting ∧ ∃ o, (t.me.thread l).wait = .reform n (toward l) o) ∨
          ((t.me.thread l).st = .filed ∧ (t.me.thread l).pc = toward l ∧
            ∃ b ∈ (t.core s.me.core).bins, b.2.block = s.me.block ∧ b.2.pc = toward l ∧ n ≤ b.2.n ∧
              ∃ p ∈ b.2.packets, p.v = (List.range n).map (fun k => sget r.v (32 * k + l)) ∧ p.p = r.preds l ∧
                p.tid = (s.me.thread l).tid ∧ p.ten = s.me.ten ∧ p.chk = s.me.chk)) ∧
        ((∃ k, k < 32 ∧ kfind (s.core s.me.core).bins k = none) → (t.me.thread (lowLane e)).st = .filed))

/-- R165, R166: an arrival at a block barrier is illegal-operation where n is above 32 × `sp.ngang`, an executing thread has an arrival pending there, or the generation is fixed
with another count. Else, where no executing thread has anything to drain, the generation takes the count n and an arrival of each; if that makes the expected count
(n, or for 0 the block's live threads) it ends: its number grows, nothing is pending and the executing threads go on; if not, those of a `bsync` wait for it, with
the arrival pending. `bwt` only waits, and only a thread with a pending arrival that n does not answer yet. -/
def Obligations.BlockBarrierResults : Prop :=
  ∀ (f : Fields) (s : State),
    let e := s.execLanes f
    let b := s.me.block
    let bar := (f.mod.extractLsb' 0 2).toNat
    let r := kget (s.block b).bars bar
    let n := if f.slot = 0 then (s.readReg s.view (lowLane e) 0 f.a).toNat else f.imm.toNat
    let bad := 32 * (s.block b).ngang < n ∨ (∃ l g, l < 32 ∧ e.getLsbD l = true ∧ (bar, g) ∈ (s.me.thread l).pend) ∨ (r.fixed = true ∧ n ≠ r.n)
    let count := r.count + (lanesOf e).length
    let done := (if n = 0 then s.liveThreads b else n) ≤ count
    let arrives := fun (i : Instr) (wait : Bool) =>
      (e ≠ 0 → bad → exec i s = .next (s.illop s.cur.gid s.cur.pc e)) ∧
      (e ≠ 0 → ¬ bad → (∀ l, l < 32 → e.getLsbD l = true → s.drainIds s.cur.gid l = [] ∧ (s.me.thread l).st = .ready ∧ (s.me.thread l).wait = .none) →
        s.cur.gid ∈ (s.block b).gangs →
        ∃ t, exec i s = .next t ∧ SameRegisters s t ∧ SameMemory s t ∧ t = { s with gangs := t.gangs, blocks := t.blocks } ∧
          (∀ k, kget (t.block b).bars k = if k = bar then (if done then { gen := r.gen + 1, count := 0, n := 0, fixed := false }
              else { gen := r.gen, count := count, n := n, fixed := true }) else kget (s.block b).bars k) ∧
          ∀ l, l < 32 → e.getLsbD l = true → (t.me.thread l).pc = (s.passed l).pc ∧
            (done → (t.me.thread l).st = .ready ∧ (t.me.thread l).wait = .none ∧ ∀ g, (bar, g) ∉ (t.me.thread l).pend) ∧
            (¬ done → (bar, r.gen) ∈ (t.me.thread l).pend ∧ (t.me.thread l).st = (if wait then .waiting else .ready) ∧
              (t.me.thread l).wait = (if wait then .bar bar r.gen 0 else .none)))
    arrives (.bsync f) true ∧ arrives (.barv f) false ∧
    (e ≠ 0 → 32 * (s.block b).ngang < n → exec (.bwt f) s = .next (s.illop s.cur.gid s.cur.pc e)) ∧
    (e = 0 ∨ n ≤ 32 * (s.block b).ngang → ∃ t, exec (.bwt f) s = .next t ∧ ThreadsOnly (.bwt f) (fun l =>
      match (s.me.thread l).pend.find? (fun p => p.1 == bar) with
      | some p => if e.getLsbD l = true ∧ ¬ (n ≠ 0 ∧ p.2 = r.gen ∧ n ≤ r.count) then { s.passed l with st := .waiting, wait := .bar bar p.2 n } else s.passed l
      | none => s.passed l) s t)

/-- R169, R170, R171: `nbatt` creates the entry of its name, or joins the gang to it; `nbarv` adds the gang to the arrived set, and the generation ends when that holds N gangs: its
number grows, and nobody is arrived; `nbwt` waits for the generation in which the gang has arrived; `nbdet` takes the gang out and N down by 1, and frees the entry at 0.
Each is illegal-operation in the cases of the table, and a new entry beyond 256 takes the barrier-spill trap. -/
def Obligations.NamedBarrierResults : Prop :=
  ∀ (f : Fields) (s : State),
    let e := s.execLanes f
    let gid := s.cur.gid
    let cl := kget s.clusters (s.me.core / 4)
    let held := (cl.bars.filter (fun kv => kv.2.attached.contains gid)).length
    let b := s.block s.me.block
    let a := s.readReg s.view (lowLane e) 0 f.a
    let name := if f.slot = 0 then a else f.imm
    let n := if f.slot = 0 then (s.readReg s.view (lowLane e) 0 f.b).toNat else f.imm.toNat
    let illop : Out := .next (s.illop gid s.cur.pc e)
    let bars := fun (t : State) => (kget t.clusters (s.me.core / 4)).bars
    let does := fun (i : Instr) (id : Nat) (new : Option NamedBar) =>
      ∃ t, exec i s = .next t ∧ t = { s with gangs := t.gangs, clusters := t.clusters, next := t.next } ∧ SameRegisters s t ∧
        (∀ l, l < 32 → (s.me.thread l).st ≠ .waiting → t.me.thread l = s.passed l) ∧ kfind (bars t) id = new ∧
        ∀ k, k ≠ id → kfind (bars t) k = kfind cl.bars k
    (∀ id, e ≠ 0 → s.namedId gid a = some id →
        let x := kget cl.bars id
        (n = 0 ∨ 768 < n ∨ x.n ≠ n ∨ (gid ∉ x.attached ∧ (x.n ≤ x.attached.length ∨ 8 ≤ held)) → exec (.nbatt f) s = illop) ∧
        (0 < n → n ≤ 768 → x.n = n → gid ∈ x.attached → Goes (.nbatt f) (fun _ => none) s) ∧
        (0 < n → n ≤ 768 → x.n = n → gid ∉ x.attached → x.attached.length < x.n → held < 8 → does (.nbatt f) id (some { x with attached := x.attached ++ [gid] }))) ∧
    (e ≠ 0 → s.namedId gid a = none →
        (n = 0 ∨ 768 < n ∨ 8 ≤ held → exec (.nbatt f) s = illop) ∧
        (0 < n → n ≤ 768 → held < 8 → 256 ≤ cl.bars.length → exec (.nbatt f) s = .next (s.takeTrap gid 0x08 0 a s.cur.pc e none)) ∧
        (0 < n → n ≤ 768 → held < 8 → cl.bars.length < 256 → (∀ kv ∈ cl.bars, kv.1 ≤ s.next) →
          does (.nbatt f) (s.next + 1) (some { asid := (s.launch b.launch).asid, launch := b.launch, stk := b.stk, clu := b.clu, name := a, n := n, attached := [gid], issued := [], arrived := [], gen := 0 }))) ∧
    (e ≠ 0 → s.namedId gid name = none → exec (.nbarv f) s = illop ∧ exec (.nbwt f) s = illop ∧ exec (.nbdet f) s = illop) ∧
    (∀ id, e ≠ 0 → s.namedId gid name = some id →
        let x := kget cl.bars id
        (gid ∉ x.attached ∨ gid ∈ x.issued → exec (.nbarv f) s = illop) ∧
        (gid ∈ x.attached → gid ∉ x.issued → 0 < x.n → (∀ l, l < 32 → e.getLsbD l = true → s.drainIds gid l = []) →
          does (.nbarv f) id (some (if x.arrived.length + 1 = x.n then { x with arrived := [], issued := [], gen := x.gen + 1 }
            else { x with arrived := x.arrived ++ [gid], issued := x.issued ++ [gid] }))) ∧
        (∃ t, exec (.nbwt f) s = .next t ∧ ThreadsOnly (.nbwt f) (fun l =>
          if e.getLsbD l = true ∧ gid ∈ x.issued then { s.passed l with st := .waiting, wait := .named id x.gen } else s.passed l) s t) ∧
        (gid ∉ x.attached → exec (.nbdet f) s = illop) ∧
        (gid ∈ x.attached →
          let y := { x with attached := x.attached.filter (· != gid), arrived := x.arrived.filter (· != gid), issued := x.issued.filter (· != gid), n := x.n - 1 }
          (x.n ≤ 1 → y.arrived = [] → Keyed cl.bars → does (.nbdet f) id none) ∧
          (1 < x.n → does (.nbdet f) id (some (if y.arrived.length = y.n then { y with arrived := [], issued := [], gen := y.gen + 1 } else y)))))

/-- R174, R179, R180: `twait` puts each executing thread to sleep until its count of cycles, at most 1,048,575, after the bundle's last beat; when that cycle is reached the thread is
ready, and with the last thread of a `twait.acq` its gang acquires. `region` records the next word and its block state as each executing thread's restart point, or with
`.off` forgets it; `ppoint` sets the gang's pre-emption mask to its operand's bits of slabs that the block has.
The model's choices in it: log entry 111. -/
def Obligations.TimedWaitAndPointResults : Prop :=
  ∀ (f : Fields) (s : State),
    let e := s.execLanes f
    let n := fun l => min 1048575 (if f.slot = 0 then (s.readReg s.view l 0 f.a).toNat else f.imm.toNat)
    let m : BitVec 16 := if f.slot = 0 then (s.readReg s.view (lowLane e) 0 f.a).setWidth 16 else f.imm.setWidth 16
    let slabs := (s.block s.me.block).slabs
    (∃ t, exec (.twait f) s = .next t ∧ OnlyGang s.cur.gid s t ∧
      t.me = { s.me with threads := t.me.threads, clkh := s.clkhAfter (.twait f) e, serial := s.me.serial + 1 } ∧
      ∀ l, l < 32 → t.me.thread l = if e.getLsbD l then
          { s.passed l with st := .waiting, wait := .sleep (s.lastBeat (.twait f) e + 1 + n l) (if f.mod.getLsbD 0 then s.me.serial + 1 else 0) }
        else s.passed l) ∧
    (∀ g l wake acq, l < 32 → ((s.gang g).thread l).st = .waiting → ((s.gang g).thread l).wait = .sleep wake acq → (s.gang g).active = true →
      wake ≤ s.now (s.gang g).core → ∃ t, exec (.twaitExpiry g l) s = .next t ∧ ((t.gang g).thread l).st = .ready ∧
        ((t.gang g).thread l).pc = ((s.gang g).thread l).pc ∧ (∀ k, k < 32 → k ≠ l → (t.gang g).thread k = (s.gang g).thread k) ∧
        t = { s with gangs := t.gangs, cores := t.cores } ∧ SameRegisters s t ∧
        (t.gang g).acq = (if acq ≠ 0 ∧ ∀ k, k < 32 → k ≠ l → ((s.gang g).thread k).sleepsFor acq = false then (s.core (s.gang g).core).acqGen + 1
          else (s.gang g).acq)) ∧
    (∃ t, exec (.region f) s = .next t ∧ OnlyGang s.cur.gid s t ∧ t.me = { s.me with threads := t.me.threads } ∧
      ∀ l, l < 32 → t.me.thread l = if e.getLsbD l then
          { s.passed l with region := if f.mod.getLsbD 0 then none else some (s.cur.pc + 12),
                            regionBlk := if f.mod.getLsbD 0 then none else (s.passed l).blk }
        else s.passed l) ∧
    (e = 0 → Goes (.ppoint f) (fun _ => none) s) ∧
    (e ≠ 0 → ∃ t, exec (.ppoint f) s = .next t ∧ OnlyGang s.cur.gid s t ∧
      t.me = { s.me with threads := t.me.threads, clkh := s.clkhAfter (.ppoint f) e, ppValid := true, ppMask := t.me.ppMask } ∧
      (∀ k, k < 16 → t.me.ppMask.getLsbD k = (m.getLsbD k && decide (k < slabs))) ∧ ∀ l, l < 32 → t.me.thread l = s.passed l)

/-- R115, R177, R178: `xacq` with k above 3, or another k than the block the gang holds or has asked for, is illegal-operation; with the block held it moves on; with none, or one asked for, its executing threads
wait at their own word, and where there is none it first queues one request of 2^k granules. Where every resident gang of the core then waits so and the head request cannot be served, the
lowest-numbered gang's request is withdrawn and it takes the trap 0x07. `xrel` with no block moves on; with a block held it waits until no write of its registers is outstanding, then frees the
block, and the values and taints of its registers are lost, those of every other register not; with a block asked for it withdraws the request, and the threads that wait for it take
illegal-operation at their word.
The model's choices in it: log entries 25, 26, 141 and 143. -/
def Obligations.ExtendedRegisterResults : Prop :=
  ∀ (f : Fields) (s : State),
    let e := s.execLanes f
    let k := if f.slot = 0 then (s.readReg s.view (lowLane e) 0 f.a).toNat else f.imm.toNat
    (e ≠ 0 → 3 < k ∨ (s.me.ext ≠ .none ∧ s.me.extK ≠ k) → exec (.xacq f) s = .next (s.illop s.cur.gid s.cur.pc e)) ∧
    (e = 0 ∨ (k ≤ 3 ∧ s.me.ext = .held ∧ s.me.extK = k) → ∃ t, exec (.xacq f) s = .next t ∧ ThreadsOnly (.xacq f) s.passed s t) ∧
    (e ≠ 0 → k ≤ 3 → s.me.ext = .queued ∨ s.me.ext = .clearing → s.me.extK = k → ∃ t, exec (.xacq f) s = .next t ∧
      ThreadsOnly (.xacq f) (fun l => if e.getLsbD l then { s.me.thread l with st := .waiting, wait := .xacq } else s.passed l) s t) ∧
    (e ≠ 0 → k ≤ 3 → s.me.ext = .none →
      ∃ t : State, exec (.xacq f) s = .next (t.allocDeadlock s.me.core) ∧ t = { s with gangs := t.gangs, cores := t.cores } ∧ t.me.ext = .queued ∧ t.me.extK = k ∧
        t.me.regs = s.me.regs ∧ (t.core s.me.core).allocQ = (s.core s.me.core).allocQ ++ [{ gid := s.cur.gid, ext := true, start := 0, size := 2 ^ k }] ∧
        (∀ l, l < 32 → t.me.thread l = if e.getLsbD l then { s.me.thread l with st := .waiting, wait := .xacq } else s.passed l) ∧
        ((s.core s.me.core).allocQ = [] → 2 ^ k ≤ freeGranules (s.core s.me.core).allocs → t.allocDeadlock s.me.core = t)) ∧
    (∀ core h q gid rest, (s.core core).allocQ = h :: q → s.residents core = gid :: rest → freeGranules (s.core core).allocs < h.size →
      (∀ g ∈ s.residents core, (s.gang g).ext = .queued ∧ (∀ l, l < 32 → ((s.gang g).thread l).st ≠ .ready) ∧ ∃ l, l < 32 ∧ ((s.gang g).thread l).wait = .xacq) →
      let lanes := (s.gang gid).lanesWith (fun t => t.wait == .xacq)
      ∃ u : State, s.allocDeadlock core = u.takeTrap gid 0x07 0 (BitVec.ofNat 32 (2 ^ (s.gang gid).extK)) ((s.gang gid).thread (lowLane lanes)).pc lanes none ∧
        u = { s with gangs := u.gangs, cores := u.cores } ∧ (u.gang gid).ext = .none ∧ (u.gang gid).regs = (s.gang gid).regs ∧
        ∀ a ∈ (u.core core).allocQ, ¬ (a.ext = true ∧ a.gid = gid)) ∧
    (e ≠ 0 → s.me.ext = .held → s.me.extBusy (s.now s.me.core) = true → ∃ t, exec (.xrel f) s = .next t ∧ HeldFor (.xrel f) .extIdle s t) ∧
    (e ≠ 0 → s.me.ext = .queued ∨ s.me.ext = .clearing →
      let lanes := s.me.lanesWith (fun t => t.wait == .xacq)
      ∃ t : State, exec (.xrel f) s = .next (if lanes = 0 then t else t.illop s.cur.gid (s.me.thread (lowLane lanes)).pc lanes) ∧
        t = { s with gangs := t.gangs, cores := t.cores } ∧ t.me = { s.me with threads := t.me.threads, ext := .none } ∧
        (∀ a ∈ (t.core s.me.core).allocQ, ¬ (a.ext = true ∧ a.gid = s.cur.gid)) ∧
        (∀ a ∈ (s.core s.me.core).allocQ, ¬ (a.ext = true ∧ a.gid = s.cur.gid) → a ∈ (t.core s.me.core).allocQ) ∧
        ∀ l, l < 32 → t.me.thread l = if lanes.getLsbD l then { s.passed l with wait := .none } else s.passed l) ∧
    (e = 0 ∨ s.me.ext = .none → Goes (.xrel f) (fun _ => none) s) ∧
    (e ≠ 0 → s.me.ext = .held → s.me.extBusy (s.now s.me.core) = false →
      ∃ t, exec (.xrel f) s = .next t ∧ t = { s with gangs := t.gangs, cores := t.cores } ∧ t.me.ext = .none ∧
        (∀ a ∈ (t.core s.me.core).allocs, ¬ (a.ext = true ∧ a.gid = s.cur.gid)) ∧
        (∀ a ∈ (s.core s.me.core).allocs, ¬ (a.ext = true ∧ a.gid = s.cur.gid) → a ∈ (t.core s.me.core).allocs) ∧
        (∀ c l, l < 32 → t.me.regs.codeVal c l = if s.me.nb ≤ c ∧ c < 256 then 0 else s.me.regs.codeVal c l) ∧
        (∀ c, sget t.me.taint c = if s.me.nb ≤ c ∧ c < 256 then 0 else sget s.me.taint c) ∧ ∀ l, l < 32 → t.me.thread l = s.passed l)

/-- R6, R84, R145, R202, R203, R308: what `wrsp` writes: flags are cleared by ones and TEN is replaced; ISSUE.CHECK, PHASE.OVF's bits and FAB.STAT's count; in trap state a mask's sets,
which ends every wait on it of the handler and of the threads that take part in it, and a thread's saved PC, which ends its wait and closes its block, or its saved predicates; a slab's configuration, with its contents kept, as a slab write of latency 4.
A register of trap state is illegal-operation outside it, and so is a configuration that R308 refuses; a read-only register keeps its value. -/
def Obligations.ControlWriteResults : Prop :=
  ∀ (f : Fields) (s : State), WellFormed (.wrsp f) →
    let e := s.execLanes f
    let n := f.ctlNum
    let x := s.readReg s.view (lowLane e) 0 f.a
    let y := fun l => s.readReg s.view l 0 f.a
    let ty := x.extractLsb' 21 5
    let rb := (x.extractLsb' 0 10).toNat
    let cfg := (ty = tyF32 ∨ (0x10 ≤ ty.toNat ∧ ty.toNat ≤ 0x16)) ∧ rb % 4 = 0 ∧ 4 ≤ rb ∧ rb ≤ 512 ∧ (ty ≠ tyF32 → rb % (4 * (ty.toNat - 14)) = 0)
    let handlers := (0x030 ≤ n ∧ n ≤ 0x03B) ∨ (0x040 ≤ n ∧ n ≤ 0x04B) ∨ n = 0x100 ∨ n = 0x102
    let slab := 0x050 ≤ n ∧ n ≤ 0x05F
    let m := n % 16
    let b := s.me.block
    let clk := s.clkhAfter (.wrsp f) e
    let ends := fun (k : Nat) (a : Thread) =>
      let a := if a.inTrap = true ∧ a.savedWait = .mask k then { a with savedWait := .none } else a
      if a.st = .waiting ∧ a.wait = .mask k then { a with st := .ready, wait := .none } else a
    let gives := fun (g : Gang → Gang) (th : Nat → Thread) => ∃ t, exec (.wrsp f) s = .next t ∧ OnlyGang s.cur.gid s t ∧
      t.me = g { s.me with threads := t.me.threads, clkh := clk, drains := t.me.drains, loads := t.me.loads, pend := t.me.pend, mM := t.me.mM, mA := t.me.mA } ∧
      (∀ k, sget t.me.mM k = if k = m ∧ 0x030 ≤ n ∧ n ≤ 0x03B then x else sget s.me.mM k) ∧
      (∀ k, sget t.me.mA k = if k = m ∧ 0x040 ≤ n ∧ n ≤ 0x04B then x else sget s.me.mA k) ∧
      (handlers ∨ (t.me.drains = s.me.drains ∧ t.me.loads = s.me.loads ∧ t.me.pend = s.me.pend)) ∧ ∀ l, l < 32 → t.me.thread l = th l
    (e = 0 → Goes (.wrsp f) (fun _ => none) s) ∧
    (e ≠ 0 → handlers → s.me.trap = false → exec (.wrsp f) s = .next (s.illop s.cur.gid s.cur.pc e)) ∧
    (e ≠ 0 → slab → ¬ cfg → exec (.wrsp f) s = .next (s.illop s.cur.gid s.cur.pc e)) ∧
    (e ≠ 0 → n = 0x010 → gives (fun g => { g with flags := s.me.flags &&& ~~~(x.setWidth 5), ten := x.extractLsb' 8 5 }) s.passed) ∧
    (e ≠ 0 → n = 0x012 → gives (fun g => { g with chk := x.getLsbD 0 }) s.passed) ∧
    (e ≠ 0 → n = 0x013 → gives (fun g => { g with ovf := s.me.ovf && !x.getLsbD 0, sbf := s.me.sbf && !x.getLsbD 1 }) s.passed) ∧
    (e ≠ 0 → n = 0x018 → gives (fun g => { g with fabFail := (x.extractLsb' 24 8).toNat }) s.passed) ∧
    (e ≠ 0 → ¬ handlers → ¬ slab → n ≠ 0x010 → n ≠ 0x012 → n ≠ 0x013 → n ≠ 0x018 → gives (fun g => g) s.passed) ∧
    (e ≠ 0 → s.me.trap = true → (0x030 ≤ n ∧ n ≤ 0x03B) ∨ (0x040 ≤ n ∧ n ≤ 0x04B) → gives (fun g => g) (fun l => ends m (s.passed l))) ∧
    (e ≠ 0 → s.me.trap = true → n = 0x100 → gives (fun g => g) (fun l =>
      if e.getLsbD l then { s.passed l with savedPc := y l, savedWait := .none, savedBlk := none } else s.passed l)) ∧
    (e ≠ 0 → s.me.trap = true → n = 0x102 → gives (fun g => g) (fun l =>
      if e.getLsbD l then { s.passed l with savedP := (y l).setWidth 7 } else s.passed l)) ∧
    (e ≠ 0 → slab → cfg → ∃ t, exec (.wrsp f) s = .next t ∧ t = { s with gangs := t.gangs, blocks := t.blocks } ∧ SameRegisters s t ∧
      (∀ k, kget (t.block b).slab k = if k = n - 0x050 then
          { kget (s.block b).slab k with ty := ty, rows := (x.extractLsb' 16 5).toNat + 1, rbytes := rb } else kget (s.block b).slab k) ∧
      (∃ p ∈ t.me.pend, p.reg = 768 + (n - 0x050) ∧ p.done = some (s.lastBeat (.wrsp f) e + 4)) ∧
      (∀ g ∈ (s.block b).gangs, (t.gang g).ppValid = false) ∧ (∀ k, (t.block k).mem = (s.block k).mem) ∧ ∀ l, l < 32 → t.me.thread l = s.passed l)

/-! ## Arrivals, the ends of waits, loads and acknowledgements -/

/-- R105, R106, R158, R166, R170: an arrival whose drain is over takes effect: the A bit of an `mwait` is set and the release test runs; a thread's count goes to its barrier generation, which
ends when it reaches the expected count; a gang joins the arrived set of its named barrier, which ends its generation when it holds N gangs. With no such drain nothing happens. -/
def Obligations.ArrivalEvents : Prop :=
  ∀ (s : State) (gid lane bar name : Nat) (d : Drain), lane < 32 →
    let g := s.gang gid
    let m := d.obj
    let live := sget g.mM m &&& ~~~(g.lanesWith Thread.gone)
    let waiters := g.lanesWith (fun t => t.st == .waiting && t.wait == .mask m)
    let arr := sget g.mA m ||| laneBit lane
    let released := arr &&& live = live ∧ waiters ≠ 0
    let r := kget (s.block g.block).bars bar
    let counted := (bar, d.gen) ∈ (g.thread lane).pend ∧ r.gen = d.gen
    let done := r.fixed = true ∧ (if r.n = 0 then s.liveThreads g.block else r.n) ≤ r.count + 1
    let cl := kget s.clusters (g.core / 4)
    let x := kget cl.bars d.obj
    (s.doneDrain gid (fun d => d.kind == 0 && d.lane == lane) = some d →
      ∃ t, exec (.maskArrival gid lane) s = .next t ∧ OnlyGang gid s t ∧
        t.gang gid = { g with threads := (t.gang gid).threads, mA := (t.gang gid).mA, drains := (t.gang gid).drains } ∧
        (∀ k, sget (t.gang gid).mA k = if k = m then (if released then 0 else arr) else sget g.mA k) ∧
        ∀ l, l < 32 → (t.gang gid).thread l = if released ∧ waiters.getLsbD l = true then { g.thread l with st := .ready, wait := .none } else g.thread l) ∧
    (s.doneDrain gid (fun d => d.kind == 0 && d.lane == lane) = none → exec (.maskArrival gid lane) s = .next s) ∧
    (s.doneDrain gid (fun d => d.kind == 1 && d.lane == lane && d.obj == bar) = some d →
      ∃ t, exec (.barrierArrival gid lane bar) s = .next t ∧ t = { s with gangs := t.gangs, blocks := t.blocks } ∧ SameRegisters s t ∧ SameMemory s t ∧
        (∀ k, kget (t.block g.block).bars k = if k = bar ∧ counted then (if done then { gen := r.gen + 1, count := 0, n := 0, fixed := false }
          else { r with count := r.count + 1 }) else kget (s.block g.block).bars k) ∧
        (¬ counted → ∀ l, l < 32 → (t.gang gid).thread l = g.thread l) ∧
        (counted → done → gid ∈ (s.block g.block).gangs → ∀ l, l < 32 → (∀ q, (bar, q) ∉ ((t.gang gid).thread l).pend) ∧
          ((g.thread l).st = .waiting → (g.thread l).wait = .bar bar r.gen 0 → ((t.gang gid).thread l).st = .ready))) ∧
    (s.namedId gid (BitVec.ofNat 32 name) = some d.obj → 0 < x.n → s.doneDrain gid (fun k => k.kind == 2 && k.obj == d.obj) = some d →
      ∃ t, exec (.namedBarrierArrival gid name) s = .next t ∧ t = { s with gangs := t.gangs, clusters := t.clusters } ∧ SameRegisters s t ∧
        kfind (kget t.clusters (g.core / 4)).bars d.obj = some (if x.arrived.length + 1 = x.n then { x with arrived := [], issued := [], gen := x.gen + 1 }
          else { x with arrived := x.arrived ++ [gid] }) ∧
        (x.arrived.length + 1 = x.n → ∀ k l, l < 32 → (s.gang k).live = true → ((s.gang k).thread l).st = .waiting → ((s.gang k).thread l).wait = .named d.obj x.gen →
          ((t.gang k).thread l).st = .ready)) ∧
    (s.doneDrain gid (fun d => d.kind == 1 && d.lane == lane && d.obj == bar) = none → exec (.barrierArrival gid lane bar) s = .next s) ∧
    (s.namedId gid (BitVec.ofNat 32 name) = none → exec (.namedBarrierArrival gid name) s = .next s) ∧
    (∀ id, s.namedId gid (BitVec.ofNat 32 name) = some id → s.doneDrain gid (fun k => k.kind == 2 && k.obj == id) = none →
      exec (.namedBarrierArrival gid name) s = .next s)

/-- R77, R175, R176, R187, R248, R250, R251, R264: a load whose answers have all come writes its lanes' bytes to its destination, extended as its type says, and no other register; its tag is free again and leaves
every taint, and SAT leaves them with the last load that takes a tag or SAT. An acknowledgement takes one performed store out of the counter, and no other. A waiting thread with no
monitor entry reads its watched word again, once for every thread of its bundle that is due to read it too, and next 128 cycles on; where that read, performed at its point, finds a thread's
condition true, the thread takes the value and is ready, else its word is watched from there on.
The model's choices in it: log entry 12. -/
def Obligations.LoadStoreAndWatchCompletion : Prop :=
  ∀ (s : State) (gid id lane : Nat) (l : LoadOp) (w : WaddrWait), lane < 32 →
    let g := s.gang gid
    let rest := g.loads.filter (fun x => x.id != id)
    let gone : Taint := (if l.tag < 16 then 1#17 <<< l.tag else (0 : Taint)) ||| (if ∃ x ∈ rest, x.tag ≤ 16 then (0 : Taint) else 1#17 <<< 16)
    -- the destinations that well-formed words have (R54, R58, R60)
    let goesTo := fun (o : Opnd) (uni : Bool) (n : Nat) => (∃ x : BitVec 8, o = .v x ∧ (x = 255 ∨ (uni = false ∧ x.toNat + n ≤ 256))) ∨ (∃ x : BitVec 8, o = .s x ∧ uni = true ∧ x.toNat + n ≤ 64)
    (g.loads.find? (fun x => x.id == id) = some l → l.tag ≠ 18 → l.reqs = [] → swf g.taint = true → l.lanes ≠ 0 → goesTo l.dst l.uni (mtyRegs l.ty) →
      ∃ t, exec (.loadPerform gid id) s = .next t ∧ OnlyGang gid s t ∧
        t.gang gid = { g with loads := rest, regs := (t.gang gid).regs, pend := (t.gang gid).pend, taint := (t.gang gid).taint, spTaint := (t.gang gid).spTaint } ∧
        (t.gang gid).pend = g.pend.filter (fun p => !(p.done == none && p.id == id)) ∧
        (∀ c, sget (t.gang gid).taint c = sget g.taint c &&& ~~~gone) ∧
        (swf g.spTaint = true → ∀ c, sget (t.gang gid).spTaint c = sget g.spTaint c &&& ~~~gone) ∧
        g.Wrote (t.gang gid) l.dst l.uni l.lanes (mtyRegs l.ty) (fun k => loadValue l.ty (sget l.vals k))) ∧
    (∀ (ty : BitVec 5) (y : BitVec 128) (k : Nat), k < 32 → tyBits ty < 32 →
      (loadValue ty y).getLsbD k = if k < tyBits ty then y.getLsbD k else tySigned ty && y.getLsbD (tyBits ty - 1)) ∧
    (∀ (ty : BitVec 5) (y : BitVec 128), 32 ≤ tyBits ty → loadValue ty y = y) ∧
    (∃ t, exec (.storeAck gid) s = .next t ∧ OnlyGang gid s t ∧ t.gang gid = { g with out := (t.gang gid).out } ∧
      (t.gang gid).out.filter (fun o => !o.2) = g.out.filter (fun o => !o.2) ∧
      ((t.gang gid).out.filter (fun o => o.2)).length = (g.out.filter (fun o => o.2)).length - 1) ∧
    -- the threads that are due to read the word that this one watches
    (let due := fun (k : Nat) (x : WaddrWait) => k < 32 ∧ (g.thread k).st = .waiting ∧ (g.thread k).wait = .waddr x ∧ x.entry = false ∧ x.fresh = false ∧
        x.next ≤ s.now g.core ∧ x.load = w.load ∧ x.loc = w.loc
     due lane w → g.active = true →
      ∃ t, exec (.waddrReread gid lane) s = .next t ∧ t = { s with gangs := t.gangs, reqs := t.reqs, next := t.next } ∧ t.reqs.take s.reqs.length = s.reqs ∧
        (∀ r ∈ t.reqs.drop s.reqs.length, r.kind = .waddr ∧ r.loc = w.loc ∧ r.gid = gid ∧ r.src = g.core ∧ r.load = w.load ∧ s.next < r.id) ∧
        (∀ k x, due k x → ∃ r ∈ t.reqs.drop s.reqs.length, r.lanes.getLsbD k = true ∧ r.handle = x.handle ∧ r.off = x.off) ∧
        ((∀ k x, due k x → x.handle = w.handle ∧ x.off = w.off) → t.reqs.length = s.reqs.length + 1) ∧
        (∀ k, k ≠ gid → t.gang k = s.gang k) ∧ t.gang gid = { g with threads := (t.gang gid).threads } ∧
        (∀ k x, due k x → (t.gang gid).thread k = { g.thread k with wait := .waddr { x with next := x.next + 128, fresh := true } }) ∧
        ∀ k, k < 32 → (∀ x, ¬ due k x) → (t.gang gid).thread k = g.thread k) ∧
    (∀ r : Req, r.kind = .waddr → r.gid = gid →
      -- the threads of the request that stand in their wait for its word
      let reads := fun (k : Nat) (x : WaddrWait) => k < 32 ∧ r.lanes.getLsbD k = true ∧ (g.thread k).st = .waiting ∧ (g.thread k).wait = .waddr x ∧
        x.load = r.load ∧ (g.thread k).inTrap = false
      let holds := fun (x : WaddrWait) => waddrCond x.cond (s.waddrVal x) x.cmp = true
      let t := s.perform r
      (∀ k, k < 32 → r.lanes.getLsbD k = false → (t.gang gid).thread k = g.thread k) ∧ (∀ k, k ≠ gid → t.gang k = s.gang k) ∧ SameMemory s t ∧
      (∀ k x, reads k x → (t.gang gid).thread k =
        (if holds x then { g.thread k with st := .ready, wait := .none } else { g.thread k with wait := .waddr { x with fresh := false } })) ∧
      (∀ k x y, reads k x → holds x → x.dst = .v y → y = 255 ∨ y.toNat + (if x.wide then 2 else 1) ≤ 256 → ∀ c, c < 256 →
        (t.gang gid).regs.codeVal c k = (resultIn x.dst false (laneBit k) (if x.wide then 2 else 1) (fun _ => (s.waddrVal x).setWidth 128) c k).getD (g.regs.codeVal c k)) ∧
      ((∀ k x, reads k x → ¬ holds x) → (t.gang gid).regs = g.regs))
/-! ## Memory accesses -/

/-- R221, R228, R230, R233, R405: an access whose table entry cannot be read is UNCORR; else the checks of an access come in the order of R228 and the first that fails names the fault kind: the entry (HANDLE), the bounds of the exact offset
(BOUNDS), the rights, the owner, the kind, the alignment, and then the page. One that passes goes to the place that the interleaving and the page's translation give; while no cache holds
that, a walk is needed, and a page that the walk did not find is NOTPRESENT. Block memory is checked for BOUNDS and then ALIGN.
Reading the entries for the checks changes nothing but what the controllers do with errors that stand in their lines, and nothing where none stands.
The model's choices in it: log entries 31, 32, 34, 115 and 142. -/
def Obligations.AccessChecks : Prop :=
  ∀ (s : State) (gid handle : Nat) (off : Int) (m : Ask) (e : BufEnt),
    let asid := (s.launchOf gid).asid
    let entry := s.bufEnt asid (handle % 2 ^ 16)
    let bad := s.entBad asid (handle % 2 ^ 16)
    let c := s.checkHandle gid handle off m
    let fails := fun k => c = .fail k handle (off % 2 ^ 64).toNat
    let ok1 := (e.kind = 1 ∨ e.kind = 2 ∨ e.kind = 3 ∨ e.kind = 4) ∧ e.gran ≤ 8 ∧ (e.kind = 4 ∨ e.smask ≠ 0) ∧ e.gen = handle / 2 ^ 16 % 2 ^ 16 ∧ (e.kind = 3 ∨ e.kspec = 0)
    let ok2 := 0 ≤ off ∧ off + (m.width : Int) ≤ e.len
    let ok3 := e.rights &&& m.rights = m.rights
    let ok6 := off.toNat % m.align = 0
    let g := if e.kind = kindTiled then max (256 * 2 ^ e.gran) 4096 else 256 * 2 ^ e.gran
    let sets := maskBits e.smask
    let space := if e.kind = kindHost then 12 else sets.getD (off.toNat / g % sets.length) 0
    let va := if e.kind = kindHost then e.base + off.toNat else e.base + off.toNat / g / sets.length * g + off.toNat % g
    let all := ok1 ∧ ok2 ∧ ok3 ∧ e.asid = asid ∧ m.kinds.contains e.kind = true ∧ ok6
    let held := s.cachedEnt (s.gang gid).core asid space va
    let blk := s.checkBlk gid off m
    let n := (s.block (s.gang gid).block).blkmem
    (bad = true → fails fkUncorr) ∧ (bad = false → entry = none → fails fkHandle) ∧
    (bad = false → entry = some e →
      (¬ ok1 → fails fkHandle) ∧ (ok1 → ¬ ok2 → fails fkBounds) ∧ (ok1 → ok2 → ¬ ok3 → fails fkRights) ∧
      (ok1 → ok2 → ok3 → e.asid ≠ asid → fails fkOwner) ∧ (ok1 → ok2 → ok3 → e.asid = asid → m.kinds.contains e.kind = false → fails fkKind) ∧
      (ok1 → ok2 → ok3 → e.asid = asid → m.kinds.contains e.kind = true → ¬ ok6 → fails fkAlign) ∧
      (all → held = none → (space, va / 2 ^ 16) ∉ s.cur.absent → c = .walk space (va / 2 ^ 16)) ∧
      (all → held = none → (space, va / 2 ^ 16) ∈ s.cur.absent → c = .fail fkNotPresent handle off.toNat) ∧
      (∀ x ∈ held.toList, all → (m.write = false ∨ e.kind = kindHost ∨ (kget s.keys e.key).spent = false) →
        c = .ok { loc := if space = 12 then .host (x.frame + va % 2 ^ 16) else .hbm (space * 2 ^ 36 + (x.frame + va % 2 ^ 16) % 2 ^ 36), handle := handle, off := off.toNat, kind := e.kind, pin := e.pin, key := e.key, grade := x.grade })) ∧
    (off < 0 ∨ (n : Int) < off + (m.width : Int) → blk = .fail fkBounds 0 (off % 2 ^ 64).toNat) ∧
    (0 ≤ off → off + (m.width : Int) ≤ n → off.toNat % m.align ≠ 0 → blk = .fail fkAlign 0 off.toNat) ∧
    (0 ≤ off → off + (m.width : Int) ≤ n → off.toNat % m.align = 0 →
      blk = .ok { loc := .blk (s.gang gid).block off.toNat, handle := 0, off := off.toNat, kind := 0, pin := false, key := 0, grade := 0 }) ∧
    ∀ cs : List Chk,
      let u := s.readEnts asid cs
      u = { s with hbm := u.hbm, lineInfo := u.lineInfo, mgmt := u.mgmt, cores := u.cores } ∧
        (∀ k, u.core k = { s.core k with seq := (u.core k).seq, recQ := (u.core k).recQ }) ∧
        ((∀ l, (kget s.lineInfo l).flips = 0 ∧ (kget s.lineInfo l).forged = false) → u = s)

/-- R205, R206: the executing threads of a `ld`, `st`, `atom`, `cas` or `red` whose checks fail are parked at the word, all of them where a uniform form's access fails; the bundle keeps the kind,
handle and offset of the lowest, and the registers read at issue, for its record and its replay, which are MEMORY_FAULT_PARK's. The bundle's other threads move on. -/
def Obligations.FailedChecksParkThreads : Prop :=
  ∀ (f : Fields) (s : State) (i : Instr) (rights : Nat) (write : Bool),
    (i = .ld f ∧ rights = rightR ∧ write = false) ∨ (i = .st f ∧ rights = rightW ∧ write = true) ∨
      ((i = .atom f ∨ i = .cas f ∨ i = .red f) ∧ rights = rightA ∧ write = true) → WellFormed i →
    let e := s.execLanes f
    let m := askOf f rights write
    let chk := fun l => s.checkLane s.view l f m
    let failing := (s.askers i).filter (fun l => match chk l with | .fail _ _ _ => true | _ => false)
    let bad := if Instr.uniform i then e else lanesFrom failing
    ∀ kind handle off, e ≠ 0 → s.taintClear i → failing ≠ [] → chk (failing.headD 0) = .fail kind handle off →
      (∀ l ∈ s.askers i, ∀ t, chk l = .ok t → (∀ pa, t.loc = .hbm pa → hbmExists pa = true) ∧
        ∀ k, k < 4 → s.watchHit s.me.core (s.launchOf s.cur.gid).asid t m k = false) →
      (∀ l ∈ s.askers i, ∀ a b, chk l ≠ .walk a b) →
      ∃ t, exec i s = .next t ∧
        (∀ l, l < 32 → bad.getLsbD l = true → t.me.thread l = { s.me.thread l with st := .parked, wait := .none, pc := s.cur.pc }) ∧
        (∀ l, l < 32 → bad.getLsbD l = false → s.cur.mask.getLsbD l = true → (s.me.thread l).st = .ready → t.me.thread l = s.passed l) ∧
        t.me.fails = s.me.fails ++ [{ lanes := bad, kind := kind, handle := handle, off := off, path := 0, word := encode i, pc := s.cur.pc, regs := s.view, iss := s.cur.iss, serial := s.cur.serial, low := lowLane bad }]

/-- R19, R222, R248, R250, R253, R255: a `ld` whose accesses pass starts its load. From block memory each word of each thread's access is a request to its bank; with a scope each access is a request of its own to the point of
service. A plain load takes from the store buffer an entry of its place, else from a line of the phase cache that the gang may hit, else asks: for the line of a tiled buffer, or
the host's bytes; a `.b128` asks for its two halves, the low one to be performed first.
The model's choices in it: log entry 35. -/
def Obligations.LoadResults : Prop :=
  ∀ (f : Fields) (s : State) (oks : List (Nat × Target)), WellFormed (.ld f) →
    let i := Instr.ld f
    let e := s.execLanes f
    let m := askOf f rightR false
    let w := tyBits f.mty / 8
    let u := s.asked i (!m.blk) (oks.map Prod.snd)
    Passes i m (fun l => s.checkLane s.view l f m) oks s →
    ∃ t l, exec i s = .next t ∧ s.me.Started l i e ∧ StartsLoad i (mtyRegs f.mty) l (s.me.newTaint i e ||| (1#17 <<< l.tag)) s t ∧
      t = { u with gangs := t.gangs, reqs := t.reqs, next := t.next } ∧
      (f.ss = 3 → SendsEach s t (wordParts (max 1 (w / 4)) oks) (fun x r => r.Asks s i .load (min w 4) x.1 ∧ r.AtBank s ∧ r.load = l.id ∧ r.id ∈ l.reqs ∧ r.shift = 4 * x.2 ∧
        ∀ k, k < 16 → (r.bytes.getLsbD k = true ↔ 4 * x.2 ≤ k ∧ k < 4 * x.2 + min w 4))) ∧
      (f.ss = 1 ∨ f.ss = 2 → SendsEach s t oks (fun o r => r.Asks s i .load w o ∧ r.load = l.id ∧ r.id ∈ l.reqs)) ∧
      (f.ss = 0 → w ≤ 8 → s.me.sb = [] → (∀ o ∈ oks, ∀ pa, o.2.loc = .hbm pa → s.lineHit s.cur.gid pa = none) →
        SendsEach s t oks (fun o r => r.Asks s i (if o.2.kind = kindTiled then .line else .load) w o ∧ r.load = l.id ∧ r.id ∈ l.reqs)) ∧
      (f.ss = 0 → w = 16 → s.me.sb = [] → (∀ o ∈ oks, ∀ pa, o.2.loc = .hbm pa → s.lineHit s.cur.gid pa = none ∧ s.lineHit s.cur.gid (pa + 8) = none) →
        SendsEach s t (oks.flatMap (fun o => [0, 1].map (fun k => ((o.1, { o.2 with loc := o.2.loc.plus (8 * k), off := o.2.off + 8 * k }), k))))
          (fun x r => r.Asks s i (if x.1.2.kind = kindTiled then .line else .load) 8 x.1 ∧ r.load = l.id ∧ r.id ∈ l.reqs ∧ r.shift = 8 * x.2 ∧
            (x.2 = 0 → r.half = 0) ∧ (x.2 = 1 → ∃ q ∈ t.reqs, q.id = r.half ∧ q.load = l.id ∧ q.lane = r.lane ∧ q.shift = 0))) ∧
      (f.ss = 0 → (∀ o ∈ oks, ∃ x ∈ s.me.sb.getLast?.toList, x.loc = o.2.loc ∧ x.width = w) → l.reqs = [] ∧ t.reqs = s.reqs ∧
        ∀ o ∈ oks, ∀ x ∈ s.me.sb.getLast?.toList, (sget l.vals o.1).toNat = x.val.toNat % 2 ^ (8 * w)) ∧
      (f.ss = 0 → w ≤ 8 → s.me.sb = [] → (∀ o ∈ oks, ∃ pa, o.2.loc = .hbm pa ∧ (s.lineHit s.cur.gid pa).isSome = true) → l.reqs = [] ∧ t.reqs = s.reqs ∧
        ∀ o ∈ oks, ∀ pa, o.2.loc = .hbm pa → ∀ ln ∈ (s.lineHit s.cur.gid pa).toList, (sget l.vals o.1).toNat = memRead ln.data (pa % 64) w)

/-- R223, R252, R256, R264, R271: a `st` whose accesses pass: to block memory each thread's bytes are one request to a bank, or four requests of a word for `.b128`; a plain store to a
buffer enters the store buffer, over an entry of its place, and where the buffer has no room for the bundle every older entry is first sent and SBF is set; a store with a scope is
sent at once and counts as unacknowledged.
The model's choices in it: log entries 35, 42 and 112. -/
def Obligations.StoreResults : Prop :=
  ∀ (f : Fields) (s : State) (oks : List (Nat × Target)), WellFormed (.st f) →
    let i := Instr.st f
    let m := askOf f rightW true
    let w := tyBits f.mty / 8
    let data := fun l => s.readGroup s.view l (mtyRegs f.mty) f.c
    let new := oks.map (fun o => ({ handle := o.2.handle, off := o.2.off, width := w, val := data o.1, loc := o.2.loc, pin := o.2.pin, key := o.2.key, lanes := if Instr.uniform i then s.execLanes f else laneBit o.1, pc := s.cur.pc } : SbEntry))
    let older := s.me.sb.filter (fun x => !(new.any (fun y => x.handle % 2 ^ 16 == y.handle % 2 ^ 16 && x.off == y.off && x.width == y.width)))
    let u := s.asked i (!m.blk) (oks.map Prod.snd)
    Passes i m (fun l => s.checkLane s.view l f m) oks s →
    ∃ t, exec i s = .next t ∧
      (f.ss = 3 → Sends s t ∧ t.me.out = s.me.out ∧ t = { u with gangs := t.gangs, reqs := t.reqs, next := t.next } ∧
        SendsEach s t (wordParts (if w = 16 then 4 else 1) oks) (fun x r => r.Asks s i .store (if w = 16 then 4 else w) x.1 ∧ r.AtBank s ∧ r.acked = false ∧
          r.val.toNat = (data x.1.1).toNat / 2 ^ (32 * x.2) % 256 ^ (if w = 16 then 4 else w))) ∧
      (f.ss = 0 → new.Pairwise (fun x y => ¬ (x.handle % 2 ^ 16 = y.handle % 2 ^ 16 ∧ x.off = y.off)) → SameMemory u t ∧ SameRegisters s t ∧
        (∀ k, k < 32 → t.me.thread k = s.passed k) ∧
        (older.length + new.length ≤ 64 → t.me.sb = older ++ new ∧ OnlyGang s.cur.gid u t ∧
          t.me = { s.me with threads := t.me.threads, clkh := t.me.clkh, stallTo := t.me.stallTo, sb := t.me.sb }) ∧
        (64 < older.length + new.length → t.me.sb = new ∧ t.me.sbf = true ∧ s.me.out.length + s.me.sb.length ≤ t.me.out.length)) ∧
      (f.ss = 1 ∨ f.ss = 2 → Sends s t ∧ t = { u with gangs := t.gangs, reqs := t.reqs, next := t.next, cores := t.cores } ∧
        SendsEach s t oks (fun o r => r.Asks s i .store w o ∧ r.val = data o.1 ∧ r.acked = true ∧ (r.id, false) ∈ t.me.out) ∧
        t.me.out.length = s.me.out.length + oks.length)

/-- R104, R223, R259, R260, R261: `atom`, `cas` and `red` whose accesses pass: each access is one request, to the bank of block memory or to the point of a tiled or host buffer, which performs it in one
step, with C's value (and for `cas` the value of D at issue) as its operand; a `red` counts as unacknowledged until it has been performed and acknowledged. The new values are those of R259; a `cas` writes only where the word equals D.
The model's choices in it: log entry 112. -/
def Obligations.AtomicResults : Prop :=
  ∀ (f : Fields) (s : State) (oks : List (Nat × Target)),
    let e := s.execLanes f
    let m := askOf f rightA true
    let w := tyBits f.mty / 8
    let c := fun l => s.readGroup s.view l (mtyRegs f.mty) f.c
    let d := fun l => s.readGroup s.view l (mtyRegs f.mty) f.d
    let passes := fun i => Passes i m (fun l => s.checkLane s.view l f m) oks s
    let u := fun i => s.asked i (!m.blk) (oks.map Prod.snd)
    let bank := fun (r : Req) => f.ss = 4 → r.AtBank s
    let started := fun (i : Instr) (l : LoadOp) (t : State) => s.me.Started l i e ∧ StartsLoad i (mtyRegs f.mty) l (s.me.newTaint i e ||| (1#17 <<< l.tag)) s t ∧
      t = { u i with gangs := t.gangs, reqs := t.reqs, next := t.next, cores := t.cores } ∧ (f.ss = 4 → t.cores = s.cores)
    (WellFormed (.atom f) → passes (.atom f) → ∃ t l, exec (.atom f) s = .next t ∧ started (.atom f) l t ∧
      SendsEach s t oks (fun o r => r.Asks s (.atom f) .atom w o ∧ bank r ∧ r.load = l.id ∧ r.id ∈ l.reqs ∧ r.op = atomOp f ∧ r.signed = tySigned f.mty ∧ r.cmp = (c o.1).setWidth 64)) ∧
    (WellFormed (.cas f) → passes (.cas f) → ∃ t l, exec (.cas f) s = .next t ∧ started (.cas f) l t ∧
      SendsEach s t oks (fun o r => r.Asks s (.cas f) .cas w o ∧ bank r ∧ r.load = l.id ∧ r.id ∈ l.reqs ∧ r.val = c o.1 ∧ r.cmp = (d o.1).setWidth 64)) ∧
    (WellFormed (.red f) → passes (.red f) → ∃ t, exec (.red f) s = .next t ∧ Sends s t ∧
      t = { u (.red f) with gangs := t.gangs, reqs := t.reqs, next := t.next, cores := t.cores } ∧ (f.ss = 4 → t.cores = s.cores) ∧
      t.me.out.length = s.me.out.length + oks.length ∧
      SendsEach s t oks (fun o r => r.Asks s (.red f) .red w o ∧ bank r ∧ r.op = atomOp f ∧ r.signed = tySigned f.mty ∧ r.val = c o.1 ∧
        r.acked = true ∧ (r.id, false) ∈ t.me.out)) ∧
    (∀ r : Req, r.kind = .cas → (∀ pa, r.loc ≠ .hbm pa) → let old := s.peekN r.loc r.width
      (s.perform r).peekN r.loc r.width = if old = r.cmp.toNat % 2 ^ (8 * r.width) then r.val.toNat % 256 ^ r.width else old) ∧
    (∀ (sg : Bool) (k old x : Nat), k = 4 ∨ k = 8 → old < 2 ^ (8 * k) → x < 2 ^ (8 * k) →
      let lt := fun a b => if sg then intOf true (8 * k) (BitVec.ofNat 64 a) < intOf true (8 * k) (BitVec.ofNat 64 b) else a < b
      memOpNew .add sg k old x = (old + x) % 2 ^ (8 * k) ∧ memOpNew .exch sg k old x = x ∧ memOpNew .and sg k old x = old &&& x ∧ memOpNew .or sg k old x = old ||| x ∧
      memOpNew .xor sg k old x = old ^^^ x ∧ memOpNew .binc sg k old x = (if old < x then old + 1 else old) ∧
      (lt x old → memOpNew .min sg k old x = x ∧ memOpNew .max sg k old x = old) ∧ (¬ lt x old → memOpNew .min sg k old x = old) ∧
      (lt old x → memOpNew .max sg k old x = x))

/-- R224, R225, R258: a `spill` in bounds writes its registers into the words of the executing threads' spill stacks and sets the words' shadows, those of a gang whose live threads all execute to the register's taint and
others joined with it; `fill` starts a load without a tag that reads those words, with the shadows as its taint; a word that nothing has written since the gang's first issue is an undefined value of its ASID, which the word then holds and is set to. An
offset out of bounds or misaligned parks the executing threads.
The model's choices in it: log entries 9 and 63. -/
def Obligations.SpillStackResults : Prop :=
  ∀ (f : Fields) (s : State), s.execLanes f ≠ 0 →
    let e := s.execLanes f
    let b := s.me.block
    let n := mtyRegs f.mty
    let off := f.imm24.toInt
    let w := tyBits f.mty / 8
    let ok := 0 ≤ off ∧ off + (w : Int) ≤ (s.block b).stack ∧ off % w = 0
    let word := off.toNat / 4
    let at_ := fun l k => (s.block b).blkmem + 32 * s.me.idx * (s.block b).stack + 128 * (word + k) + 4 * l
    let src := fun l => s.readGroup s.view (if Instr.uniform (.spill f) then lowLane e else l) n f.c
    let fullGang := s.me.lanesWith (fun t => !t.gone) &&& ~~~e = 0
    let code := fun k => match f.c with | .v x => if x = 255 then none else some (x.toNat + k) | .s x => some (256 + x.toNat + k) | _ => none
    (WellFormed (.spill f) → ok → ∃ t, exec (.spill f) s = .next t ∧ t = { s with gangs := t.gangs, blocks := t.blocks, lags := t.lags, next := t.next, mgmt := t.mgmt, soft := t.soft } ∧
      (∀ k, k ≠ b → t.block k = s.block k) ∧ (s.soft = [] → t.mgmt = s.mgmt) ∧
      (∀ l k, l < 32 → k < n → e.getLsbD l = true → memRead (t.block b).mem (at_ l k) 4 = (src l >>> (32 * k)).toNat % 2 ^ 32) ∧
      (∀ a, (∀ l k, l < 32 → k < n → e.getLsbD l = true → a < at_ l k ∨ at_ l k + 4 ≤ a) → memByte (t.block b).mem a = memByte (s.block b).mem a) ∧
      (∀ k, k < n → sget t.me.spTaint (word + k) =
        (let x : Taint := match code k with | some c => sget s.me.taint c | none => 0
         if fullGang then x else sget s.me.spTaint (word + k) ||| x)) ∧
      (NoWatchers s → SameRegisters s t ∧ ∀ l, l < 32 → t.me.thread l = s.passed l)) ∧
    (WellFormed (.fill f) → ok →
      let asid := (s.launchOf s.cur.gid).asid
      let key := fun j k => 32 * (word + k) + j
      ∃ t l, exec (.fill f) s = .next t ∧ l.tag = 17 ∧ l.reqs = [] ∧ l.dst = f.d ∧ l.ty = f.mty ∧ l.lanes = e ∧ l.uni = Instr.uniform (.fill f) ∧
        StartsLoad (.fill f) n l ((List.range n).foldl (fun x k => x ||| sget s.me.spTaint (word + k)) (s.me.guardTaint f.guard e)) s t ∧
        t = { s with gangs := t.gangs, next := t.next, blocks := t.blocks, undefs := t.undefs } ∧
        (∀ k, t.block k = { s.block k with mem := (t.block k).mem }) ∧ (∀ k, k ≠ b → t.block k = s.block k) ∧
        (∀ j ∈ s.askers (.fill f), ∀ k, k < n →
          let v := (sget l.vals j).toNat / 2 ^ (32 * k) % 2 ^ 32
          (sget s.me.spSet (key j k) = 1 → v = memRead (s.block b).mem (at_ j k) 4) ∧
          (sget s.me.spSet (key j k) ≠ 1 → ∃ c, kget s.undefs asid ≤ c ∧ c < kget t.undefs asid ∧ v = (Config.freeBits asid c).toNat % 2 ^ 32) ∧
          memRead (t.block b).mem (at_ j k) 4 = v ∧ sget t.me.spSet (key j k) = 1) ∧
        (∀ a, (∀ j ∈ s.askers (.fill f), ∀ k, k < n → sget s.me.spSet (key j k) ≠ 1 → a < at_ j k ∨ at_ j k + 4 ≤ a) → memByte (t.block b).mem a = memByte (s.block b).mem a) ∧
        ((∀ j ∈ s.askers (.fill f), ∀ k, k < n → sget s.me.spSet (key j k) = 1) → t = { s with gangs := t.gangs, next := t.next })) ∧
    (∀ i, (i = .spill f ∨ i = .fill f) → WellFormed i → ¬ ok → ∃ t, exec i s = .next t ∧ OnlyGang s.cur.gid s t ∧
      (∀ l, l < 32 → t.me.thread l = if e.getLsbD l then { s.me.thread l with st := .parked, wait := .none, pc := s.cur.pc } else s.passed l) ∧
      t.me.fails = s.me.fails ++ [{ lanes := e, kind := if off < 0 ∨ ((s.block b).stack : Int) < off + w then fkBounds else fkAlign, handle := 0, off := (off % 2 ^ 64).toNat, path := 0, word := encode i, pc := s.cur.pc, regs := s.view, iss := s.cur.iss, serial := s.cur.serial, low := lowLane e }] ∧ t.me.regs = s.me.regs)

/-- R263, R264, R266, R267, R268: with nothing unacknowledged, `phase.rel` on an empty store buffer and `sbwait` move on, `phase.ar` also acquires, and with something unacknowledged they wait; `phase.acq` takes the
core's next acquire generation; with stores in the store buffer both first send every entry to its point, a `.b128` as two halves of which the low one comes first, and wait for the
acknowledgements; `pfence` puts what the writer paths have written before it before the gang's later accesses on the reader paths, once the gang's own stores to block memory have been performed where T is a
writer; `tsync` with no load to wait for takes SAT from its register, or from all; `untaint` empties its
register's taint. Each does so and nothing else; a `tsync` with loads to wait for waits for them.
The model's choices in it: log entries 42, 48 and 65. -/
def Obligations.PhaseAndTaintResults : Prop :=
  ∀ (f : Fields) (s : State), s.execLanes f ≠ 0 →
    let e := s.execLanes f
    let core := s.me.core
    let next := (s.core core).acqGen + 1
    let acquires := fun (i : Instr) => ∃ t, exec i s = .next t ∧ t = { s with gangs := t.gangs, cores := t.cores } ∧ (∀ g, g ≠ s.cur.gid → t.gang g = s.gang g) ∧
      t.me = { s.me with threads := t.me.threads, acq := next } ∧ (t.core core).acqGen = next ∧ (∀ k, k ≠ core → t.core k = s.core k) ∧ ∀ l, l < 32 → t.me.thread l = s.passed l
    let waits := fun (i : Instr) => ∃ t, exec i s = .next t ∧ SameRegisters s t ∧ (∀ l, l < 32 → e.getLsbD l = true → (t.me.thread l).st = .waiting ∧ (t.me.thread l).wait = .comp ∧
      (t.me.thread l).pc = (s.me.thread l).pc) ∧ ∃ h ∈ t.me.held, h.cond = .stores ∧ h.bundle.mask = e ∧ h.bundle.word = some (encode i)
    let codes := opCodes 1 f.a
    let ids := if f.opx = 1 then (s.me.loads.filter (fun l => decide (l.tag ≤ 16))).map (fun l => l.id) else s.me.taintLoads (s.me.taintOf codes)
    let toward := pathSet (f.mod.extractLsb' 2 4)
    let from_ := pathSet (f.mod.extractLsb' 6 4)
    let own := if Path.t ∈ from_ then s.bankStores s.cur.gid else []
    let upto := if s.cur.stage = 0 then s.next else s.cur.pkt
    let goes := fun (i : Instr) => ∃ t, exec i s = .next t ∧ Gave i 0 0 true (fun _ => 0) 0 0 (fun _ => none) s t
    let sends := fun (i : Instr) => ∃ t, exec i s = .next t ∧ t.me.sb = [] ∧ HeldFor i .stores s t ∧ SameMemory s t ∧
      t = { s with gangs := t.gangs, cores := t.cores, reqs := t.reqs, next := t.next, free := t.free } ∧ t.reqs.take s.reqs.length = s.reqs ∧
      t.reqs.length = s.reqs.length + (s.me.sb.map (fun x => if x.width = 16 then 2 else 1)).sum ∧
      (∀ r ∈ t.reqs.drop s.reqs.length, r.kind = .store ∧ r.gid = s.cur.gid ∧ r.path = .t ∧ r.acked = true ∧ (r.id, false) ∈ t.me.out) ∧
      ∀ x ∈ s.me.sb,
        (x.width ≠ 16 → ∃ r ∈ t.reqs.drop s.reqs.length, r.loc = x.loc ∧ r.width = x.width ∧ r.val = x.val ∧ r.key = x.key) ∧
        (x.width = 16 → ∃ r ∈ t.reqs.drop s.reqs.length, ∃ q ∈ t.reqs.drop s.reqs.length, r.loc = x.loc ∧ r.width = 8 ∧ r.val.toNat = x.val.toNat % 2 ^ 64 ∧ r.half = 0 ∧
          q.loc = x.loc.plus 8 ∧ q.width = 8 ∧ q.val = x.val >>> 64 ∧ q.half = r.id)
    (s.me.out = [] ∨ s.cur.stage ≠ 0 → s.me.sb = [] → goes (.phaseRel f) ∧ acquires (.phaseAr f)) ∧
    (s.me.out = [] ∨ s.cur.stage ≠ 0 → goes (.sbwait f)) ∧
    (s.me.out ≠ [] → s.cur.stage = 0 → s.me.sb = [] → waits (.phaseRel f) ∧ waits (.phaseAr f) ∧ waits (.sbwait f)) ∧
    (s.me.sb ≠ [] → s.cur.stage = 0 → sends (.phaseRel f) ∧ sends (.phaseAr f)) ∧
    acquires (.phaseAcq f) ∧
    (own ≠ [] → s.cur.stage = 0 → ∃ t, exec (.pfence f) s = .next t ∧ HeldFor (.pfence f) (.done own) s t ∧
      ∃ h ∈ t.me.held, h.cond = .done own ∧ h.bundle.pkt = s.next) ∧
    (own = [] ∨ s.cur.stage ≠ 0 → ∃ t, exec (.pfence f) s = .next t ∧ t = { s with gangs := t.gangs, lags := t.lags } ∧ OnlyGang s.cur.gid { s with lags := t.lags } t ∧
      t.me = { s.me with threads := t.me.threads } ∧ (∀ l, l < 32 → t.me.thread l = s.passed l) ∧ t.lags.length = s.lags.length ∧
      (∀ (k : Nat) (x y : Lag), s.lags[k]? = some x → t.lags[k]? = some y → y = { x with seen := y.seen } ∧ (∀ z ∈ x.seen, z ∈ y.seen) ∧ (x.from_ ∉ from_ → y = x) ∧
        ∀ z ∈ y.seen, z ∈ x.seen ∨ (z.gid = s.cur.gid ∧ z.path ∈ toward ∧ z.after = s.next)) ∧
      ((∀ x ∈ s.lags, ∀ z ∈ x.seen, z.after ≤ s.next) → ∀ y ∈ t.lags, y.from_ ∈ from_ → y.num ≤ upto → ∀ p ∈ toward, p ≠ .t → ∀ serial, s.next < serial →
        t.lagBefore p s.cur.gid serial y = true)) ∧
    (ids ≠ [] → s.cur.stage = 0 → ∃ t, exec (.tsync f) s = .next t ∧ HeldFor (.tsync f) (.loads ids) s t) ∧
    (ids = [] ∨ s.cur.stage ≠ 0 → swf s.me.taint = true → ∃ t, exec (.tsync f) s = .next t ∧ OnlyGang s.cur.gid s t ∧
      t.me = { s.me with threads := t.me.threads, clkh := t.me.clkh, taint := t.me.taint, spTaint := t.me.spTaint } ∧ (∀ l, l < 32 → t.me.thread l = s.passed l) ∧
      (∀ c, sget t.me.taint c = if f.opx = 1 ∨ c ∈ codes then sget s.me.taint c &&& ~~~(1#17 <<< 16) else sget s.me.taint c)) ∧
    (∃ t, exec (.untaint f) s = .next t ∧ OnlyGang s.cur.gid s t ∧ t.me = { s.me with threads := t.me.threads, taint := t.me.taint } ∧
      (∀ l, l < 32 → t.me.thread l = s.passed l) ∧ (∀ c, sget t.me.taint c = if c ∈ opCodes 1 f.d then 0 else sget s.me.taint c))

/-- R175, R176, R242, R269, R270: `tfetch` asks each distinct tile that its threads name to arrive, and `tevict` marks those that are resident as victims, changing no byte; `mdld` and `mdst` ask the line's metadata of its home slice, with the
capacity of its page's grade; `waddr` puts each executing thread to wait at the next word on its word, condition and comparand, with D outstanding, and asks the point of the word (a bank, a home slice or the fabric port) to read it,
once for the threads that name the same word; each takes a monitor entry while the core has one.
The model's choices in it: log entry 44. -/
def Obligations.TileMetadataAndWatchResults : Prop :=
  ∀ (f : Fields) (s : State) (oks : List (Nat × Target)),
    let e := s.execLanes f
    let tileA : Ask := { rights := rightR, kinds := [kindTiled], width := 1, align := 1, write := false, blk := false }
    let metaA := fun rights write => ({ rights := rights, kinds := [kindTiled], width := tyBits f.mty / 8, align := 64, write := write, blk := false } : Ask)
    let wide := f.mod.getLsbD 2
    let watchA : Ask := { rights := rightR, kinds := [kindTiled, kindHost], width := if wide then 8 else 4, align := if wide then 8 else 4, write := false, blk := f.mod.getLsbD 0 }
    let passes := fun i m => Passes i m (fun l => s.checkLane s.view l f m) oks s
    let u := fun i m => s.asked i (!m.blk) (oks.map Prod.snd)
    let tile := fun (o : Nat × Target) => match o.2.loc with | .hbm pa => some (pa / 4096) | _ => none
    let cap := fun grade => if grade = 1 then (28 : BitVec 64) else if grade = 2 then 56 else 0
    (WellFormed (.tfetch f) → passes (.tfetch f) tileA → ∃ t, exec (.tfetch f) s = .next t ∧ t = { u (.tfetch f) tileA with gangs := t.gangs, reqs := t.reqs, next := t.next } ∧ Sends s t ∧ t.me.out = s.me.out ∧
      t.reqs.take s.reqs.length = s.reqs ∧ (∀ r ∈ t.reqs.drop s.reqs.length, r.kind = .tfetch ∧ ∃ o ∈ oks, r.loc = o.2.loc) ∧
      (∀ o ∈ oks, ∃ r ∈ t.reqs.drop s.reqs.length, ∃ q ∈ oks, r.loc = q.2.loc ∧ tile q = tile o)) ∧
    (WellFormed (.tevict f) → Passes (.tevict f) tileA (fun l => s.checkLane s.view l f tileA) oks { s with cur := { s.cur with stage := 1 } } →
      ∃ t, exec (.tevict f) s = .next t ∧ t = { u (.tevict f) tileA with gangs := t.gangs, tiles := t.tiles } ∧ Sends s t ∧ t.me.out = s.me.out ∧
      ∀ k, t.tile k = if (s.tile k).st = .resident ∧ ∃ o ∈ oks, tile o = some k then { s.tile k with victim := true } else s.tile k) ∧
    (WellFormed (.mdld f) → passes (.mdld f) (metaA rightR false) → ∃ t l, exec (.mdld f) s = .next t ∧ s.me.Started l (.mdld f) e ∧
      StartsLoad (.mdld f) (mtyRegs f.mty) l (s.me.newTaint (.mdld f) e ||| (1#17 <<< l.tag)) s t ∧ t = { u (.mdld f) (metaA rightR false) with gangs := t.gangs, reqs := t.reqs, next := t.next } ∧
      SendsEach s t oks (fun o r => r.Asks s (.mdld f) .mdld (tyBits f.mty / 8) o ∧ r.load = l.id ∧ r.cmp = cap o.2.grade)) ∧
    (WellFormed (.mdst f) → passes (.mdst f) (metaA rightW true) → ∃ t, exec (.mdst f) s = .next t ∧ Sends s t ∧
      t = { u (.mdst f) (metaA rightW true) with gangs := t.gangs, reqs := t.reqs, next := t.next, cores := t.cores } ∧
      SendsEach s t oks (fun o r => r.Asks s (.mdst f) .mdst (tyBits f.mty / 8) o ∧ r.cmp = cap o.2.grade ∧ r.acked = true ∧ (r.id, false) ∈ t.me.out ∧
        r.val = s.readGroup s.view o.1 (mtyRegs f.mty) f.c)) ∧
    (WellFormed (.waddr f) → passes (.waddr f) watchA → ∃ t l, exec (.waddr f) s = .next t ∧ t = { u (.waddr f) watchA with gangs := t.gangs, reqs := t.reqs, next := t.next } ∧
      t.me.regs = s.me.regs ∧ t.me.flags = s.me.flags ∧ t.me.loads = s.me.loads ++ [l] ∧ l.tag = 18 ∧ l.lanes = e ∧
      (∀ x ∈ opCodes (if wide then 2 else 1) f.d, ∃ p ∈ t.me.pend, p.reg = x ∧ p.done = none ∧ p.id = l.id) ∧
      s.me.Tainted t.me (opCodes (if wide then 2 else 1) f.d) e (s.me.newTaint (.waddr f) e) ∧
      (∀ g, g ≠ s.cur.gid → t.gang g = { s.gang g with ovf := (t.gang g).ovf }) ∧
      (∀ k, k < 32 → e.getLsbD k = false → t.me.thread k = s.passed k) ∧
      (∀ o ∈ oks, ∃ w, t.me.thread o.1 = { s.passed o.1 with st := .waiting, wait := .waddr w } ∧ w.loc = o.2.loc ∧ w.wide = wide ∧ w.cond = f.mod.extractLsb' 3 3 ∧
        w.cmp = s.readOp s.view o.1 wide f.c ∧ w.dst = f.d ∧ w.load = l.id ∧ w.fresh = true ∧ ((s.monitors s.me.core).length + oks.length ≤ 64 → w.entry = true)) ∧
      t.reqs.take s.reqs.length = s.reqs ∧
      (∀ r ∈ t.reqs.drop s.reqs.length, r.kind = .waddr ∧ r.gid = s.cur.gid ∧ r.width = (if wide then 8 else 4) ∧ r.load = l.id ∧ r.lane = lowLane r.lanes ∧
        ∀ o ∈ oks, r.lanes.getLsbD o.1 = true → r.loc = o.2.loc) ∧
      (∀ o ∈ oks, ∃ r ∈ t.reqs.drop s.reqs.length, r.lanes.getLsbD o.1 = true ∧ r.loc = o.2.loc ∧ r.handle = o.2.handle ∧ r.off = o.2.off) ∧
      ((∀ o ∈ oks, ∀ q ∈ oks, o.2.loc = q.2.loc ∧ o.2.handle = q.2.handle ∧ o.2.off = q.2.off) → t.reqs.length = s.reqs.length + 1))
/-! ## Copies, slabs and the matrix array -/

/-- R290, R293, R294, R297, R298: a `cp` or `cpq` whose ends pass their checks over the whole extent takes a free slot, with the ends, rows and lengths of its operands: a `cp` of L = 0 is done
at once, a `cpq` writes its slab's configured region, keeps the gang's pending bit on the slab, clears VALID, and with `.a` leaves its arm pending. With no slot free the executing threads of either wait
for one, and the command that has waited takes it with no further check. Where an end of either fails a check, its executing threads are parked, with PATH 1 and the kind, handle and offset of the check that
comes first in the order of R228, of two ends that fail the same one the destination's, and it takes no slot.
The model's choices in it: log entries 36 and 58. -/
def Obligations.CopyCommandResults : Prop :=
  ∀ (f : Fields) (s : State), s.execLanes f ≠ 0 →
    let e := s.execLanes f
    let gid := s.cur.gid
    let b := s.me.block
    let l := lowLane e
    let reg := fun k o => (s.readReg s.view l k o).toNat
    let rows := if f.slot = 0 then 1 else (f.imm.extractLsb' 0 12).toNat + 1
    let doff : Nat := reg 2 f.a + 2 ^ 32 * reg 3 f.a
    let soff : Nat := reg 4 f.a + 2 ^ 32 * reg 5 f.a
    let len := reg 6 f.a
    let ds := if f.slot = 0 then 0 else reg 0 f.b
    let ss := if f.slot = 0 then 0 else reg 0 f.c
    let dEnd := s.checkEnd gid (f.mod.getLsbD 0) (reg 0 f.a) doff rows ds len rightD
    let sEnd := s.checkEnd gid (f.mod.getLsbD 1) (reg 1 f.a) soff rows ss len rightC
    let slab := kget (s.block b).slab f.a.index
    let qoff : Int := (reg 2 f.b + 2 ^ 32 * reg 3 f.b : Nat) + (if f.slot = 0 then 0 else f.imm24.toInt)
    let qEnd := s.checkEnd gid (f.mod.getLsbD 1) (reg 0 f.b) qoff slab.rows (reg 1 f.b) slab.rbytes rightC
    let there := fun (t : Target) => ∀ pa, t.loc = .hbm pa → hbmExists pa = true
    let slot := ∃ id, id < 512 ∧ kfind s.copies (512 * s.me.core + id) = none
    let begins := fun (i : Instr) => WellFormed i ∧ s.taintClear i ∧ s.cur.cmd = none
    -- the command waits for a slot, in the state that its checks leave
    let waits := fun (i : Instr) (u : State) => ∃ t, exec i s = .next t ∧ HeldFor i .copySlot u t
    -- the check of the n-th end comes first
    let first := fun (cs : List Chk) (n kind : Nat) =>
      ∀ m k h o, cs[m]? = some (Chk.fail k h o) → checkRank kind < checkRank k ∨ (checkRank kind = checkRank k ∧ n ≤ m)
    let parks := fun (i : Instr) (cs : List Chk) => ∀ n k h o, cs[n]? = some (Chk.fail k h o) → first cs n k → (k = fkKeyExh → ∀ x y, Chk.walk x y ∉ cs) →
      ∃ t, exec i s = .next t ∧ OnlyGang gid (s.checked i true cs) t ∧ kfind t.copies = kfind s.copies ∧
        (∀ j, j < 32 → t.me.thread j = if e.getLsbD j then { s.me.thread j with st := .parked, wait := .none, pc := s.cur.pc } else s.passed j) ∧
        t.me.fails = s.me.fails ++ [{ lanes := e, kind := k, handle := h, off := o, path := 1, word := encode i, pc := s.cur.pc, regs := s.view, iss := s.cur.iss, serial := s.cur.serial, low := lowLane e }]
    (∀ d c, begins (.cp f) → dEnd = .ok d → sEnd = .ok c → there d → there c →
      let u := s.asked (.cp f) (!(d.loc.isBlk && c.loc.isBlk)) [d, c]
      (slot → ∃ t id x, exec (.cp f) s = .next t ∧ TakesSlot (.cp f) id x u t ∧ x.state = (if len = 0 then 0 else 2) ∧ x.rows = rows ∧ x.len = len ∧
        x.dst.sort = (if f.mod.getLsbD 0 then 0 else 1) ∧ x.dst.handle = reg 0 f.a ∧ x.dst.off = doff ∧ x.dst.stride = ds ∧
        x.src.sort = (if f.mod.getLsbD 1 then 0 else 1) ∧ x.src.handle = reg 1 f.a ∧ x.src.off = soff ∧ x.src.stride = ss ∧ t.me.arm = s.me.arm) ∧
      (¬ slot → waits (.cp f) u)) ∧
    (∀ c, begins (.cpq f) → qEnd = .ok c → there c →
      let u := s.asked (.cpq f) (!c.loc.isBlk) [c]
      (slot → ∃ t id x, exec (.cpq f) s = .next t ∧ TakesSlot (.cpq f) id x u t ∧ x.state = 2 ∧ x.rows = slab.rows ∧ x.len = slab.rbytes ∧
        x.dst.sort = 2 ∧ x.dst.slab = f.a.index ∧ x.dst.stride = 512 ∧ x.src.sort = (if f.mod.getLsbD 1 then 0 else 1) ∧ x.src.handle = reg 0 f.b ∧
        x.src.off = qoff.toNat ∧ x.src.stride = reg 1 f.b ∧ x.armed = f.mod.getLsbD 4 ∧
        t.me.arm = (if f.mod.getLsbD 4 then some (512 * s.me.core + id) else s.me.arm) ∧
        (∃ p ∈ t.me.pend, p.reg = 768 + f.a.index ∧ p.done = none ∧ p.id = x.pid) ∧ ∀ g ∈ (s.block b).gangs, (t.gang g).ppValid = false) ∧
      (¬ slot → waits (.cpq f) u)) ∧
    (∀ x i, (i = .cp f ∨ i = .cpq f) → WellFormed i → s.taintClear i → s.cur.cmd = some x →
      (slot → ∃ t id c, exec i s = .next t ∧ TakesSlot i id c s t ∧ Copy.SameCommand x c) ∧ (¬ slot → waits i s)) ∧
    (begins (.cp f) → parks (.cp f) [dEnd, sEnd]) ∧ (begins (.cpq f) → parks (.cpq f) [qEnd])

/-- R295, R296, R299, R300, R301: `cpst` reads the status word of the copy whose ID its register holds, FAILED where a fault has ended it, 7 where the gang does not hold it, and a DONE or FAILED read observes the copy's end; `cpflag` attaches a record to it, which is written at once where the copy
is complete, or is illegal-operation; `cpcommit` closes the open batch, which with the older ones retires once its copies are complete, or with 16 committed waits for room; `cpwait` then waits
until at most n are left, and has then observed the end of every copy that has retired. -/
def Obligations.CopyBatchResults : Prop :=
  ∀ (f : Fields) (s : State), s.execLanes f ≠ 0 →
    let e := s.execLanes f
    let l := lowLane e
    let id := (s.readReg s.view l 0 f.a).toNat % 512
    let held := s.heldCopy s.cur.gid id
    let w := if f.slot = 0 then (s.readReg s.view l 0 f.b).toNat else (f.imm.extractLsb' 0 18).toNat
    let room := (s.block s.me.block).blkmem
    let sv := s.readReg s.view l 0 f.d
    let word := fun (c : Copy) => match c.failed with
      | some k => 256 * k + 1
      | none => if c.state = 1 then 256 * c.kind + 1 else c.state
    let n := if f.slot = 0 then min 15 (s.readReg s.view l 0 f.a).toNat else (f.imm.extractLsb' 0 4).toNat
    let all := s.me.batches ++ [s.me.open_]
    let finished := fun b => b.all (fun k => (kget s.copies k).complete)
    let moves := fun (t : State) => (∀ j, j < 32 → t.me.thread j = s.passed j) ∧ SameRegisters s t
    (WellFormed (.cpst f) → s.taintClear (.cpst f) → ∃ t, exec (.cpst f) s = .next t ∧
      Gave (.cpst f) 1 4 false (fun _ => BitVec.ofNat 128 ((match held with | none => 7 | some kc => word kc.2) % 2 ^ 32)) (s.me.newTaint (.cpst f) e) 0 (fun _ => none) { s with lags := t.lags } t ∧
      t.lags = (match held with | some kc => if kc.2.state < 2 ∨ kc.2.failed.isSome = true then (s.observe s.cur.gid kc.2.serial).lags else s.lags | none => s.lags)) ∧
    (WellFormed (.cpflag f) → s.taintClear (.cpflag f) → held = none ∨ (∃ kc, held = some kc ∧ kc.2.record.isSome = true) ∨ w % 8 ≠ 0 ∨ room < w + 8 →
      exec (.cpflag f) s = .next (s.illop s.cur.gid s.cur.pc e)) ∧
    (∀ k c, WellFormed (.cpflag f) → s.taintClear (.cpflag f) → held = some (k, c) → c.record = none → w % 8 = 0 → w + 8 ≤ room → ∃ t, exec (.cpflag f) s = .next t ∧
      t.copies = kset s.copies k { c with record := some (w, sv) } ∧ t = { s with gangs := t.gangs, blocks := t.blocks, copies := t.copies, lags := t.lags, next := t.next, mgmt := t.mgmt, soft := t.soft } ∧
      (s.soft = [] → t.mgmt = s.mgmt) ∧ (NoWatchers s → moves t) ∧ (c.complete = false → t.blocks = s.blocks ∧ t.lags = s.lags) ∧
      (c.complete = true → memRead (t.block c.block).mem w 4 = sv.toNat ∧ memRead (t.block c.block).mem (w + 4) 4 = word c % 2 ^ 32 ∧
        ∀ a, a < w ∨ w + 8 ≤ a → memByte (t.block c.block).mem a = memByte (s.block c.block).mem a)) ∧
    (s.taintClear (.cpcommit f) → s.me.open_ = [] → ∃ t, exec (.cpcommit f) s = .next t ∧ Gave (.cpcommit f) 0 0 true (fun _ => 0) 0 0 (fun _ => none) s t) ∧
    (s.taintClear (.cpcommit f) → s.me.open_ ≠ [] → s.me.batches.length < 16 → (∀ b ∈ all.head?, finished b = false) →
      ∃ t, exec (.cpcommit f) s = .next t ∧ OnlyGang s.cur.gid s t ∧ moves t ∧ t.me.open_ = [] ∧ t.me.batches = all) ∧
    (s.taintClear (.cpcommit f) → s.me.open_ ≠ [] → s.me.batches = [] → finished s.me.open_ = true →
      ∃ t, exec (.cpcommit f) s = .next t ∧ moves t ∧ t.me.open_ = [] ∧ t.me.batches = [] ∧ t = { s with gangs := t.gangs, copies := t.copies } ∧
        t.me.retired = s.me.retired ++ s.me.open_.map (fun k => (kget s.copies k).serial) ∧
        t.copies = s.copies.filter (fun kv => !s.me.open_.contains kv.1)) ∧
    (s.taintClear (.cpcommit f) → s.me.open_ ≠ [] → 16 ≤ s.me.batches.length → ∃ t, exec (.cpcommit f) s = .next t ∧ HeldFor (.cpcommit f) .batchRoom s t) ∧
    (WellFormed (.cpwait f) → s.taintClear (.cpwait f) → s.me.open_ = [] → s.me.batches.length ≤ n ∨ s.cur.stage = 2 → ∃ t, exec (.cpwait f) s = .next t ∧
      ThreadsOnly (.cpwait f) s.passed { s.modGang s.cur.gid (fun g => { g with retired := [] }) with lags := t.lags } t ∧
      t.lags = (s.me.retired.foldl (fun s x => s.observe s.cur.gid x) s).lags) ∧
    (WellFormed (.cpwait f) → s.taintClear (.cpwait f) → s.cur.stage ≠ 2 → s.me.open_ ≠ [] → s.me.batches.length < 16 → (∀ b ∈ all.head?, finished b = false) → ∃ t, exec (.cpwait f) s = .next t ∧
      t.me.open_ = [] ∧ t.me.batches = all ∧ (all.length ≤ n → moves t) ∧ (n < all.length → HeldFor (.cpwait f) (.batches n) s t)) ∧
    (WellFormed (.cpwait f) → s.taintClear (.cpwait f) → s.cur.stage ≠ 2 → s.me.open_ ≠ [] → 16 ≤ s.me.batches.length →
      ∃ t, exec (.cpwait f) s = .next t ∧ HeldFor (.cpwait f) .batchRoom s t) ∧
    (WellFormed (.cpwait f) → s.taintClear (.cpwait f) → s.me.open_ = [] → n < s.me.batches.length → s.cur.stage ≠ 2 →
      ∃ t, exec (.cpwait f) s = .next t ∧ HeldFor (.cpwait f) (.batches n) s t)

/-- R308, R312, R313, R314, R324, R326, R327, R405: `scfg` writes a slab's configuration, its bytes kept, or is illegal-operation where R308 refuses it; `szero` zeroes the slab's bytes, its configuration kept; `smov.in` writes each executing
thread's word into its place of the row's segment, `smov.out` reads it, words beyond RBYTES not written and read as zero, with a row beyond ROWS illegal; `samax` gives the largest
magnitude of an `.f32` slab's region, or the canonical NaN. A slab with an uncorrectable error gives MEMFAULT to those that read it; a correctable one is corrected and counted. -/
def Obligations.SlabResults : Prop :=
  ∀ (f : Fields) (s : State), s.execLanes f ≠ 0 →
    let e := s.execLanes f
    let illop : Out := .next (s.illop s.cur.gid s.cur.pc e)
    let x : Word := if f.slot = 0 then s.readReg s.view (lowLane e) 0 f.a
      else BitVec.ofNat 32 (f.ty.toNat * 2 ^ 21 + (f.imm.extractLsb' 0 5).toNat * 2 ^ 16 + (f.imm.extractLsb' 8 10).toNat)
    let ty := x.extractLsb' 21 5
    let rb := (x.extractLsb' 0 10).toNat
    let cfg := (ty = tyF32 ∨ (0x10 ≤ ty.toNat ∧ ty.toNat ≤ 0x16)) ∧ rb % 4 = 0 ∧ 4 ≤ rb ∧ rb ≤ 512 ∧ (ty ≠ tyF32 → rb % (4 * (ty.toNat - 14)) = 0)
    let row := if f.slot = 0 then (s.readReg s.view (lowLane e) 0 f.b).toNat % 32 else f.imm.toNat % 32
    let off := fun l => 4 * (32 * (f.mod.extractLsb' 1 2).toNat + l)
    let sd := kget (s.block s.me.block).slab f.d.index
    let sa := kget (s.block s.me.block).slab f.a.index
    let guard := s.me.guardTaint f.guard e
    let mag := fun r c => memRead sa.data (512 * r + 4 * c) 4 % 2 ^ 31
    let met := if sa.flaw = 1 then (s.modSlab s.me.block f.a.index (fun x => { x with flaw := 0 })).countMg 0x0200 else s
    let flawed : Out := .next (s.takeTrap s.cur.gid 0x09 9 9 s.cur.pc e none)
    (WellFormed (.scfg f) → ¬ cfg → exec (.scfg f) s = illop) ∧
    (WellFormed (.scfg f) → cfg → ∃ t, exec (.scfg f) s = .next t ∧ WritesSlab (.scfg f) f.d.index 4 (fun o n =>
      n = { o with ty := ty, rows := (x.extractLsb' 16 5).toNat + 1, rbytes := rb }) s t ∧ SameRegisters s t) ∧
    (WellFormed (.szero f) → ∃ t, exec (.szero f) s = .next t ∧ WritesSlab (.szero f) f.d.index 16 (fun o n => n = { o with data := [], flaw := 0 }) s t ∧ SameRegisters s t) ∧
    (WellFormed (.smovIn f) → sd.rows ≤ row → exec (.smovIn f) s = illop) ∧
    (WellFormed (.smovIn f) → row < sd.rows → ∃ t, exec (.smovIn f) s = .next t ∧ SameRegisters s t ∧ WritesSlab (.smovIn f) f.d.index 4 (fun o n => n = { o with data := n.data } ∧
      (∀ l, l < 32 → e.getLsbD l = true → off l + 4 ≤ o.rbytes → memRead n.data (512 * row + off l) 4 = (s.readReg s.view l 0 f.a).toNat) ∧
      (∀ a, (∀ l, l < 32 → e.getLsbD l = true → off l + 4 ≤ o.rbytes → a < 512 * row + off l ∨ 512 * row + off l + 4 ≤ a) → memByte n.data a = memByte o.data a)) s t) ∧
    (WellFormed (.smovOut f) → sa.rows ≤ row → exec (.smovOut f) s = illop) ∧
    (WellFormed (.smovOut f) → row < sa.rows → 2 ≤ sa.flaw → exec (.smovOut f) s = flawed) ∧
    (WellFormed (.smovOut f) → row < sa.rows → sa.flaw < 2 → ∃ t, exec (.smovOut f) s = .next t ∧
      Gave (.smovOut f) 1 12 false (fun l => if off l + 4 ≤ sa.rbytes then BitVec.ofNat 128 (memRead sa.data (512 * row + off l) 4) else 0) guard 0 (fun _ => none) met t) ∧
    (WellFormed (.samax f) → sa.ty ≠ tyF32 → exec (.samax f) s = illop) ∧
    (WellFormed (.samax f) → sa.ty = tyF32 → 2 ≤ sa.flaw → exec (.samax f) s = flawed) ∧
    (WellFormed (.samax f) → sa.ty = tyF32 → sa.flaw < 2 → ∃ t v, exec (.samax f) s = .next t ∧ Gave (.samax f) 1 36 false (fun _ => BitVec.ofNat 128 v) guard 0 (fun _ => none) met t ∧
      ((∃ r c, r < sa.rows ∧ c < sa.rbytes / 4 ∧ 0x7F800000 < mag r c) → v = 0x7FC00000) ∧
      ((∀ r c, r < sa.rows → c < sa.rbytes / 4 → mag r c ≤ 0x7F800000) →
        (∀ r c, r < sa.rows → c < sa.rbytes / 4 → mag r c ≤ v) ∧ (v = 0 ∨ ∃ r c, r < sa.rows ∧ c < sa.rbytes / 4 ∧ mag r c = v)))

/-- R298, R315, R317, R320, R321: an `mma` whose slabs R317 refuses is illegal-operation; else it joins its slot's queue of the array with its slabs, options and the 32 scale pairs of its lanes, a vacant place's free, and
keeps C pending. An `mma.a` that R317 refuses, or without the arm of its copy, is illegal-operation, and an arm that the gang has is withdrawn; one that has it goes to the copy engine, to wait for its copy, and the arm is gone.
The model's choices in it: log entries 60, 64, 123 and 132. -/
def Obligations.MmaResults : Prop :=
  ∀ (f : Fields) (s : State), WellFormed (.mma f) → s.execLanes f ≠ 0 →
    let e := s.execLanes f
    let gid := s.cur.gid
    let core := s.me.core
    let qc := f.d.index
    let qa := f.a.index
    let qb := (f.imm.extractLsb' 0 4).toNat
    let slab := fun k => kget (s.block s.me.block).slab k
    let bits := fun (x : Slab) => x.ty.toNat - 14
    let bfp := fun (x : Slab) => 0x10 ≤ x.ty.toNat ∧ x.ty.toNat ≤ 0x16 ∧ x.rows = 32
    let ok := bfp (slab qa) ∧ bfp (slab qb) ∧ (slab qc).ty = tyF32 ∧ (slab qc).rows = 32 ∧ (slab qc).rbytes = 128 ∧
      8 * (slab qa).rbytes / bits (slab qa) = 8 * (slab qb).rbytes / bits (slab qb) ∧ 8 * (slab qa).rbytes / bits (slab qa) ≤ 256 ∧ qc ≠ qa ∧ qc ≠ qb
    let armed := f.mod.getLsbD 0
    let sid := (sget s.view.s (f.imm.extractLsb' 8 6).toNat).toNat % 512
    let issued := fun (m : Mma) => m.gid = gid ∧ m.block = s.me.block ∧ m.c = qc ∧ m.a = qa ∧ m.b = qb ∧ m.z = f.mod.getLsbD 1 ∧ m.bsel = (f.imm.extractLsb' 4 3).toNat ∧
      m.ea.length = 32 ∧ m.eb.length = 32 ∧ ∀ l, l < 32 → (s.me.thread l).st ≠ .vacant →
        m.ea.getD l 0 = s.readOp s.view l true f.b ∧ m.eb.getD l 0 = s.readOp s.view l true f.c
    let after := fun (t : State) (m : Mma) => issued m ∧ SameRegisters s t ∧ (∀ l, l < 32 → t.me.thread l = s.passed l) ∧ (∀ g ∈ (s.block s.me.block).gangs, (t.gang g).ppValid = false) ∧
      t = { s with gangs := t.gangs, cores := t.cores, next := t.next, undefs := t.undefs }
    (¬ ok → armed = false → exec (.mma f) s = .next (s.illop gid s.cur.pc e)) ∧
    (ok → armed = false → ∃ t m, exec (.mma f) s = .next t ∧ after t m ∧ m.from_ = s.me.place / 48 ∧ (t.core core).mmaQ = (s.core core).mmaQ ++ [m] ∧
      (t.core core).armed = (s.core core).armed ∧ ∃ p ∈ t.me.pend, p.reg = 768 + qc ∧ p.done = none ∧ p.id = m.id) ∧
    (armed = true → ¬ ok ∨ (∀ key ∈ s.me.arm, key % 512 ≠ sid) → exec (.mma f) s = .next ((s.withdrawArm gid).illop gid s.cur.pc e)) ∧
    (∀ key c, armed = true → ok → s.me.arm = some key → key % 512 = sid → kfind s.copies key = some c → c.gid = gid → c.dst.sort = 2 → c.complete = false → (∀ k x, kfind s.copies k = some x → x.state ≠ 1) →
      (∀ x ∈ (s.core core).armed, x.failed = none) → (∀ q k, kfind s.me.slabEnds q = some k → k = 0) →
      ∃ t m, exec (.mma f) s = .next t ∧ after t m ∧ m.from_ = 4 ∧ t.me.arm = none ∧ (t.core core).mmaQ = (s.core core).mmaQ ∧
        ∃ x, (t.core core).armed = (s.core core).armed ++ [x] ∧ x.mma = m ∧ x.copy = c.serial ∧ c.serial ∈ x.needs ∧ x.failed = none)

/-- R88, R90, R91, R181, R322, R323, R325, R326: `quant` packs the quantised values of its executing threads, zero for every other lane, into the words of its v destination's lanes, or the block of a slab's row, with the NaN flag to its
predicate and IV for a signalling NaN, or is illegal-operation where the slab does not fit; `bexp` gives the block exponent of each value; `swb` takes a copy slot with the slab's bytes as they
stand, and its amax word; one whose slab has an uncorrectable error takes its slot and fails.
The model's choices in it: log entry 59. -/
def Obligations.QuantiseAndWriteBackResults : Prop :=
  ∀ (f : Fields) (s : State), s.execLanes f ≠ 0 →
    let e := s.execLanes f
    let gid := s.cur.gid
    let w := f.ty.toNat - 14
    let ctl : Word := if f.slot = 0 then s.readReg s.view (lowLane e) 0 f.b else f.imm
    let ex := ctl.toNat % 256
    let row := (ctl.extractLsb' 8 5).toNat
    let blk := (ctl.extractLsb' 13 3).toNat
    let a := fun l => s.readReg s.view l 0 f.a
    let m := fun l => if e.getLsbD l then (quantise (a l) ex w).1 % 2 ^ w else 0
    let nan := (lanesOf e).any (fun l => (quantise (a l) ex w).2)
    let iv : BitVec 5 := if (lanesOf e).any (fun l => decide (isSNaNBits fp32 (a l).toNat)) then 1 else 0
    let pd := if f.slot = 0 then f.c.index else (f.imm.extractLsb' 16 3).toNat
    let q := f.d.index
    let sl := kget (s.block s.me.block).slab q
    let toSlab := f.d = .q (BitVec.ofNat 8 q)
    let fits := sl.ty = f.ty ∧ row < sl.rows ∧ 4 * w * (blk + 1) ≤ sl.rbytes
    let ends := fun (t : State) => Host.Outcome.next (φ := Fault) (ρ := Refusal) (if iv &&& s.me.ten = 0 then t
      else t.takeTrap gid 0x03 0 (iv.setWidth 32) s.cur.pc e none)
    let pred := fun (t : State) => ∀ l, l < 32 → ∀ k, k < 7 → (sget t.me.regs.p k).getLsbD l = if k = pd ∧ e.getLsbD l = true then nan else (sget s.me.regs.p k).getLsbD l
    let src := kget (s.block s.me.block).slab f.a.index
    let met := fun (u : State) => if src.flaw = 1 then (u.modSlab s.me.block f.a.index (fun x => { x with flaw := 0 })).countMg 0x0200 else u
    let l := lowLane e
    let reg := fun k o => (s.readReg s.view l k o).toNat
    let off : Int := (reg 2 f.b + 2 ^ 32 * reg 3 f.b : Nat) + f.imm24.toInt
    let dEnd := s.checkEnd gid (f.opx.getLsbD 0) (reg 0 f.b) off src.rows (reg 1 f.b) src.rbytes rightD
    (WellFormed (.quant f) → toSlab → ¬ fits → exec (.quant f) s = .next (s.illop gid s.cur.pc e)) ∧
    (WellFormed (.quant f) → toSlab → fits → ∃ t, exec (.quant f) s = ends t ∧ t.me.flags = s.me.flags ||| iv ∧ pred t ∧ t.me.regs.v = s.me.regs.v ∧ t.me.regs.s = s.me.regs.s ∧
      WritesSlab (.quant f) q 10 (fun o n => n = { o with data := n.data } ∧
        (∀ j, j < 32 → (memRead n.data (512 * row + 4 * w * blk) (4 * w) / 2 ^ (w * j) % 2 ^ w : Nat) = m j) ∧
        ∀ x, x < 512 * row + 4 * w * blk ∨ 512 * row + 4 * w * (blk + 1) ≤ x → memByte n.data x = memByte o.data x) s t) ∧
    (WellFormed (.quant f) → ¬ toSlab → ∃ t packed, exec (.quant f) s = ends t ∧ (∀ j, j < 32 → ((packed / 2 ^ (w * j) % 2 ^ w : Nat) : Int) = m j) ∧ OnlyGang gid s t ∧
      t.me.flags = s.me.flags ||| iv ∧ pred t ∧ t.me.regs.s = s.me.regs.s ∧ (∀ j, j < 32 → t.me.thread j = s.passed j) ∧
      (∀ j x, j < 32 → x < 256 → t.me.regs.codeVal x j =
        if f.d = .v (BitVec.ofNat 8 x) ∧ x ≠ 255 ∧ j < w ∧ s.cur.mask.getLsbD j = true then BitVec.ofNat 32 (packed / 2 ^ (32 * j)) else s.me.regs.codeVal x j)) ∧
    (WellFormed (.bexp f) → ∃ t, exec (.bexp f) s = .next t ∧ Gave (.bexp f) 1 5 true (fun j => (blockExp (a j)).setWidth 128) (s.me.newTaint (.bexp f) e) 0 (fun _ => none) s t) ∧
    (WellFormed (.swb f) → s.taintClear (.swb f) → f.sco ≠ 0 → src.ty ≠ tyF32 → exec (.swb f) s = .next (s.illop gid s.cur.pc e)) ∧
    (∀ d am, WellFormed (.swb f) → s.taintClear (.swb f) → (f.sco ≠ 0 → src.ty = tyF32) → s.cur.cmd = none → dEnd = .ok d → s.checkAmax f s.view l = am.map Chk.ok →
      (∀ t ∈ d :: am, ∀ pa, t.loc = .hbm pa → hbmExists pa = true) → (∃ id, id < 512 ∧ kfind s.copies (512 * s.me.core + id) = none) →
      (src.flaw < 2 → ∃ t id c, exec (.swb f) s = .next t ∧
        TakesSlot (.swb f) id c (met (s.asked (.swb f) (!(d :: am).all (fun t => t.loc.isBlk)) (d :: am))) t ∧ c.state = 2 ∧ c.rows = src.rows ∧ c.len = src.rbytes ∧
        c.data = src.data ∧ c.src.sort = 2 ∧ c.dst.handle = reg 0 f.b ∧ c.dst.off = off.toNat ∧ c.dst.stride = reg 1 f.b ∧ c.dst.sort = (if f.opx.getLsbD 0 then 0 else 1) ∧
        (f.sco = 0 → c.amax = none) ∧ (f.sco ≠ 0 → ∃ x, c.amax = some (f.sco.toNat, x, slabAbsMax src))) ∧
      (2 ≤ src.flaw → ∃ t id c, exec (.swb f) s = .next t ∧ kfind t.copies (512 * s.me.core + id) = some c ∧ c.failed = some fkUncorr ∧ c.gid = gid ∧
        SameMemory (s.asked (.swb f) (!(d :: am).all (fun t => t.loc.isBlk)) (d :: am)) t))
/-! ## Bags, the fabric and queues -/

/-- R340, R344 to R354, R358: a put whose record group lies in the gang's registers and whose bag is of its kind sends each thread's record, key and score, read at issue, to the home, its status to come; a `bput` or
`bputv` on a ranked bag, or a `bputk` on a plain one, takes BAG MISMATCH. `bcommit` and `bsquash` send their token to every bank, once the gang's earlier provisional puts are answered, and wait for them at the word until then;
`bcount` and `bstat` ask the home; `bdrain` opens a cursor on the share of its stack, or takes BAG NOCURSOR; `bnext` begins its claims; `bclose` frees the cursor. A cursor that the block does
not hold, or whose `bdrain` has not answered, a selector above 8, and a place of `bnext` outside block memory are illegal-operation; a handle that fails its checks parks the executing threads, with PATH 2.
The checks have read the entry and the descriptor, and the machine is otherwise the same.
The model's choices in it: log entries 53, 54, 55 and 115. -/
def Obligations.BagWordResults : Prop :=
  ∀ (f : Fields) (s : State), s.execLanes f ≠ 0 →
    let e := s.execLanes f
    let gid := s.cur.gid
    let l := lowLane e
    let h := (s.readReg s.view l 0 f.a).toNat
    let illop : Out := .next (s.illop gid s.cur.pc e)
    let trap := fun (u : State) sub => (.next (u.takeTrap gid 0x06 sub (BitVec.ofNat 32 sub) s.cur.pc e none) : Out)
    let chk := s.checkBag gid h
    let asid := (s.launchOf gid).asid
    -- the checks have read the entry (`seen`), then the descriptor (`knows`); the bag is bound under both
    let seen := fun (i : Instr) (tg : Target) => s.asked i true [tg]
    let knows := fun (i : Instr) (tg : Target) => (seen i tg).readBag gid h
    let bind := fun (u : State) (h b : Nat) => u.bindBag b (u.entBits asid (h % 2 ^ 16)) (u.descBits b)
    let bound := fun (i : Instr) (tg : Target) => bind (knows i tg) h tg.off
    let ready := fun (i : Instr) => WellFormed i ∧ s.taintClear i ∧ s.cur.cmd = none
    let heldRegs := s.me.nb + (if s.me.ext = .held then 16 * 2 ^ s.me.extK else 0)
    let puts := fun (i : Instr) (ranked : Bool) (kind : HomeKind) (n : Nat) (score : Nat → Word) => ∀ tg : Target, ready i → chk = .ok tg →
      let b := tg.off
      let u := knows i tg
      let v := bound i tg
      let d := BagDesc.ofBits (u.descBits b)
      let inside := f.b.index + d.rs / 4 ≤ (match f.b with | .v _ => heldRegs | _ => 64)
      (¬ inside → exec i s = .next (v.illop gid s.cur.pc e)) ∧ (inside → d.rank ≠ ranked → exec i s = trap v 3) ∧
      (inside → d.rank = ranked → ∃ t id x, exec i s = .next t ∧ StartsBagOp i n (putPd f) id x u t ∧ x.bag = b ∧ x.left = e ∧ x.trapf = d.trapf ∧
        (t.bag b).queue.length = (v.bag b).queue.length + (s.askers i).length ∧ (t.bag b).recs = (v.bag b).recs ∧ (∀ k, k ≠ b → t.bag k = s.bag k) ∧
        ∀ k j r, (s.askers i)[k]? = some j → (t.bag b).queue[(v.bag b).queue.length + k]? = some r →
          r.op = id ∧ r.src = s.me.core ∧ r.lane = j ∧ r.kind = kind ∧ r.key = s.readReg s.view j 0 f.c ∧ r.score = score j ∧
          ∀ w, w < d.rs / 4 → (r.payload >>> (32 * w)).setWidth 32 = s.readReg s.view j w f.b)
    let settles := fun (i : Instr) (squash : Bool) =>
      let sent := fun (u t : State) (b : Nat) => ∃ id x, exec i s = .next t ∧ StartsBagOp i 1 7 id x u t ∧ x.bag = b ∧ x.squash = squash ∧ x.ended = true ∧
        x.token = (if f.slot = 0 then (s.readReg s.view l 0 f.b).setWidth 16 else f.imm.setWidth 16) ∧ x.banks = List.range (t.bag b).banks.length
      (∀ tg : Target, ready i → chk = .ok tg → s.putsOpen gid s.cur.serial = false → ∃ t, sent (knows i tg) t tg.off ∧ t.bag tg.off = (bound i tg).bag tg.off) ∧
      (∀ tg : Target, ready i → chk = .ok tg → s.putsOpen gid s.cur.serial = true → ∃ t, exec i s = .next t ∧ HeldFor i (.puts s.cur.serial) (seen i tg) t) ∧
      (∀ c, WellFormed i → s.cur.stage = 2 → s.cur.cmd = some c → 
        let b := s.cur.pkt / 2 ^ 32
        let u := s.readBag gid (s.cur.pkt % 2 ^ 32)
        ∃ t, sent u t b ∧ t.bag b = (bind u (s.cur.pkt % 2 ^ 32) b).bag b)
    let asks := fun (i : Instr) (n : Nat) (kind : HomeKind) => ∀ tg : Target, ready i → chk = .ok tg →
      ∃ t id x, exec i s = .next t ∧ StartsBagOp i n 7 id x (knows i tg) t ∧ x.bag = tg.off ∧ (t.bag tg.off).queue.dropLast = ((bound i tg).bag tg.off).queue ∧
        ∀ r ∈ (t.bag tg.off).queue.getLast?, r.kind = kind ∧ r.op = id ∧ r.src = s.me.core ∧ r.lane = l
    let sel := if f.slot = 0 then (s.readReg s.view l 0 f.b).toNat else (f.imm.extractLsb' 0 4).toNat
    let stack := s.me.core / 16
    let mine := (s.cursors.filter (fun kv => kv.2.stack == stack)).length
    let cv := s.readReg s.view l 0 f.a
    let cur := s.cursorOf gid cv
    let n := (f.mod.extractLsb' 0 6).toNat + 1
    let off := if f.slot = 0 then (s.readReg s.view l 0 f.b).toNat else (f.imm.extractLsb' 0 18).toNat
    let fits := fun (c : Cursor) => off % 16 = 0 ∧ off + n * ((BagDesc.ofBits (s.bag c.bag).desc).rs + 8) ≤ (s.block s.me.block).blkmem
    puts (.bput f) false .put 1 (fun _ => 0) ∧ puts (.bputk f) true .putRanked 2 (fun j => s.readReg s.view j 0 (putSc f)) ∧
    puts (.bputv f) false (.putToken (f.imm.extractLsb' 8 16)) 1 (fun _ => 0) ∧
    settles (.bcommit f) false ∧ settles (.bsquash f) true ∧ asks (.bcount f) 2 .count ∧
    (WellFormed (.bstat f) → s.taintClear (.bstat f) → 8 < sel → exec (.bstat f) s = illop) ∧ (sel ≤ 8 → asks (.bstat f) 1 (.stat sel)) ∧
    (∀ i k hh o, i ∈ [Instr.bput f, .bputk f, .bputv f, .bcommit f, .bsquash f, .bcount f, .bstat f, .bdrain f] → (i = .bstat f → sel ≤ 8) → ready i → chk = .fail k hh o →
      ∃ t, exec i s = .next t ∧ OnlyGang gid (s.checked i true [chk]) t ∧
        (∀ j, j < 32 → t.me.thread j = if e.getLsbD j then { s.me.thread j with st := .parked, wait := .none, pc := s.cur.pc } else s.passed j) ∧
        t.me.fails = s.me.fails ++ [{ lanes := e, kind := k, handle := hh, off := o, path := 2, word := encode i, pc := s.cur.pc, regs := s.view, iss := s.cur.iss, serial := s.cur.serial, low := l }]) ∧
    (∀ tg, ready (.bdrain f) → chk = .ok tg → 64 ≤ mine → exec (.bdrain f) s = trap (seen (.bdrain f) tg) 2) ∧
    (∀ tg : Target, ready (.bdrain f) → chk = .ok tg → mine < 64 → s.cursors.length < 2 ^ 32 →
      let banks := (List.range ((bound (.bdrain f) tg).bag tg.off).banks.length).filter (fun k => (((bound (.bdrain f) tg).bag tg.off).banks.getD k default).stack == stack)
      ∃ t cid c, exec (.bdrain f) s = .next t ∧ kfind t.cursors cid = some c ∧ c.stack = stack ∧ c.bag = tg.off ∧ c.block = s.me.block ∧ c.live = f.mod.getLsbD 0 ∧
        c.cut = [] ∧ c.finished = [] ∧ c.spent = false ∧ (∀ k, k ≠ cid → kfind t.cursors k = kfind s.cursors k) ∧ (∀ kv ∈ s.cursors, kv.2.block = s.me.block → kv.2.val ≠ c.val) ∧
        (∀ j, j < 32 → t.me.thread j = s.passed j) ∧ (banks = [] → s.me.Wrote t.me f.d true e 1 (fun _ => c.val.setWidth 128)) ∧
        (banks ≠ [] → ∃ id x, StartsBagOp (.bdrain f) 1 7 id x (knows (.bdrain f) tg) t ∧ x.bag = tg.off ∧ x.cursor = cid ∧ x.banks = banks)) ∧
    -- a value acts for a cursor of the block once the `bdrain` that opened it has written it
    (cur = none ↔ ∀ kv ∈ s.cursors, kv.2.block = s.me.block → kv.2.val = cv → ∃ o ∈ s.bagOps, o.2.cursor = kv.1 ∧ o.2.want = 0) ∧
    (WellFormed (.bnext f) → s.taintClear (.bnext f) → cur = none → exec (.bnext f) s = illop) ∧
    (∀ cid c, WellFormed (.bnext f) → s.taintClear (.bnext f) → cur = some (cid, c) → ¬ fits c → exec (.bnext f) s = illop) ∧
    (∀ cid c, WellFormed (.bnext f) → s.taintClear (.bnext f) → cur = some (cid, c) → fits c → ∃ t id x, exec (.bnext f) s = .next t ∧ StartsBagOp (.bnext f) 1 7 id x s t ∧
      x.bag = c.bag ∧ x.cursor = cid ∧ x.want = n ∧ x.off = off ∧ x.batch = [] ∧ x.ended = false ∧ t.cursors = s.cursors ∧ t.bags = s.bags) ∧
    (WellFormed (.bclose f) → s.taintClear (.bclose f) → cur = none → exec (.bclose f) s = illop) ∧
    (∀ cid c, WellFormed (.bclose f) → s.taintClear (.bclose f) → cur = some (cid, c) → ∃ t, exec (.bclose f) s = .next t ∧
      t.cursors = s.cursors.filter (fun kv => kv.1 != cid) ∧ ThreadsOnly (.bclose f) s.passed { s with cursors := t.cursors } t)

/-- R371 to R374, R379, R394: an `xpost` or `xbcast` across a 64-byte line, or misaligned, is illegal-operation; else each thread's posts, one, or a copy for every cluster of the partition, leave in lane order with the data read at
issue, and count 1 in OUT, while OUT is below 256; a bundle that finds it at 256 is held at its issue with the threads whose posts are left, and they leave when it goes on. A post on a route whose entry cannot be read fails. `xfence` waits until OUT is at most n. `qlaunch` with nothing unacknowledged writes DENIED, FULL or FAILED, with no effect on the queue, or the packet into the ring with
TAIL one higher, and ACCEPTED.
The model's choices in it: log entries 37, 49, 77, 112, 131 and 142. -/
def Obligations.FabricWordResults : Prop :=
  ∀ (f : Fields) (s : State), s.execLanes f ≠ 0 →
    let e := s.execLanes f
    let gid := s.cur.gid
    let words := (f.imm.extractLsb' 0 4).toNat + 1
    let d := fun j k => (s.readReg s.view j k f.a).toNat
    let asid := (s.launchOf gid).asid
    let posts := fun (i : Instr) (bcast : Bool) =>
      let copies := if bcast then (Part.clusters (s.partOf gid)).length else 1
      let route := if bcast then 0 else (f.imm.extractLsb' 4 8).toNat
      let off := fun j k => d j 1 + (if f.slot = 3 then 0 else (s.readReg s.view j 0 f.c).toNat) + (if bcast then k * d j 2 else 0)
      let bad := ∃ j ∈ s.askers i, ∃ k, k < copies ∧ (off j k % 4 ≠ 0 ∨ 64 < off j k % 64 + 4 * words)
      let room := 256 - s.me.posts.length
      -- the checks of a local post have read the destinations' entries and the counters'
      let u := (s.checked i true ((s.askers i).map (fun j => s.checkPost f bcast s.view j))).readHandles asid (if route = 0 ∧ f.mod.getLsbD 0 = true ∧ bcast = false then (s.askers i).map (fun j => d j 2) else [])
      let known := fun (r : Nat) => r = 0 ∨ s.tableBad (s.routeAddr asid r) 8 = false
      let sent := fun (u : State) (n : Nat) (late : Lanes) (t : State) => t = { u with gangs := t.gangs, posts := t.posts, next := t.next, cur := t.cur } ∧ SameRegisters s t ∧
        (∀ j, j < 32 → t.me.thread j = if late.getLsbD j then { s.me.thread j with st := .waiting, wait := .comp } else s.passed j) ∧
        (late ≠ 0 → ∃ h ∈ t.me.held, h.cond = .postRoom ∧ h.bundle.mask = late ∧ h.bundle.word = some (encode i) ∧ h.bundle.posts.length + room = n) ∧
        t.me.posts.take s.me.posts.length = s.me.posts ∧ t.me.posts.length = s.me.posts.length + min n room ∧
        ∀ kv ∈ s.posts, ∃ q ∈ t.posts, q.1 = kv.1 ∧ q.2 = { kv.2 with queued := q.2.queued, since := q.2.since, old := q.2.old }
      (WellFormed i → s.cur.posts = [] → s.taintClear i → bad → exec i s = .next (s.illop gid s.cur.pc e)) ∧
      (WellFormed i → s.cur.posts = [] → s.taintClear i → ¬ bad → 0 < copies → known route → (∀ k ∈ s.posts, k.1 ≤ s.next) →
        (∀ j ∈ s.askers i, ∃ tg : Target, s.checkPost f bcast s.view j = .ok tg ∧ ∀ pa, tg.loc = .hbm pa → hbmExists pa = true) →
        ∃ t, exec i s = .next t ∧ sent u (s.askers i).length (if Instr.uniform i then (if room = 0 then e else 0) else lanesFrom ((s.askers i).drop room)) t ∧
          ∀ j ∈ (s.askers i).take room, ∀ k, k < copies → ∃ kv ∈ t.posts, s.next < kv.1 ∧ kv.2.gid = gid ∧ kv.2.cl = s.me.core / 4 ∧ kv.2.lane = j ∧ kv.2.off = off j k ∧
            kv.2.handle = d j 0 ∧ kv.2.route = route ∧ kv.2.bcast = bcast ∧ kv.2.words = words ∧ kv.2.out ∈ t.me.posts ∧ kv.2.add = f.mod.getLsbD 0 ∧ kv.2.pc = s.cur.pc ∧
            ∀ w, w < words → (kv.2.data >>> (32 * w)).setWidth 32 = s.readReg s.view j w f.b) ∧
      -- a route whose entry cannot be read: the posts that have room fail, and OUT is as before
      (WellFormed i → s.cur.posts = [] → s.taintClear i → ¬ bad → ¬ known route → (s.askers i).length ≤ room → (∀ k ∈ s.posts, k.1 ≤ s.next) → (∀ k ∈ s.me.posts, k ≤ s.next) →
        ∃ t, exec i s = .next t ∧ t.posts = s.posts ∧ t.me.posts = s.me.posts ∧ t.me.fabFail = min 255 (s.me.fabFail + (s.askers i).length) ∧ t.me.fabKind = fkUncorr ∧
          SameRegisters s t ∧ (∀ j, j < 32 → t.me.thread j = s.passed j) ∧
          ((t.core s.me.core).recQ.filter (fun r => r.type == 1)).length = ((s.core s.me.core).recQ.filter (fun r => r.type == 1)).length + (s.askers i).length) ∧
      (∀ ps, WellFormed i → s.cur.posts = ps → ps ≠ [] → (∀ l ∈ ps, ∀ p ∈ l, known p.route) → (∀ k ∈ s.posts, k.1 ≤ s.next) →
        ∃ t, exec i s = .next t ∧ sent s ps.length ((ps.drop room).flatten.foldl (fun m p => m ||| p.lanes) 0) t ∧
          ∀ l ∈ ps.take room, ∀ p ∈ l, ∃ kv ∈ t.posts, s.next < kv.1 ∧ kv.2.out ∈ t.me.posts ∧ kv.2.data = p.data ∧ kv.2.loc = p.loc ∧ kv.2.off = p.off ∧ kv.2.units = p.units ∧
            kv.2.ctr = p.ctr ∧ kv.2.add = p.add)
    let n := if f.slot = 0 then min 65535 (s.readReg s.view (lowLane e) 0 f.a).toNat else (f.imm.extractLsb' 0 16).toNat
    let q := (s.readReg s.view (lowLane e) 0 f.a).toNat % 2 ^ 16
    let off := (s.readReg s.view (lowLane e) 0 f.b).toNat
    let fromBlk := f.slot = 0 ∧ s.cur.stage < 2
    let quiet := s.taintClear (.qlaunch f) ∧ ((s.me.out = [] ∧ s.me.sb = []) ∨ 2 ≤ s.cur.stage) ∧ (fromBlk → off % 128 = 0 ∧ off + 128 ≤ (s.block s.me.block).blkmem)
    -- the bundle's own earlier accesses of the packet in block memory come first (R104)
    let u := if fromBlk then
        ((s.bankFlush ((lanesOf e).map (fun l => (s.me.thread l).tid)) s.me.block off 128).meetWords (.blk s.me.block off) 128 false).observeRecord gid (.blk s.me.block off) 128
      else s
    -- the scheduler has read the descriptor (`v`), then the ring's entry (`w`)
    let v := ({ u with stuck := false }).readTable (s.qaddr q) 64
    let unread := v.tableBad (s.qaddr q) 64 = true
    let desc := v.qdesc q
    let w := v.readEnt asid (qRing desc)
    let denied := qValid desc = false ∨ qAsid desc ≠ asid ∨ qDevq desc = false
    let gives := fun (st : Nat) (t : State) => exec (.qlaunch f) s = .next t ∧ u.me.Wrote t.me f.d true e 1 (fun _ => BitVec.ofNat 128 st) ∧ (∀ j, j < 32 → t.me.thread j = u.passed j) ∧
      (st = 0 ∨ t.hbm = (if unread ∨ denied then v else w).hbm ∧ t.tiles = s.tiles ∧ t.host = s.host)
    let packet := if 2 ≤ s.cur.stage then s.cur.pkt else if f.slot = 0 then u.peekN (.blk s.me.block off) 128
      else (List.range 32).foldl (fun x k => x + (s.readReg s.view (lowLane e) k f.b).toNat * 2 ^ (32 * k)) 0
    let slot := qTail desc % 2 ^ qRingN desc
    let put := fun (x : BufEnt) => (w.schedStore asid (qRing desc) x (128 * slot) 16 packet).tableWrite (s.qaddr q + 60) 4 ((qTail desc + 1) % 2 ^ 32)
    let takes := WellFormed (.qlaunch f) ∧ quiet ∧ ¬ unread
    posts (.xpost f) false ∧ posts (.xbcast f) true ∧
    (s.cur.stage ≠ 0 ∨ s.me.posts.length ≤ n → ∃ t, exec (.xfence f) s = .next t ∧ Gave (.xfence f) 0 0 true (fun _ => 0) 0 0 (fun _ => none) s t) ∧
    (s.cur.stage = 0 → n < s.me.posts.length → ∃ t, exec (.xfence f) s = .next t ∧ HeldFor (.xfence f) (.posts n) s t) ∧
    (WellFormed (.qlaunch f) → s.taintClear (.qlaunch f) → s.cur.stage < 2 → f.slot = 0 → off % 128 ≠ 0 ∨ (s.block s.me.block).blkmem < off + 128 →
      exec (.qlaunch f) s = .next (s.illop gid s.cur.pc e)) ∧
    (WellFormed (.qlaunch f) → s.taintClear (.qlaunch f) → s.cur.stage < 2 → s.me.sb = [] → s.me.out ≠ [] → (fromBlk → off % 128 = 0 ∧ off + 128 ≤ (s.block s.me.block).blkmem) → s.reqs = [] →
      ∃ t, exec (.qlaunch f) s = .next t ∧ HeldFor (.qlaunch f) .stores s t ∧ ∀ h ∈ t.me.held.getLast?, h.bundle.pkt = packet) ∧
    (WellFormed (.qlaunch f) → quiet → unread → ∃ t, gives (3 + 256 * fkUncorr) t) ∧
    (takes → denied → ∃ t, gives 2 t) ∧
    (∀ k, takes → ¬ denied → w.checkRing desc rightW slot = .error k → ∃ t, gives ((3 + 256 * k) % 2 ^ 32) t) ∧
    (∀ x, takes → ¬ denied → w.checkRing desc rightW slot = .ok x → qCount desc = 2 ^ qRingN desc → ∃ t, gives 1 t) ∧
    (∀ x, takes → ¬ denied → w.checkRing desc rightW slot = .ok x → qCount desc ≠ 2 ^ qRingN desc → (put x).stuck = false →
      ∃ t, gives 0 t ∧ t.hbm = (put x).hbm ∧ t.tiles = (put x).tiles ∧ t.lineInfo = (put x).lineInfo) ∧
    (∀ x, takes → ¬ denied → w.checkRing desc rightW slot = .ok x → qCount desc ≠ 2 ^ qRingN desc → (put x).stuck = true →
      ∃ t, exec (.qlaunch f) s = .next t ∧ HeldFor (.qlaunch f) .none u t ∧ t.hbm = s.hbm ∧ t.tiles = s.tiles)

/-! ## Issue and a core's resources -/

/-- R101, R192, R193: a free slot starts a bundle of one of its candidates: of those whose starvation counter has reached 512 the first that did, the lowest
place on a tie; else one of the highest effective class, under GTO the slot's last gang unless its word said yield, then the oldest but the last, under RR the
next place after the last in ascending order, wrapping. The bundle is every ready thread at the PC that the most hold; the counter is 0. A busy slot, and one
with no candidate, start nothing. A gang forced under RR does not move the rotation. A write of the policy holds from the cycle after it.
The model's choices in it: log entry 19. -/
def Obligations.IssueChoices : Prop :=
  ∀ (s : State) (core slot gid : Nat),
    let p := s.parkLong core
    let sl := kget (s.core core).slots slot
    let cs := p.candidates core slot
    let starts := fun (r : State) (c g : Nat) (t : State) => ∃ pc m, (r.gang g).chosen = some (pc, m) ∧ t.issuing = true ∧
      t.cur.gid = g ∧ t.cur.pc = pc ∧ t.cur.mask = m ∧ t.cur.t = r.now c ∧ t.cur.iss = { clk := r.now c, core := c, hi := (r.gang g).clkh } ∧ t.cur.stage = 0 ∧ t.cur.snap = none ∧ t.cur.cmd = none ∧ t.cur.posts = [] ∧
      t.gang g = { r.gang g with starve := 0 } ∧ (∀ k, k ≠ g → t.gang k = r.gang k) ∧
      t = { r with cur := t.cur, issuing := true, gangs := t.gangs, cores := t.cores }
    let top := fun h => h ∈ cs ∧ ∀ k ∈ cs, p.effClass k ≤ p.effClass h
    let first := fun (r : State) g h => (r.gang g).starvedAt < (r.gang h).starvedAt ∨
      ((r.gang g).starvedAt = (r.gang h).starvedAt ∧ (r.gang g).place ≤ (r.gang h).place)
    let after := fun h => ∀ l, sl.rrLast = some l → (p.gang l).place < (p.gang h).place
    let policy := fun k => if (s.core k).polAt = some (s.now k) then (s.core k).polOld else s.mg (coreMg k 0)
    let c := (s.gang gid).core
    let sl' := kget (s.core c).slots ((s.gang gid).place / 48)
    let cs' := s.candidates c ((s.gang gid).place / 48)
    let forced := gid ∈ cs' ∧ 512 ≤ (s.gang gid).starve ∧ ∀ h ∈ cs', h ≠ gid → 512 ≤ (s.gang h).starve → ¬ first s h gid
    (s.now core < sl.busy ∨ cs = [] → exec (.issueChoice core slot) s = .next p) ∧
    (sl.busy ≤ s.now core → cs ≠ [] → ∃ t g, exec (.issueChoice core slot) s = .next t ∧ g ∈ cs ∧ starts p core g t ∧
      (kget (t.core core).slots slot).last = some g ∧
      (∀ h ∈ cs, 512 ≤ (p.gang h).starve → 512 ≤ (p.gang g).starve ∧ first p g h ∧ (kget (t.core core).slots slot).rrLast = (if policy core = 0 then some g else sl.rrLast)) ∧
      ((∀ h ∈ cs, (p.gang h).starve < 512) → top g ∧ (kget (t.core core).slots slot).rrLast = some g ∧
        (policy core = 0 →
          (∀ h ∈ cs, top h → sl.last = some h → sl.yield = false → h = g) ∧
          (∀ h ∈ cs, top h → sl.last = some g → sl.yield = true → h = g) ∧
          (sl.last = some g ∨ ∀ h ∈ cs, top h → (sl.last = some h ∧ sl.yield = true) ∨ p.older h g = false)) ∧
        (policy core ≠ 0 → ∀ h ∈ cs, top h → (after h → after g) ∧ ((after h ↔ after g) → (p.gang g).place ≤ (p.gang h).place)))) ∧
    (s.now c < sl'.busy → exec (.starvationForce gid) s = .next s) ∧
    (gid ∉ cs' ∨ (s.gang gid).starve < 512 → exec (.starvationForce gid) s = .next s) ∧
    (sl'.busy ≤ s.now c → forced → ∃ t, exec (.starvationForce gid) s = .next t ∧ starts s c gid t ∧
      (kget (t.core c).slots ((s.gang gid).place / 48)).last = some gid ∧ (kget (t.core c).slots ((s.gang gid).place / 48)).rrLast = (if policy c = 0 then some gid else sl'.rrLast))

/-- R109, R112, R113, R115, R116, R118, R177: the allocator grants the head request the first free block at a multiple of its size, and the clear engine gets it; the compactor moves
one block with no outstanding write where the head fails only for scattered granules, its gang waiting at most 16 g + 4 cycles, no register changed; the clear
engine counts its granules, 2 cycles each, and at the last a block's slabs are zero, a gang may issue, or its `xacq` is over; a bin whose oldest packet has
reached the age cap is aged; a drawable bin, none with an older packet before it, becomes a gang with a packet in each lane; a gang with nothing left to do
ends, and its granules, copy slots and index are free; what is still written into its block's slabs stays outstanding. Where its condition does not hold an event changes nothing.
The model's choices in it: log entries 25, 27, 28, 47, 63 and 107. -/
def Obligations.ResourceEvents : Prop :=
  ∀ (s : State) (core : Nat),
    let c := s.core core
    let now := s.now core
    let apart := fun (l : List Alloc) st n => ∀ x ∈ l, x.start + x.size ≤ st ∨ st + n ≤ x.start
    let spot := fun (l : List Alloc) st n => st % n = 0 ∧ st + n ≤ 512 ∧ apart l st n
    let ended := fun gid =>
      let g := s.gang gid
      g.live = true ∧ (∀ l, l < 32 → (g.thread l).st = .exited ∨ (g.thread l).st = .vacant ∨ (g.thread l).st = .filed) ∧ g.loads = [] ∧ g.sb = [] ∧ g.posts = [] ∧ (g.closing = false ∨ g.out = []) ∧
        (∀ kv ∈ s.copies, kv.2.gid = gid → kv.2.state < 2) ∧ ∀ kv ∈ s.bagOps, kv.2.gid ≠ gid
    (c.allocQ = [] → exec (.allocatorGrant core) s = .next s) ∧
    (∀ a ∈ c.allocQ.head?, 0 < a.size → (∀ st, ¬ spot c.allocs st a.size) → exec (.allocatorGrant core) s = .next s) ∧
    (∀ a ∈ c.allocQ.head?, ∀ st, 0 < a.size → spot c.allocs st a.size → (∀ st', spot c.allocs st' a.size → st ≤ st') →
      ∃ t, exec (.allocatorGrant core) s = .next t ∧ (t.core core).allocQ = c.allocQ.tail ∧ (t.core core).allocs = c.allocs ++ [{ a with start := st }] ∧
        t.gang a.gid = (if a.ext then { s.gang a.gid with ext := .clearing, extBase := st } else { s.gang a.gid with base := some st }) ∧
        (t.core core).clearQ.getLast? = some { kind := if a.ext then 2 else 1, owner := a.gid, left := a.size, since := now } ∧
        t = { s with gangs := t.gangs, cores := t.cores, blocks := t.blocks }) ∧
    (∀ start target, ∀ h ∈ c.allocQ.head?, ∀ a ∈ c.allocs.find? (fun a => a.start == start),
      let ok := (∀ st, ¬ spot c.allocs st h.size) ∧ h.size ≤ freeGranules c.allocs ∧ s.allocBusy core a = false ∧
        spot (c.allocs.filter (fun x => x.start != start)) target a.size
      (0 < h.size → ¬ ok → exec (.compactorMove core start target) s = .next s) ∧
      (0 < h.size → ok → ∃ t n, exec (.compactorMove core start target) s = .next t ∧ n ≤ 16 * a.size + 4 ∧
        (t.core core).allocs = c.allocs.map (fun x => if x.start = start then { x with start := target } else x) ∧
        t.gang a.gid = { s.gang a.gid with base := if a.ext then (s.gang a.gid).base else some target, extBase := if a.ext then target else (s.gang a.gid).extBase
                                           stallTo := max (s.gang a.gid).stallTo (now + n) } ∧
        (∀ g, g ≠ a.gid → t.gang g = s.gang g) ∧ t = { s with gangs := t.gangs, cores := t.cores, free := t.free })) ∧
    (c.clearQ = [] ∨ (∃ k ∈ c.clearQ.head?, now < k.since + 2) → exec (.clearEngineGranule core) s = .next s) ∧
    (∀ k ∈ c.clearQ.head?, k.since + 2 ≤ now → 1 < k.left →
      exec (.clearEngineGranule core) s = .next (s.setCore core { c with clearQ := { k with left := k.left - 1, since := now } :: c.clearQ.tail })) ∧
    (∀ k ∈ c.clearQ.head?, k.since + 2 ≤ now → k.left ≤ 1 → ∃ t, exec (.clearEngineGranule core) s = .next t ∧
      (t.core core).clearQ.length + 1 = c.clearQ.length ∧
      (k.kind = 0 → t = { s with cores := t.cores, blocks := t.blocks } ∧ ∀ kv ∈ (t.block k.owner).slab, kv.2.data = [] ∧ kv.2.flaw = 0) ∧
      (k.kind = 1 → t = { s with cores := t.cores, gangs := t.gangs } ∧ t.gang k.owner = { s.gang k.owner with cleared := true }) ∧
      (2 ≤ k.kind → t = { s with cores := t.cores, gangs := t.gangs } ∧ (t.gang k.owner).ext = .held ∧ ∀ l, l < 32 →
        (t.gang k.owner).thread l = (let th := (s.gang k.owner).thread l
          if th.st = .waiting ∧ th.wait = .xacq then { th with st := .ready, wait := .none, pc := th.pc + 12, blk := th.blk.bind Blk.step } else th))) ∧
    (∀ bin b, kfind c.bins bin = some b → exec (.sifterAgeCapExpiry core bin) s =
      .next (if b.since + (s.launch (s.block b.block).launch).ageCap ≤ now then s.setCore core { c with bins := kset c.bins bin { b with aged := true } } else s)) ∧
    (∀ bin, kfind c.bins bin = none → exec (.sifterAgeCapExpiry core bin) s = .next s ∧ exec (.sifterBinDraw core bin) s = .next s) ∧
    (∀ bin b, kfind c.bins bin = some b → s.binReady core b = false ∨ (∃ kv ∈ c.bins, s.binReady core kv.2 = true ∧ kv.2.since < b.since) →
      exec (.sifterBinDraw core bin) s = .next s) ∧
    (∀ bin b, kfind c.bins bin = some b → s.binReady core b = true → (∀ kv ∈ c.bins, s.binReady core kv.2 = true → b.since ≤ kv.2.since) →
      (∀ kv ∈ s.gangs, kv.1 ≤ s.next) → b.packets.length ≤ 32 → b.n ≤ (s.launch (s.block b.block).launch).regs →
      let l := s.launch (s.block b.block).launch
      ∃ t gid, exec (.sifterBinDraw core bin) s = .next t ∧ s.next < gid ∧ gid ∈ (t.block b.block).gangs ∧
        (t.gang gid).live = true ∧ (t.gang gid).nb = l.regs ∧ (t.gang gid).idx ∈ (s.block b.block).freeIdx ∧ (t.gang gid).acq = c.acqGen + 1 ∧
        (∀ k pk, b.packets[k]? = some pk → ((t.gang gid).thread k).st = .ready ∧ ((t.gang gid).thread k).pc = b.pc ∧ ((t.gang gid).thread k).tid = pk.tid ∧
          (t.gang gid).regs.preds k = pk.p ∧ ∀ i x, i < b.n → pk.v[i]? = some x → sget (t.gang gid).regs.v (32 * i + k) = x) ∧
        (∀ k, b.packets.length ≤ k → k < 32 → ((t.gang gid).thread k).st = .vacant) ∧
        (∀ i, i < 16 → sget (t.gang gid).regs.s i = l.args.getD i 0)) ∧
    (∀ gid, ¬ ended gid → exec (.gangEnd gid) s = .next s) ∧
    (∀ gid, ended gid → ∃ t, exec (.gangEnd gid) s = .next t ∧ (t.gang gid).live = false ∧
      (∀ p ∈ (t.gang gid).pend, p ∈ (s.gang gid).pend ∧ 768 ≤ p.reg) ∧ (s.reqs = [] → (t.gang gid).pend = (s.gang gid).pend.filter (fun p => decide (768 ≤ p.reg))) ∧
      (∀ a ∈ (t.core (s.gang gid).core).allocs, a.gid ≠ gid) ∧ (∀ kv ∈ t.copies, kv.2.gid ≠ gid) ∧
      (t.block (s.gang gid).block).freeIdx = (s.block (s.gang gid).block).freeIdx ++
        (if (s.block (s.gang gid).block).ending then [] else [(s.gang gid).idx]) ∧
      t.hbm = s.hbm ∧ t.host = s.host ∧ t.tiles = s.tiles)

/-! ## Memory service and faults -/

/-- R222, R223, R231 to R233, R235 to R244, R254, R259, R272, R403 to R409: a walk that finds its page fills the core's and its cluster's caches, in the place of another translation where they are full, one
that does not tells the bundles that wait for the page; the oldest request of a source is served at its slice, one that comes before no lower lane of its bundle at the fabric port: on a resident tile, on
host memory and at a bank it is performed, a store leaving its value, an atomic its new one, a load what stood there; a write under a spent key fails; at a tile on its way a request waits; at an absent one a
store or reduction joins a log that has room, and what needs the tile has it arrive, which takes a frame and then reads 16 chunks; an arrival applies the log and performs what waited; an eviction leaves every
byte as a thread reads it; a hot tile arrives; counts halve; a copy of a line that a gang may still hit goes only above 6,144 lines, and sets OVF; a controller serves the oldest request past the
age cap first, then a reserved one; the scrubber corrects, flips or poisons as the grade's code sees; a read whose turn at its page or channel has not come waits; a page is encrypted again under the next major counter. Where its condition does not hold an event
changes nothing.
The model's choices in it: log entries 29, 30, 38, 40, 48, 84, 113, 114, 117, 118, 121, 134 and 137. -/
def Obligations.MemoryServiceEvents : Prop :=
  ∀ (s : State) (k : Nat),
    let t0 := s.tile k
    let slice := homeSlice k
    -- a request `r` performed on bytes that stand where it finds them
    let performs := fun (r : Req) (s1 : State) (o : Out) =>
      let old := s1.peekN r.loc r.width
      ∃ t, o = .next t ∧
        (r.kind = .store ∨ (r.kind = .cas ∧ old = r.cmp.toNat % 2 ^ (8 * r.width)) → t.peekN r.loc r.width = r.val.toNat % 256 ^ r.width) ∧
        (r.kind = .red → t.peekN r.loc r.width = memOpNew r.op r.signed r.width old r.val.toNat % 256 ^ r.width) ∧
        (r.kind = .atom → t.peekN r.loc r.width = memOpNew r.op r.signed r.width old r.cmp.toNat % 256 ^ r.width) ∧
        (r.kind = .load ∨ r.kind = .line ∨ r.kind = .mdld ∨ r.kind = .mdst ∨ r.kind = .waddr ∨ (r.kind = .cas ∧ old ≠ r.cmp.toNat % 2 ^ (8 * r.width)) → SameMemory s1 t)
    let served := fun (p : Req → Bool) => { s with reqs := s.reqs.eraseP p }
    let atPort := fun (src : Nat) (r : Req) => r ∈ s.reqs ∧ (∃ pa, r.loc = .host pa) ∧ r.src = src
    let record := fun (t : State) (core type kind off : Nat) => ∃ q, (t.core core).recQ = (s.core core).recQ ++ [q] ∧ q.type = type ∧ q.kind = kind ∧ q.off = off
    (∀ core asid space va, s.wantsWalk core asid (space, va / 2 ^ 16) = false → s.cachedEnt core asid space va = none → exec (.translationWalk core asid space va) s = .next s) ∧
    (∀ core asid space va, s.walkOpen noQueue asid space (va / 2 ^ 16 * 2 ^ 16) = false → exec (.translationWalk core asid space va) s = .next s) ∧
    (∀ core asid space va, ∀ pg ∈ s.walk asid space (va / 2 ^ 16 * 2 ^ 16), s.wantsWalk core asid (space, va / 2 ^ 16) = true ∨ s.cachedEnt core asid space va ≠ none →
      s.walkOpen noQueue asid space (va / 2 ^ 16 * 2 ^ 16) = true →
      let r := s.readWalk noQueue asid space (va / 2 ^ 16 * 2 ^ 16)
      let x : Xlat := { asid := asid, space := space, vpn := va / 2 ^ 16, frame := pg.1, grade := pg.2 }
      let others := fun (l : List Xlat) => l.filter (fun y => !(y.asid == asid && y.space == space && y.vpn == va / 2 ^ 16))
      let joins := fun (l l' : List Xlat) (cap : Nat) => (∃ r, l' = r ++ [x] ∧ r.Sublist (others l)) ∧ ((others l).length < cap → l' = others l ++ [x]) ∧ (cap ≤ (others l).length → l'.length = (others l).length)
      ∃ t, exec (.translationWalk core asid space va) s = .next t ∧ t = { r with cores := t.cores, clusters := t.clusters, free := t.free, grades := t.grades } ∧
        (∀ c, t.core c = { r.core c with xlat := (t.core c).xlat }) ∧ (∀ c, c ≠ core → t.core c = r.core c) ∧ joins (s.core core).xlat (t.core core).xlat 128 ∧
        joins (kget s.clusters (core / 4)).xlat (kget t.clusters (core / 4)).xlat 4096 ∧ (∀ c, c ≠ core / 4 → kget t.clusters c = kget s.clusters c) ∧
        -- a frame that another cached translation gives another grade is mapped at two
        ∀ pa, locOf space pg.1 = .hbm pa →
          let twice := ∃ y : Xlat, ((∃ kv ∈ t.cores, y ∈ kv.2.xlat) ∨ ∃ kv ∈ t.clusters, y ∈ kv.2.xlat) ∧ y.grade ≠ pg.2 ∧ locOf y.space y.frame = .hbm (pa / 2 ^ 16 * 2 ^ 16)
          (twice → sget t.grades (pa / 2 ^ 16) = 3) ∧ (¬ twice → sget t.grades (pa / 2 ^ 16) = BitVec.ofNat 2 pg.2)) ∧
    (∀ core asid space va, s.walk asid space (va / 2 ^ 16 * 2 ^ 16) = none → s.wantsWalk core asid (space, va / 2 ^ 16) = true →
      s.walkOpen noQueue asid space (va / 2 ^ 16 * 2 ^ 16) = true →
      ∃ t, exec (.translationWalk core asid space va) s = .next t ∧ t = { s.readWalk noQueue asid space (va / 2 ^ 16 * 2 ^ 16) with gangs := t.gangs } ∧ ∀ (g n : Nat) (h : Held) (ps : List (Nat × Nat)), (s.gang g).core = core → (s.launchOf g).asid = asid →
        (s.gang g).held[n]? = some h → h.cond = .walk ps → (space, va / 2 ^ 16) ∈ ps →
        (t.gang g).held[n]? = some { h with bundle := { h.bundle with absent := h.bundle.absent ++ [(space, va / 2 ^ 16)] } }) ∧
    (∀ sl src, s.reqs.find? (fun r => r.slice == some sl && r.src == src) = none → exec (.sliceRequest sl src) s = .next s) ∧
    (∀ sl src pa, ∀ r ∈ s.reqs.find? (fun r => r.slice == some sl && r.src == src), r.loc = .hbm pa →
      let s1 := served (fun r => r.slice == some sl && r.src == src)
      let n := pa / 4096
      let t1 := s.tile n
      let writes := r.kind = .store ∨ r.kind = .red ∨ r.kind = .atom ∨ r.kind = .cas ∨ r.kind = .mdst
      let held := writes ∧ (kget s.keys r.key).spent = true
      let arrives := fun (w : List Req) => ∃ t, exec (.sliceRequest sl src) s = .next t ∧ SameRegisters s t ∧ (t.tile n).st = .arriving ∧ (t.tile n).waiting = w ∧ (t.tile n).log = t1.log ∧
        ((s.frames (homeSlice n)).length < 2048 → t.hbm = s.hbm ∧ (t.tile n).framed = true ∧ t.hbmQ.take s.hbmQ.length = s.hbmQ ∧
          (t.hbmQ.drop s.hbmQ.length).map (fun q => (q.tile, q.chunk)) = (List.range 16).map (fun c => (n, c)))
      (held → ∃ t, exec (.sliceRequest sl src) s = .next t ∧ SameMemory s t ∧ SameRegisters s t ∧
        (r.kind = .store → r.path = .t → r.src < 192 → record t r.src 1 8 r.off)) ∧
      (¬ held → t1.st = .resident → kfind s.tiles n = some t1 → pa % 4096 + r.width ≤ 4096 → performs r s1 (exec (.sliceRequest sl src) s)) ∧
      (¬ held → t1.st = .arriving → exec (.sliceRequest sl src) s = .next (s1.setTile n { t1 with waiting := t1.waiting ++ [r] })) ∧
      (¬ held → t1.st = .absent → r.kind = .store ∨ r.kind = .red → t1.log.length < 23 → s.poolUsed (homeSlice n) < 16384 →
        ∃ t, exec (.sliceRequest sl src) s = .next t ∧ t.hbm = s.hbm ∧ (t.tile n).st = .absent ∧ (t.tile n).log = t1.log ++
          [{ op := if r.kind = .store then .store else r.op, signed := r.signed, width := r.width, off := pa % 4096, val := r.val.setWidth 64, stamp := s.next }]) ∧
      (¬ held → t1.st = .absent → r.kind = .store ∨ r.kind = .red → t1.log.length < 32 → 16384 ≤ s.poolUsed (homeSlice n) →
        ∃ t, exec (.sliceRequest sl src) s = .next t ∧ t.reqs = r :: s1.reqs ∧ SameRegisters s t) ∧
      (¬ held → t1.st = .absent → t1.log.length = 32 → r.kind = .store ∨ r.kind = .red → arrives [r]) ∧
      (¬ held → t1.st = .absent → r.kind = .atom ∨ r.kind = .cas ∨ r.kind = .waddr ∨ r.kind = .mdld ∨ r.kind = .mdst → arrives [r]) ∧
      (t1.st = .absent → r.kind = .tfetch → arrives []) ∧
      (t1.st = .absent → r.kind = .load ∨ r.kind = .line → logServe t1.log (pa % 4096) r.width = none → arrives [r]) ∧
      (∀ x ∈ logServe t1.log (pa % 4096) r.width, t1.st = .absent → r.kind = .load ∨ r.kind = .line →
        ∃ t, exec (.sliceRequest sl src) s = .next t ∧ SameRegisters s t ∧ t.hbm = s.hbm ∧ (∀ n, (t.tile n).log = (s.tile n).log) ∧
          (r.kind = .line → (pa, r.width) ∈ (t.gang r.gid).logged) ∧
          (t.gang r.gid).loads.map LoadOp.reqs = (s.gang r.gid).loads.map (fun l => if l.id = r.load then l.reqs.filter (· != r.id) else l.reqs))) ∧
    (∀ src, (∀ r, ¬ atPort src r) → ∃ t, exec (.fabricPortAccess src) s = .next t ∧ t = { s with free := t.free }) ∧
    (∀ src, (∃ r, atPort src r) → (∀ x y, atPort src x → atPort src y → y.id = x.half → y.gid = x.gid ∧ y.serial = x.serial ∧ y.order ≤ x.order ∧ y.id < x.id) →
      ∃ r, atPort src r ∧ (∀ x, atPort src x → x.id ≠ r.half ∧ (x.gid = r.gid → x.serial = r.serial → r.order ≤ x.order)) ∧
      performs r { s with reqs := s.reqs.filter (fun x => x.id != r.id), free := s.free + 1 } (exec (.fabricPortAccess src) s)) ∧
    (∀ r q w x, r ∈ s.bankReady → q ∈ s.reqs → q.id < r.id → w ∈ q.who → w ∈ r.who → ∀ b ws vs, q.words = some (b, ws) → r.words = some (b, vs) → x ∈ ws → x ∉ vs) ∧
    (∀ r, s.reqs.filter (fun q => q.id == r.id) = [r] → r.words.isSome = true → r.kind ≠ .load → performs r { s with reqs := s.reqs.filter (fun q => q.id != r.id) } (.next (s.bankServe r))) ∧
    (t0.st ≠ .arriving → exec (.tileArrival k) s = .next s) ∧
    (t0.st = .arriving → t0.framed = false → (s.frames slice).length < 2048 → ∃ t, exec (.tileArrival k) s = .next t ∧ (t.tile k).framed = true ∧ t.hbm = s.hbm ∧
      (t.hbmQ.drop s.hbmQ.length).map (fun q => (q.tile, q.chunk)) = (List.range 16).map (fun c => (k, c))) ∧
    (t0.st = .arriving → t0.framed = true → s.hbmQ.any (fun q => q.tile == k) = true → exec (.tileArrival k) s = .next s) ∧
    (t0.st = .arriving → t0.framed = true → s.hbmQ.any (fun q => q.tile == k) = false → t0.bad = false →
      exec (.tileArrival k) s = .next (t0.waiting.foldl (fun s r => if r.writes = true ∧ (kget s.keys r.key).spent = true then s.failReq r fkKeyExh else s.perform r) (s.setTile k { t0 with
        st := .resident, data := t0.log.foldl applyCrumb (s.tileMem k), dirty := !t0.log.isEmpty, log := [], waiting := [], caused := false, reclaim := false, count := none
        barred := false, victim := false }))) ∧
    (t0.st = .arriving → t0.framed = true → s.hbmQ.any (fun q => q.tile == k) = false → t0.bad = true → t0.waiting = [] → t0.caused = false → s.poolUsed slice ≤ 16384 →
      ∃ t, exec (.tileArrival k) s = .next t ∧ t.tiles = kset s.tiles k { t0 with st := .absent, waiting := [], bad := false, caused := false, barred := true } ∧
        record t (16 * (k * 4096 / 2 ^ 36)) 7 4 (k * 4096 % 2 ^ 36)) ∧
    (∀ r, t0.st = .arriving → t0.framed = true → s.hbmQ.any (fun q => q.tile == k) = false → t0.bad = true → t0.waiting = [r] → t0.caused = true → r.kind = .store → r.path = .t → r.src < 192 → s.poolUsed slice + min 1 (32 - t0.log.length) ≤ 16384 →
      ∃ t, exec (.tileArrival k) s = .next t ∧ (t.tile k).st = .absent ∧ (t.tile k).log = t0.log ∧ record t r.src 1 9 r.off) ∧
    -- the appends that wait on a failed read need room in the pool first
    (t0.st = .arriving → t0.framed = true → s.hbmQ.any (fun q => q.tile == k) = false → t0.bad = true →
      16384 < s.poolUsed slice + min (t0.waiting.filter (fun r => r.kind == .store || r.kind == .red)).length (32 - t0.log.length) →
      ∃ t, exec (.tileArrival k) s = .next t ∧ t.tile k = { t0 with reclaim := false } ∧ t.reqs = s.reqs ∧ SameRegisters s t) ∧
    (t0.st ≠ .resident → exec (.tileEviction k) s = .next s) ∧
    (t0.st = .resident → t0.dirty = false → exec (.tileEviction k) s = .next { s.meetWords (.hbm (k * 4096)) 4096 true with tiles := kdel s.tiles k }) ∧
    (t0.st = .resident → t0.dirty = true → (kget s.keys t0.key).spent = true → ∃ t, exec (.tileEviction k) s = .next t ∧ t = { s with cores := t.cores, tiles := kdel s.tiles k } ∧
      record t (4 * slice) 1 8 (k * 4096 % 2 ^ 36)) ∧
    (t0.st = .resident → t0.dirty = true → (kget s.keys t0.key).spent = false →
      let go := s.chanOpen noQueue (k * 4096) 4096 = true ∧ s.pageTurn (k * 4096) (some (.evict k)) = true ∧ s.minorFull [(k * 4096, 4096)] = false
      (¬ go → ∃ t, exec (.tileEviction k) s = .next t ∧ t = { s with pages := t.pages } ∧ (s.chanOpen noQueue (k * 4096) 4096 = true → .evict k ∈ (kget t.pages k).wait)) ∧
      (go → Memory.wf s.hbm = true → Memory.wf t0.data = true → kfind s.tiles k = some t0 →
        ∃ t, exec (.tileEviction k) s = .next t ∧ t = { s with hbm := t.hbm, tiles := kdel s.tiles k, lineInfo := t.lineInfo, pages := t.pages, launches := t.launches, queues := t.queues, free := t.free, mgmt := t.mgmt, soft := t.soft, undefs := t.undefs } ∧
          (∀ n, n < 4096 → memByte t.hbm (k * 4096 + n) = s.peek (.hbm (k * 4096 + n))) ∧ ∀ pa, pa / 4096 ≠ k → memByte t.hbm pa = memByte s.hbm pa)) ∧
    (let h := s.hotSettle slice
     let ctl := s.mg (clusterMg slice 0x0800)
     let hot := (h.tile k).st = .absent ∧ ctl.getLsbD 31 = true ∧ (h.tile k).barred = false ∧ ∃ c ∈ (h.tile k).count, max 1 (ctl.extractLsb' 8 8).toNat ≤ c
     (hot → ∃ t, exec (.hotTilePromotion k) s = .next t ∧ (t.tile k).st = .arriving ∧ (t.tile k).waiting = [] ∧ (t.tile k).log = t0.log ∧
        ((s.frames slice).length < 2048 → t.hbmQ.length = s.hbmQ.length + 16 ∧ t.mgmt = (s.countMg (clusterMg slice 0x0808)).mgmt)) ∧
     (¬ hot → exec (.hotTilePromotion k) s = .next h)) ∧
    (let period := 2 ^ ((s.mg (clusterMg k 0x0800)).extractLsb' 0 5).toNat
     let now := s.now (4 * k)
     let times := now / period - (kget s.clusters k).hotAt / period
     ∃ t, exec (.hotTileDecay k) s = .next t ∧ t = { s with tiles := t.tiles, clusters := t.clusters } ∧ (kget t.clusters k).hotAt = now ∧
       ∀ n, (homeSlice n = k → t.tile n = { s.tile n with count := (s.tile n).count.map (· / 2 ^ times), barred := (t.tile n).barred } ∧ ((t.tile n).barred = true → (s.tile n).barred = true)) ∧
         (homeSlice n ≠ k → t.tile n = s.tile n)) ∧
    (∀ line,
      let ls := kget (s.core k).lines line
      (ls = [] → ∃ t, exec (.phaseCacheEviction k line) s = .next t ∧ t = { s with free := t.free }) ∧
      (ls ≠ [] → ∃ t ln, ln ∈ ls ∧ exec (.phaseCacheEviction k line) s = .next t ∧
        let kept := s.lineKept k ln = true ∧ ((s.core k).lines.map (fun kv => kv.2.length)).sum < 6144
        (kept → t = { s with free := t.free }) ∧
        (¬ kept → t = { s with gangs := t.gangs, cores := t.cores, free := t.free } ∧ kget (t.core k).lines line = ls.erase ln ∧ (∀ x, x ≠ line → kget (t.core k).lines x = kget (s.core k).lines x) ∧
          t.core k = { s.core k with lines := (t.core k).lines } ∧ (∀ c, c ≠ k → t.core c = s.core c) ∧
          ∀ g, t.gang g = { s.gang g with ovf := (s.gang g).ovf || ((s.gang g).live && (s.gang g).active && (s.gang g).core == k && decide ((s.gang g).acq ≤ ln.stamp)) }))) ∧
    (∀ idx, (∀ r ∈ s.hbmQ, r.chan ≠ k) → exec (.hbmRequest k idx) s = .next s) ∧
    (∀ idx,
      let waits := fun (q : HbmReq) => q ∈ s.hbmQ ∧ q.chan = k ∧ s.pageHeld q = false
      let aged := fun (q : HbmReq) => max 16 ((s.mg (0x0100 + 16 * (k / 32))).setWidth 8).toNat < s.mcNow k - q.since
      (∃ q, waits q) → ∃ t r, exec (.hbmRequest k idx) s = .next t ∧ waits r ∧ SameRegisters s t ∧
        (∀ q, waits q → aged q → aged r ∧ r.since ≤ q.since) ∧ ((∀ q, waits q → ¬ aged q) → (∃ q, waits q ∧ q.resv = true) → r.resv = true) ∧
        (s.pageTurn (r.tile * 4096) (some (.read r.tile r.chunk)) = true → t.hbmQ = s.hbmQ.erase r ∧
          ((t.tile r.tile).bad = true ↔ (s.tile r.tile).bad = true ∨ (s.readLines (r.tile * 4096 + 256 * r.chunk) 256 (s.tile r.tile).key).1 = true)) ∧
        (s.pageTurn (r.tile * 4096) (some (.read r.tile r.chunk)) = false → t = { s with pages := t.pages } ∧ .read r.tile r.chunk ∈ (kget t.pages r.tile).wait)) ∧
    (let stack := k * 64 / 2 ^ 36
     let x := kget s.lineInfo k
     let on := (s.mg (0x0100 + 16 * stack)).getLsbD 31
     let c := eccClass (s.gradeOf k) x.flips
     (on = false ∨ x.flips = 0 → exec (.scrubLine k) s = .next s) ∧
     (∀ n, on = true → x.flips ≠ 0 → c = .corrected n → ∃ t, exec (.scrubLine k) s = .next t ∧ t = { s with lineInfo := kset s.lineInfo k { x with flips := 0 }, mgmt := t.mgmt } ∧
       (stack < 12 → t.mgmt = (iter (fun s => s.countMg (0x0104 + 16 * stack)) n s).mgmt)) ∧
     (on = true → x.flips ≠ 0 → c = .uncorrectable → ∃ t, exec (.scrubLine k) s = .next t ∧ t.lineInfo = kset s.lineInfo k { x with flips := 0, poison := true } ∧ t.hbm = s.hbm ∧
       (stack < 12 → t.mgmt = (s.countMg (0x0108 + 16 * stack)).mgmt) ∧ record t (16 * stack) 7 1 (k * 64 % 2 ^ 36)) ∧
     (on = true → x.flips ≠ 0 → c = .undetected → Memory.wf s.hbm = true → ∃ t, exec (.scrubLine k) s = .next t ∧ t = { s with hbm := t.hbm, lineInfo := kset s.lineInfo k { x with flips := 0 } } ∧
       (∀ j, j < 64 → memByte t.hbm (64 * k + j) = memByte s.hbm (64 * k + j) ^^^ x.flips.extractLsb' (8 * j) 8) ∧ ∀ pa, pa / 64 ≠ k → memByte t.hbm pa = memByte s.hbm pa) ∧
     (on = true → c = .open_ → ∃ t, exec (.scrubLine k) s = .next t ∧ (kget t.lineInfo k).flips = 0)) ∧
    (let p := kget s.pages k
     (p.reenc = false → exec (.pageReencrypt k) s = .next s) ∧
     (p.reenc = true → (∀ n, .evict n ∉ p.wait) → ∃ t, exec (.pageReencrypt k) s = .next t ∧
       (p.major = 2 ^ 56 - 1 → t = { s with pages := t.pages, keys := t.keys } ∧ (kget t.keys p.key).spent = true ∧ kget t.pages k = { p with reenc := false, wait := p.wait.filter s.tokLive }) ∧
       (p.major ≠ 2 ^ 56 - 1 → t = { s with pages := t.pages, lineInfo := t.lineInfo } ∧ kget t.pages k = { p with reenc := false, major := p.major + 1, wait := p.wait.filter s.tokLive } ∧
         ∀ kv ∈ s.lineInfo, (if kv.1 / 64 = k then (kv.1, { kv.2 with minor := 0 }) else kv) ∈ t.lineInfo)))

/-- R154, R205 to R209, R219, R410: the oldest failed bundle of a gang with fewer than 4 replay entries gets its FAULT record, and its entry where threads are parked for it; the oldest record of a core goes to
the ring, 32 bytes at its tail, once the ring is on and has room; until then no answer reaches it; a RETRY frees the entry and holds the recorded word for the parked threads, which stay parked, and lets those of a long
operation start again, DELIVER readies them, what their waits had under way goes, and the gang takes MEMFAULT, KILL ends the block, whose final record names the parked threads; while the gang is in trap state or off the core the acknowledgement waits; one that names no entry does
nothing; DBG.RESUME lets the gang run that the record stopped.
The model's choices in it: log entries 20, 45, 66 and 145. -/
def Obligations.FaultServiceEvents : Prop :=
  ∀ (s : State) (core seq gid : Nat),
    let g := s.gang gid
    let c := s.core core
    let acks := [Instr.faultAckRetry core seq, .faultAckDeliver core seq, .faultAckKill core seq]
    let full := 4 ≤ (g.replay.filter (fun r => r.type == 1)).length
    let n := 2 ^ (s.mg 0x0080).toNat
    let tail := s.mg 0x007C
    let busy := fun (x : FailSet) => ∃ q ∈ s.openReqs, q.gid = gid ∧ q.serial = x.serial ∧ q.path = .t
    (g.fails = [] ∨ (full ∧ ∃ x ∈ g.fails.head?, x.lanes ≠ 0) ∨ (∃ x ∈ g.fails.head?, busy x) → exec (.memoryFaultPark gid) s = .next s) ∧
    (∀ f ∈ g.fails.head?, (full → f.lanes = 0) → ¬ busy f → ∃ t r, exec (.memoryFaultPark gid) s = .next t ∧ (t.core g.core).recQ = (s.core g.core).recQ ++ [r] ∧ (t.core g.core).seq = (s.core g.core).seq + 1 ∧
      r.type = 1 ∧ r.kind = f.kind ∧ r.seq = (s.core g.core).seq.toNat ∧ r.asid = (s.launchOf gid).asid ∧ r.core = g.core ∧ r.gang = g.place ∧ r.pc = f.pc ∧
      r.lanes = (f.lanes ||| f.told) ∧ r.handle = f.handle % 2 ^ 16 ∧ r.path = f.path ∧ r.off = f.off ∧
      t.gang gid = { g with fails := g.fails.tail, replay := if f.lanes = 0 then g.replay else
        g.replay ++ [{ seq := r.seq, core := g.core, word := f.word, pc := f.pc, lanes := f.lanes, regs := f.regs, kind := f.kind, handle := f.handle, off := f.off, path := f.path, type := 1, blks := [], iss := f.iss }] } ∧
      t = { s with gangs := t.gangs, cores := t.cores }) ∧
    (c.recQ = [] ∨ s.ringOn = false ∨ (tail - s.mg 0x0078).toNat = n → exec (.faultRecordPost core) s = .next s) ∧
    (∀ r ∈ c.recQ.head?, s.ringOn = true → (tail - s.mg 0x0078).toNat ≠ n →
      ∃ t, exec (.faultRecordPost core) s = .next t ∧ t.core core = { c with recQ := c.recQ.tail } ∧ t.mg 0x007C = tail + 1 ∧
        memRead t.host (s.mg64 0x0070 + 32 * (tail.toNat % n)) 32 = r.bits % 256 ^ 32 ∧
        (∀ a, a < s.mg64 0x0070 + 32 * (tail.toNat % n) ∨ s.mg64 0x0070 + 32 * (tail.toNat % n) + 32 ≤ a → memByte t.host a = memByte s.host a) ∧
        t = { s with cores := t.cores, host := t.host, mgmt := t.mgmt }) ∧
    (∀ i ∈ acks, s.isReady = false ∨ s.unposted core seq = true ∨ s.replayOf core seq = none → exec i s = .next s) ∧
    (∀ r, s.isReady = true → s.unposted core seq = false → s.replayOf core seq = some (gid, r) →
      let parked := r.lanes &&& g.lanesWith (fun t => t.st == .parked)
      let long := r.lanes &&& ~~~(g.lanesWith (fun t => t.gone || t.st == .filed))
      let rest := g.replay.filter (fun q => !(q.core == r.core && q.seq == r.seq))
      (g.trap = true ∨ g.active = false → ∀ k, k < 3 → ∀ i ∈ acks[k]?, exec i s = .next (s.setGang gid { g with acks := g.acks ++ [(core, seq, k)] })) ∧
      let blkAt := fun l => ((r.blks.find? (fun b => b.1 == l)).map Prod.snd).getD none
      let there := fun l => long.getLsbD l && !(g.memParked).getLsbD l
      (g.trap = false → g.active = true → r.type ≠ 2 → ∃ t, exec (.faultAckRetry core seq) s = .next t ∧ OnlyGang gid s t ∧ (t.gang gid).replay = rest ∧
        (t.gang gid).regs = g.regs ∧ (t.gang gid).threads = g.threads ∧ (parked = 0 → (t.gang gid).held = g.held) ∧
        (parked ≠ 0 → ∃ h, (t.gang gid).held = g.held ++ [h] ∧ h.cond = .none ∧ h.bundle.mask = parked ∧ h.bundle.exec = some parked ∧ h.bundle.replay = true ∧
          h.bundle.word = some r.word ∧ h.bundle.snap = some r.regs ∧ h.bundle.pc = r.pc ∧ h.bundle.iss = r.iss ∧ h.bundle.stage = 1 ∧
          h.bundle.why = { kind := r.kind, handle := r.handle, off := r.off, path := r.path })) ∧
      (g.trap = false → g.active = true → r.type = 2 → ∃ t, exec (.faultAckRetry core seq) s = .next t ∧ OnlyGang gid s t ∧ (t.gang gid).replay = rest ∧
        ∀ l, l < 32 → (t.gang gid).thread l = if there l && (g.thread l).st == .parked then (g.thread l).restart r.pc (blkAt l)
          else if long.getLsbD l then { g.thread l with longPark := true, longRe := some (r.pc, blkAt l) } else g.thread l) ∧
      (g.trap = false → g.active = true → ∃ (h : Gang) (m : Lanes), h = { (lanesOf m).foldl Gang.leaveWait g with replay := rest, threads := h.threads } ∧ (∀ l, l < 32 → m.getLsbD l = if r.type = 2 then there l else parked.getLsbD l) ∧
        (∀ l, l < 32 → h.thread l = if m.getLsbD l then (if r.type = 2 then (g.thread l).restart r.pc (blkAt l) else { g.thread l with st := .ready, wait := .none, pc := r.pc }) else g.thread l) ∧
        exec (.faultAckDeliver core seq) s = .next ((s.setGang gid h).takeTrap gid 0x09 r.kind (BitVec.ofNat 32 r.kind) r.pc m
          (some { lanes := m, kind := r.kind, handle := r.handle, off := r.off, path := r.path, word := r.word, pc := r.pc, regs := r.regs, iss := r.iss, serial := 0, low := lowLane m }))) ∧
      (g.trap = false → g.active = true → g.live = true → gid ∈ (s.block g.block).gangs → (s.block g.block).gangs.Nodup → ∃ t, exec (.faultAckKill core seq) s = .next t ∧
        (t.block g.block).ending = true ∧ (t.block g.block).failed = true ∧ (t.launch (s.block g.block).launch).failed = true ∧
        (t.gang gid).stop = .ending ∧ (t.gang gid).replay = [] ∧ (t.gang gid).held = [] ∧ (t.gang gid).sb = [] ∧
        (∀ l, l < 32 → (g.thread l).st ≠ .vacant → (g.thread l).st ≠ .filed → ((t.gang gid).thread l).st = .exited) ∧ SameMemory s t ∧ SameRegisters s t ∧
        let lanes := g.lanesWith (fun t => t.st == .parked) ||| g.fails.foldl (fun m f => m ||| f.told) 0
        ∃ q ∈ (t.core g.core).recQ, ∃ p ∈ g.parkings, q.type = 1 ∧ q.lanes = lanes ∧ q.pc = p.2.1 ∧ q.kind = p.2.2.kind ∧ q.path = p.2.2.path ∧ q.off = p.2.2.off ∧
          ((∃ x ∈ g.parkings, x.1.getLsbD (lowLane lanes) = true) → p.1.getLsbD (lowLane lanes) = true))) ∧
    (s.isReady = false ∨ s.unposted core seq = true → exec (.dbgResume core seq) s = .next s) ∧
    (s.isReady = true → s.unposted core seq = false → ∃ t, exec (.dbgResume core seq) s = .next t ∧ t = { s with gangs := t.gangs } ∧
      ∀ k, t.gang k = if (s.gang k).stop = .debug core seq then { s.gang k with stop := .running } else s.gang k)

/-! ## The copy engine, the array and the bag's home -/

/-- R210, R241, R293, R294, R299, R300, R304, R325: a copy moves a chunk of at most 256 bytes at a time, each byte of the destination taking the source byte of its place, in no fixed order and
none twice; one that meets a failing page, key or line fails there, with a record; one whose tile is not there waits for it, one whose walks, channels or pages are not open stays to be moved; the amax word takes the maximum. A place
that no stack holds faults. Once every chunk has moved the copy is DONE, or FAILED with its kind; a slab's outstanding write ends, its configured bytes undefined after a failure and no others changed, the completion record is
written, and what waited on the copy learns of it.
The model's choices in it: log entries 33, 36, 62, 113 and 126. -/
def Obligations.CopyEngineEvents : Prop :=
  ∀ (s : State) (core id chunk : Nat),
    let key := 512 * core + id
    let queue := fun (gid : Nat) => s.queueOf gid
    let go := exec (.copyChunk core id chunk) s
    let begun := fun (c : Copy) => s.setCopy key { c with state := 3 }
    -- an end's walks, of these offsets: whether they may be made, and what they read
    let opens := fun (c : Copy) (x : CopyEnd) (offs : List Nat) => x.sort = 1 → ∀ o ∈ offs, s.pieceOpen core (queue c.gid) c.asid x.ent o = true
    let walked := fun (c : Copy) (u : State) (x : CopyEnd) (offs : List Nat) => if x.sort = 1 then offs.foldl (fun u o => u.learn core (queue c.gid) c.asid x.ent o) u else u
    let fin := exec (.copyComplete core id) s
    (kfind s.copies key = none → go = .next s ∧ fin = .next s) ∧
    (∀ c ∈ kfind s.copies key, c.complete = true ∨ c.failed ≠ none ∨ c.chunks ≤ chunk ∨ sget c.moved chunk = 1 → go = .next s) ∧
    (∀ c ∈ kfind s.copies key, c.complete = false → c.failed = none → chunk < c.rows * c.perRow → sget c.moved chunk ≠ 1 →
      let r := chunk / c.perRow
      let i := 256 * (chunk % c.perRow)
      let n := min 256 (c.len - i)
      let d0 := c.dst.off + r * c.dst.stride + i
      let ends := fun (x : CopyEnd) => [x.off + r * x.stride + i, x.off + r * x.stride + i + (n - 1)]
      let open_ := opens c c.src (ends c.src) ∧ opens c c.dst (ends c.dst)
      let w := walked c (walked c (begun c) c.src (ends c.src)) c.dst (ends c.dst)
      let src := w.endPieces core c c.src r i n false
      let dst := w.endPieces core c c.dst r i n true
      let ready := ∀ p ∈ src ++ dst, ∃ l, ∃ m, p.spot = .ok l m
      let main := fun (ps : List Piece) (P : Nat → Nat → Prop) => ∀ p ∈ ps, ∀ pa, p.spot = .ok (.hbm pa) true → P pa p.n
      let sound := main (src ++ dst) (fun pa n => ∀ x ∈ linesOf pa n, (kget w.lineInfo x).flips = 0) ∧ main src (fun pa n => ∀ x ∈ linesOf pa n, w.lineBad c.src.ent.key x = false)
      -- the pieces that the destination writes into the page of `pa`
      let onPage := fun (pa : Nat) => (mainPieces dst).filter (fun y => y.1 / 4096 == pa / 4096)
      let free := main (src ++ dst) (fun pa n => w.chanOpen (queue c.gid) pa n = true ∧ (kget w.pages (pa / 4096)).reenc = false ∧ (kget w.pages (pa / 4096)).wait = []) ∧
        main dst (fun pa _ => w.minorFull (onPage pa) = false)
      let shut := (∃ p ∈ src ++ dst, ∃ pa, p.spot = .ok (.hbm pa) true ∧ (w.chanOpen (queue c.gid) pa p.n = false ∨ (kget w.pages (pa / 4096)).reenc = true)) ∨
        ∃ p ∈ dst, ∃ pa, p.spot = .ok (.hbm pa) true ∧ w.minorFull (onPage pa) = true
      let apart := ∀ p ∈ dst, ∀ q ∈ dst, p.at_ ≠ q.at_ → ∀ l l' m m', p.spot = .ok l m → q.spot = .ok l' m' → l.meets p.n l' q.n = false
      let there := w.chunkMisses core c chunk = false
      (¬ open_ → go = .next (begun c)) ∧ (open_ → ¬ there → go = .fault .noSuchAddress) ∧
      (open_ → there → ready → sound → free → apart → s.lags = [] →
        ∃ t, go = .next t ∧ kfind t.copies key = some { c with state := 3, moved := sset c.moved chunk 1 } ∧ t.hbmQ = s.hbmQ ∧
          ∀ k, k < n → c.overlaps (d0 + k) = false → ∀ x, (if c.src.sort = 2 then x = sget c.data (512 * r + i + k)
              else ∃ p ∈ src, ∃ l, ∃ m, p.at_ ≤ k ∧ k < p.at_ + p.n ∧ p.spot = .ok l m ∧ x = w.peek (l.plus (k - p.at_))) →
            (if c.dst.sort = 2 then sget (kget (t.block c.block).slab c.dst.slab).data (512 * r + i + k) = x
              else ∀ p ∈ dst, ∀ l m, p.at_ ≤ k → k < p.at_ + p.n → p.spot = .ok l m → t.peek (l.plus (k - p.at_)) = x)) ∧
      (open_ → there → ready → shut → ∃ t, go = .next t ∧ kfind t.copies key = some { c with state := 3 } ∧ SameMemory w t ∧ SameRegisters s t) ∧
      (∀ p ∈ (src ++ dst).find? (fun p => match p.spot with | .fail _ => true | _ => false), ∀ kind, open_ → there → p.spot = .fail kind →
        ∃ t, go = .next t ∧ kfind t.copies key = some { c with state := 3, failed := some kind } ∧ SameMemory w t ∧ SameRegisters s t ∧
          (∃ f ∈ (t.core (if c.armed then (s.gang c.gid).core else key / 512)).recQ.getLast?, f.type = (if c.armed then 2 else 1) ∧ f.kind = kind ∧ f.path = 1 ∧ f.off = p.off)) ∧
      (open_ → there → (∀ p ∈ src ++ dst, ∀ kind, p.spot ≠ .fail kind) → (∃ p ∈ src ++ dst, ∃ tl, p.spot = .tile tl) →
        ∃ t, go = .next t ∧ kfind t.copies key = some { c with state := 3 } ∧ SameRegisters s t ∧
          ∀ p ∈ src ++ dst, ∀ tl, p.spot = .tile tl → (t.tile tl).st = .arriving ∧ ∃ q ∈ (t.tile tl).waiting, q.kind = .copy ∧ q.load = key)) ∧
    (∀ c ∈ kfind s.copies key, ∀ x v, c.complete = false → c.failed = none → chunk = c.rows * c.perRow → c.amax = some (1, x, v) → x.sort = 0 → sget c.moved chunk ≠ 1 →
      ∃ t, go = .next t ∧ memRead (t.block c.block).mem x.off 4 = max (memRead (s.block c.block).mem x.off 4) v.toNat ∧
        kfind t.copies key = some { c with state := 3, moved := sset c.moved chunk 1 }) ∧
    (∀ c ∈ kfind s.copies key, c.complete = true ∨ (c.failed = none ∧ ∃ k, k < c.chunks ∧ sget c.moved k ≠ 1) → fin = .next s) ∧
    (∀ c ∈ kfind s.copies key, c.complete = false → (c.failed ≠ none ∨ ∀ k, k < c.chunks → sget c.moved k = 1) →
      (∀ a ∈ (s.core core).armed, a.failed = none) →
      let kind := match c.failed with | some k => some k | none => c.doom
      let st := { c with state := if kind = none then 0 else 1, kind := kind.getD 0 }
      ∃ t, fin = .next t ∧ (∀ c' ∈ kfind t.copies key, c' = st ∨ (c'.state = 1 ∧ c'.serial = c.serial)) ∧ (kind = none → ∀ c' ∈ kfind t.copies key, c'.state = 0) ∧
        (c.dst.sort = 2 → ∀ p ∈ (t.gang c.gid).pend, p.done = none → p.id ≠ c.pid) ∧
        (∀ w v, c.record = some (w, v) → memRead (t.block c.block).mem w 4 = v.toNat ∧ memRead (t.block c.block).mem (w + 4) 4 = st.status.toNat) ∧
        (kind = none → (t.core core).armed = (s.core core).armed.map (fun a => if a.needs.contains c.serial then { a with needs := a.needs.filter (· != c.serial) } else a)) ∧
        (∀ a, (∀ w v, c.record = some (w, v) → a < w ∨ w + 8 ≤ a) → memByte (t.block c.block).mem a = memByte (s.block c.block).mem a) ∧
        (let old := kget (s.block c.block).slab c.dst.slab
         let new := kget (t.block c.block).slab c.dst.slab
         (c.dst.sort ≠ 2 → (t.block c.block).slab = (s.block c.block).slab) ∧ (c.dst.sort = 2 → c.failed = none → new = { old with flaw := 0 }) ∧
         (c.dst.sort = 2 → new = { old with data := new.data, flaw := new.flaw } ∧ ∀ a, a < 16384 → old.rows ≤ a / 512 ∨ old.rbytes ≤ a % 512 → sget new.data a = sget old.data a)) ∧
        t.hbm = s.hbm ∧ t.host = s.host ∧ t.tiles = s.tiles)

/-- R181, R210, R215, R298, R312, R315, R318, R321, R327: an armed `mma` goes to the array's queue, or waits ready behind four or while its block is switched out, once its copies have landed, its block is on the core and no slab rule
forbids it; the free array takes the next requester's in round-robin order, or abandons one that reads an uncorrectable slab, a correctable error corrected; one of a block that has ended has no effect; at the end every element of C is the
old one, or 0, with one block product after the other added in fp32, and its outstanding write ends. Else nothing changes.
The model's choices in it: log entries 47, 60, 61 and 123. -/
def Obligations.ArrayEvents : Prop :=
  ∀ (s : State) (core idx : Nat),
    let c := s.core core
    let slab := fun (s : State) (b q : Nat) => kget (s.block b).slab q
    let flawed := fun (m : Mma) => 2 ≤ (slab s m.block m.a).flaw ∨ 2 ≤ (slab s m.block m.b).flaw ∨ (m.z = false ∧ 2 ≤ (slab s m.block m.c).flaw)
    let pos := fun (m : Mma) => (m.from_ + 4 - c.mmaLast) % 5
    -- the copy engine's queue of 4 takes the first ready one of a block that is on the core
    let first := fun (k : Core) => k.ready.find? (fun m => (s.block m.block).where_ == .active)
    let room := fun (k : Core) => (k.mmaQ.filter (fun x => x.from_ == 4)).length < 4
    let takes := fun (k k' : Core) => (∀ m ∈ first k, room k → k' = { k with ready := k.ready.erase m, mmaQ := k.mmaQ ++ [m] }) ∧ (first k = none ∨ ¬ room k → k' = k)
    (c.armed[idx]? = none → exec (.mmaHandover core idx) s = .next s) ∧
    (∀ a ∈ c.armed[idx]?, a.needs ≠ [] ∨ a.failed ≠ none ∨ (s.block a.mma.block).where_ ≠ .active ∨ s.slabHazard core a.mma = true → exec (.mmaHandover core idx) s = .next s) ∧
    (∀ a ∈ c.armed[idx]?, a.needs = [] → a.failed = none → (s.block a.mma.block).where_ = .active → s.slabHazard core a.mma = false →
      ∃ t, exec (.mmaHandover core idx) s = .next t ∧ takes { c with armed := c.armed.filter (fun x => x.mma.id != a.mma.id), ready := c.ready ++ [a.mma] } (t.core core) ∧
        (∀ g ∈ (s.block a.mma.block).gangs, (t.gang g).ppValid = false) ∧ (∀ g, t.gang g = { s.gang g with ppValid := (t.gang g).ppValid }) ∧
        t = { s with gangs := t.gangs, cores := t.cores }) ∧
    (c.mmaRun ≠ none ∨ c.mmaQ = [] → exec (.mmaAccept core) s = .next s) ∧
    (c.mmaRun = none → c.mmaQ ≠ [] → c.mmaLast < 5 → (∀ m ∈ c.mmaQ, m.from_ < 5) → ∃ t m, exec (.mmaAccept core) s = .next t ∧ m ∈ c.mmaQ ∧
      (∀ m' ∈ c.mmaQ, pos m ≤ pos m') ∧ (∃ k, takes { c with mmaQ := c.mmaQ.erase m, mmaLast := m.from_ } k ∧ (t.core core).mmaLast = k.mmaLast ∧ (t.core core).mmaQ = k.mmaQ ∧ (t.core core).ready = k.ready) ∧
      ((s.block m.block).live = false → (t.core core).mmaRun = none ∧ t = { s with cores := t.cores }) ∧
      ((s.block m.block).live = true → ¬ flawed m → (t.core core).mmaRun = some m ∧ t = { s with cores := t.cores, blocks := t.blocks, mgmt := t.mgmt } ∧
        ∀ b q, slab t b q = { slab s b q with flaw := (slab t b q).flaw }) ∧
      ((s.block m.block).live = true → flawed m → (t.core core).mmaRun = none ∧ SameRegisters s t ∧ t.hbm = s.hbm ∧ (∀ p ∈ (t.gang m.gid).pend, p.done = none → p.id ≠ m.id) ∧
        ∃ f ∈ (t.core (s.gang m.gid).core).recQ.getLast?, f.type = 2 ∧ f.kind = 9 ∧ f.pc = m.pc ∧ f.path = 1)) ∧
    (c.mmaRun = none → exec (.mmaComplete core) s = .next s) ∧
    (∀ m ∈ c.mmaRun, (s.block m.block).live = false → exec (.mmaComplete core) s = .next (s.setCore core { c with mmaRun := none })) ∧
    (∀ m ∈ c.mmaRun, (s.block m.block).live = true → ∃ t, exec (.mmaComplete core) s = .next t ∧ (t.core core) = { c with mmaRun := none } ∧ t.gang m.gid = (s.gang m.gid).dropPend m.id ∧
      (∀ q, q ≠ m.c → slab t m.block q = slab s m.block q) ∧ (slab t m.block m.c) = { slab s m.block m.c with data := (slab t m.block m.c).data, flaw := 0 } ∧
      (∀ i j, i < 32 → j < 32 → bytesAt (slab t m.block m.c).data (512 * i + 4 * j) 4 =
        ((List.range ((slab s m.block m.a).kLen / 32)).foldl (fun acc k =>
          fp32Add acc (mmaBlock (slab s m.block m.a) (slab s m.block m.b) i j k (scaleByte m.ea i (m.bsel + k)) (scaleByte m.eb j (m.bsel + k))))
          (if m.z then 0 else BitVec.ofNat 32 (bytesAt (slab s m.block m.c).data (512 * i + 4 * j) 4))).toNat) ∧
      (∀ i n, 128 ≤ n → n < 512 → sget (slab t m.block m.c).data (512 * i + n) = sget (slab s m.block m.c).data (512 * i + n)) ∧
      t = { s with gangs := t.gangs, cores := t.cores, blocks := t.blocks })

/-- R341, R342, R346 to R357: the home admits a request of a core in order: a count and a statistic are answered; a put is admitted below the capacity, else FULL; a ranked one with a NaN score is refused,
in a full bag displaces the record that ranks below every other where it ranks above it, else is refused, and none is admitted while another is placed. A put is
placed in a free slot of a bank within the balance bound, and acknowledged, or fails with its record. A settlement reaches a bank's records with the token; a cut
takes the settled records of a bank; a claim takes a claimable record, one that cannot be read is freed and reported; the records of a `bnext` go to block memory word by word, and leave the bag once all are there; the home takes an update of its counts. Else nothing changes.
A place of the region that no stack holds faults.
The model's choices in it: log entries 33, 50, 51, 52 and 113. -/
def Obligations.BagHomeEvents : Prop :=
  ∀ (s : State) (bag n : Nat),
    let x := s.bag bag
    let d := BagDesc.ofBits x.desc
    let taken := fun (r : HomeReq) => s.setBag bag { x with queue := x.queue.erase r }
    let admits := fun (r : HomeReq) (st : Nat) (dk : Word) (y : Bag) =>
      exec (.bagAdmit bag n) s = .next (s.setBag bag { y with queue := x.queue.erase r, p := x.p + 1, placing := x.placing ++ [{ r with status := st, dk := dk }] })
    let refuses := fun (r : HomeReq) (st : Nat) => exec (.bagAdmit bag n) s = .next ((taken r).putResult r st 0)
    let low := x.recs.filter (fun r => r.claim == 0)
    -- the channels and the page of a slot let it be reached (R397, R403, R408)
    let opens := fun (w : State) (gid pa : Nat) (tok : PageTok) (write : Bool) =>
      w.chanOpen (s.queueOf gid) pa d.rs = true ∧ w.pageTurn pa (some tok) = true ∧ (write = true → w.minorFull [(pa, d.rs)] = false)
    -- the walk to a slot may be made, and has been
    let ent := s.bagEnt bag
    let reach := fun (gid off : Nat) => s.pageOpen (s.queueOf gid) ent.1 ent.2.2 off = true
    let walked := fun (u : State) (gid off : Nat) => u.readPage (s.queueOf gid) ent.1 ent.2.2 off
    (∀ (o : Nat) (v : BitVec 128), let op := s.bagOp o
      ((s.endBagOp o v).gang op.gid).pend = (s.gang op.gid).pend.filter (fun p => !(p.done == none && p.id == o)) ∧
      kfind (s.endBagOp o v).bagOps o = none ∧ ((∃ y, op.dst = .v y ∨ op.dst = .s y) → op.lanes ≠ 0 →
        (s.gang op.gid).Wrote ((s.endBagOp o v).gang op.gid) op.dst false (laneBit (lowLane op.lanes)) op.n (fun _ => v))) ∧
    (∀ (r : HomeReq) (st : Nat) (dk : Word), let op := s.bagOp r.op
      let mine := if op.uni then op.lanes else laneBit r.lane
      let t := s.putResult r st dk
      op.trapf = false → r.lane < 32 → (∃ y, op.dst = .v y ∨ op.dst = .s y) →
      (∀ c l, l < 32 → c ≠ 512 + op.pd → (t.gang op.gid).regs.codeVal c l = (resultIn op.dst false (laneBit r.lane) op.n (fun _ => BitVec.ofNat 128 (st + 2 ^ 32 * dk.toNat)) c l).getD ((s.gang op.gid).regs.codeVal c l)) ∧
      (op.pd < 7 → ∀ l, l < 32 → mine.getLsbD l = true → (sget (t.gang op.gid).regs.p op.pd).getLsbD l = (st == 0 || st == 3)) ∧
      (op.left &&& ~~~mine ≠ 0 → (t.bagOp r.op).left = op.left &&& ~~~mine ∧ (t.gang op.gid).pend = (s.gang op.gid).pend)) ∧
    ((∀ r ∈ x.queue, r.src ≠ n) → exec (.bagAdmit bag n) s = .next s) ∧
    (∀ r ∈ x.queue.find? (fun r => r.src == n), (∃ kv ∈ s.bags, s.homeOf kv.1 = s.homeOf bag ∧ ∃ q ∈ kv.2.queue, q.src = n ∧ q.id < r.id) → exec (.bagAdmit bag n) s = .next s) ∧
    (∀ r ∈ x.queue.find? (fun r => r.src == n), (∀ kv ∈ s.bags, s.homeOf kv.1 = s.homeOf bag → ∀ q ∈ kv.2.queue, q.src = n → r.id ≤ q.id) →
      (r.kind = .count → exec (.bagAdmit bag n) s = .next ((taken r).endBagOp r.op (BitVec.ofNat 128 x.r))) ∧
      (∀ sel, r.kind = .stat sel → exec (.bagAdmit bag n) s = .next ((taken r).endBagOp r.op (BitVec.ofNat 128 (min (2 ^ 32 - 1) (s.bagStat bag sel (r.src / 16)))))) ∧
      (r.kind = .put ∨ (∃ tk, r.kind = .putToken tk) → (x.r + x.p < d.cap → admits r 0 r.dk x) ∧ (d.cap ≤ x.r + x.p → refuses r 1)) ∧
      (r.kind = .putRanked → x.placing ≠ [] → exec (.bagAdmit bag n) s = .next s) ∧
      (r.kind = .putRanked → x.placing = [] →
        (scoreNaN r.score = true → refuses r 4) ∧ (scoreNaN r.score = false → x.r < d.cap → admits r 0 r.dk x) ∧
        (scoreNaN r.score = false → d.cap ≤ x.r → (∀ q ∈ low, ranksAbove r.score r.key q.score q.key = false) → refuses r 2) ∧
        (∀ q ∈ low, scoreNaN r.score = false → d.cap ≤ x.r → ranksAbove r.score r.key q.score q.key = true →
          (∀ o ∈ low, o ≠ q → ranksAbove o.score o.key q.score q.key = true ∧ ranksAbove q.score q.key o.score o.key = false) →
          admits r 3 q.key { x with recs := x.recs.filter (fun y => y.id != q.id), r := x.r - 1 }))) ∧
    (∀ stack bank, let used := (x.recs.filter (fun r => r.bank == bank)).map (fun r => r.slot)
      let bk := x.banks.getD bank default
      let may := bk.stack = stack ∧ bank < x.banks.length ∧ (∃ o ∈ bk.slots, o ∉ used) ∧ used.length + 1 ≤ ceilDiv (x.r + 1) x.banks.length + d.slack
      ((∀ r ∈ x.placing, r.id ≠ n) ∨ ¬ may → exec (.bagPlace bag n stack bank) s = .next s) ∧
      (∀ r ∈ x.placing.find? (fun r => r.id == n), may →
        let gid := (s.bagOp r.op).gid
        let go := exec (.bagPlace bag n stack bank) s
        let spent := (kget s.keys ent.2.2.key).spent
        ∃ off, off ∈ bk.slots ∧ off ∉ used ∧
          let w := walked s gid off
          let fails := fun kind => ∃ u : State, u = { w with bags := u.bags, cores := u.cores, free := u.free } ∧ u.bag bag = { x with p := x.p - 1, placing := x.placing.erase r } ∧
            (∃ f, (u.core (s.gang gid).core).recQ = (w.core (s.gang gid).core).recQ ++ [f] ∧ f.type = 1 ∧ f.kind = kind ∧ f.path = 2 ∧ f.off = off ∧ f.lanes = 0) ∧
            go = .next (u.putResult r (5 + 256 * kind) r.dk)
          (¬ reach gid off → ∃ t, go = .next t ∧ t = { s with free := t.free }) ∧
          (∀ pa, reach gid off → w.slotLoc bag off = some (.hbm pa) → hbmExists pa = false → go = .fault .noSuchAddress) ∧
          (reach gid off → (∀ pa, w.slotLoc bag off ≠ some (.hbm pa)) → fails fkNotPresent) ∧
          (∀ pa, reach gid off → w.slotLoc bag off = some (.hbm pa) → hbmExists pa = true → spent = true → fails fkKeyExh) ∧
          (∀ pa, reach gid off → w.slotLoc bag off = some (.hbm pa) → hbmExists pa = true → spent = false → ¬ opens w gid pa (.place bag n) true →
            ∃ t, go = .next t ∧ t.bags = s.bags ∧ t.gangs = s.gangs ∧ t.bagOps = s.bagOps ∧ SameMemory w t) ∧
          (∀ pa, reach gid off → w.slotLoc bag off = some (.hbm pa) → hbmExists pa = true → spent = false → opens w gid pa (.place bag n) true →
            ∃ (u : State) (q : BagRec), q.bank = bank ∧ q.slot = off ∧ q.payload = r.payload ∧ q.key = r.key ∧ q.score = r.score ∧ q.claim = 0 ∧
              (∀ tk, q.token = some tk ↔ r.kind = .putToken tk) ∧ u.bag bag = { x with p := x.p - 1, r := x.r + 1, u := if q.token = none then x.u else x.u + 1, placing := x.placing.erase r, recs := x.recs ++ [q] } ∧
              ((∀ ln ∈ linesOf pa d.rs, (kget w.lineInfo ln).flips = 0) → SameMemory w u) ∧ SameRegisters s u ∧ go = .next (u.putResult r r.status r.dk)))) ∧
    (∀ op, kfind s.bagOps op = none → exec (.bagSettle bag op n) s = .next s ∧ exec (.bagClaim bag op n) s = .next s) ∧
    (∀ op o, kfind s.bagOps op = some o → o.bag ≠ bag ∨ o.ended = false ∨ o.want ≠ 0 ∨ n ∉ o.banks → exec (.bagSettle bag op n) s = .next s) ∧
    (∀ op o, kfind s.bagOps op = some o → o.bag = bag → o.ended = true → o.want = 0 → n ∈ o.banks →
      let hit := fun (r : BagRec) => r.bank == n && r.token == some o.token
      let u := (x.recs.filter hit).length
      ∃ t, exec (.bagSettle bag op n) s = .next t ∧ SameMemory s t ∧
        (t.bag bag).recs = (if o.squash then x.recs.filter (fun r => !hit r) else x.recs.map (fun r => if hit r then { r with token := none } else r)) ∧
        (t.bag bag).upd = x.upd ++ (if u = 0 then [] else [{ op := op, recs := [], r := if o.squash then u else 0, u := u }]) ∧
        (∀ o' ∈ kfind t.bagOps op, o' = { o with banks := o.banks.filter (· != n), count := o.count + u }) ∧
        (u ≠ 0 → kfind t.bagOps op ≠ none)) ∧
    (∀ cursor, (∀ kv ∈ s.bagOps, ¬ (kv.2.bag = bag ∧ kv.2.cursor = cursor ∧ kv.2.want = 0 ∧ n ∈ kv.2.banks)) → exec (.bagCut bag cursor n) s = .next s) ∧
    (∀ cursor id o c, s.bagOps.find? (fun kv => kv.2.bag == bag && kv.2.cursor == cursor && kv.2.want == 0 && kv.2.banks.contains n) = some (id, o) → kfind s.cursors cursor = some c →
      ∃ t, exec (.bagCut bag cursor n) s = .next t ∧
        t.cursors = kset s.cursors cursor { c with cut := c.cut ++ (x.recs.filter (fun r => r.bank == n && r.token.isNone)).map (fun r => r.id) } ∧
        ((∃ k ∈ o.banks, k ≠ n) → t.bagOp id = { o with banks := o.banks.filter (· != n) } ∧ t.gangs = s.gangs) ∧
        (o.banks.filter (· != n) = [] → kfind t.bagOps id = none ∧ t = { s with gangs := t.gangs, cursors := t.cursors, bagOps := t.bagOps })) ∧
    (x.upd[n]? = none → exec (.bagFree bag n) s = .next s) ∧
    (∀ u ∈ x.upd[n]?, ∃ t, exec (.bagFree bag n) s = .next t ∧ t.bags = kset s.bags bag { x with r := x.r - u.r, u := x.u - u.u, upd := x.upd.eraseIdx n } ∧
      t = { s with bags := t.bags, bagOps := t.bagOps, gangs := t.gangs }) ∧
    (∀ op o, kfind s.bagOps op = some o → o.bag ≠ bag ∨ o.want = 0 ∨ o.ended = true → exec (.bagClaim bag op n) s = .next s) ∧
    (∀ op o, kfind s.bagOps op = some o → o.bag = bag → o.want ≠ 0 → o.ended = false →
      let g := s.gang o.gid
      let c := kget s.cursors o.cursor
      let can := x.recs.filter (claimable x c)
      let go := exec (.bagClaim bag op n) s
      let key := ent.2.2.key
      let released := fun (u t : State) => kfind t.bagOps op = none ∧ (t.bag bag).recs = x.recs.map (fun r => if r.claim = op then { r with claim := 0 } else r) ∧
        (∀ p ∈ (t.gang o.gid).pend, p.done = none → p.id ≠ op) ∧ SameMemory u t ∧ SameRegisters s t
      -- the words of a batch stand at the banks (R355)
      let writes := fun (t : State) (batch : List Nat) =>
        let word := fun (off : Nat) (v : Word) => ∃ q ∈ t.reqs, q.id ∈ (t.bagOp op).writes ∧ q.loc = .blk g.block off ∧ q.kind = .store ∧ q.width = 4 ∧ q.path = .b ∧ q.val = v.setWidth 128
        (∀ id ∈ o.batch, ∃ r ∈ x.recs, r.id = id) → t.reqs.take s.reqs.length = s.reqs ∧ t.reqs.length = s.reqs.length + batch.length * (d.rs / 4 + 2) ∧
          ∀ i id, batch[i]? = some id → ∀ r ∈ x.recs.find? (fun r => r.id == id), (∀ w, w < d.rs / 4 → word (o.off + i * d.rs + 4 * w) (r.payload.extractLsb' (32 * w) 32)) ∧
            word (o.off + o.want * d.rs + 8 * i) r.key ∧ word (o.off + o.want * d.rs + 8 * i + 4) r.score
      (g.stop = .ending → ∃ t, go = .next t ∧ released s t) ∧
      (g.stop ≠ .ending → o.writes ≠ [] → (∃ q ∈ s.openReqs, q.id ∈ o.writes) → go = .next s) ∧
      (g.stop ≠ .ending → o.writes ≠ [] → (∀ q ∈ s.openReqs, q.id ∉ o.writes) → ∃ t, go = .next t ∧ SameMemory s t ∧
        (t.bag bag).recs = x.recs.filter (fun r => !o.batch.contains r.id) ∧ (t.bag bag).upd = x.upd ++ [{ op := op, recs := o.batch, r := o.batch.length, u := 0 }] ∧
        t.bagOp op = { o with ended := true, writes := [] }) ∧
      (g.stop ≠ .ending → o.writes = [] → c.bag = bag →
        ((n = 0 ∧ o.batch = [] ∧ can ≠ []) ∨ (n ≠ 0 ∧ ∀ r ∈ can, r.id ≠ n) → ∃ t, go = .next t ∧ t = { s with cursors := t.cursors, free := t.free } ∧ (c.live = false → t = s)) ∧
        (∀ r ∈ can.find? (fun r => r.id == n), n ≠ 0 → ¬ reach o.gid r.slot → ∃ t, go = .next t ∧ t = { s with cursors := t.cursors, free := t.free }) ∧
        (∀ r ∈ can.find? (fun r => r.id == n), n ≠ 0 → reach o.gid r.slot →
          let w := walked (s.finishBanks o.cursor false) o.gid r.slot
          ((∀ pa, w.slotLoc bag r.slot ≠ some (.hbm pa)) → ∃ t, go = .next t ∧ released w t ∧
            ∃ f ∈ (t.core g.core).recQ.getLast?, f.type = 2 ∧ f.kind = 1 ∧ f.path = 2 ∧ f.pc = o.pc ∧ f.off = r.slot) ∧
          (∀ pa, w.slotLoc bag r.slot = some (.hbm pa) → ¬ opens w o.gid pa (.claim op) false → ∃ t, go = .next t ∧ t = { w with pages := t.pages }) ∧
          (∀ pa, w.slotLoc bag r.slot = some (.hbm pa) → opens w o.gid pa (.claim op) false → (∀ ln ∈ linesOf pa d.rs, (kget w.lineInfo ln).flips = 0) →
            ((∃ ln ∈ linesOf pa d.rs, w.lineBad key ln = true) → ∃ t, go = .next t ∧ SameMemory w t ∧ (t.bag bag) =
                { x with recs := x.recs.filter (fun y => y.id != n), failed := x.failed + 1, upd := x.upd ++ [{ op := op, recs := [n], r := 1, u := 0 }] } ∧
              ∃ f ∈ (t.core g.core).recQ.getLast?, f.type = 1 ∧ f.kind = 9 ∧ f.path = 2 ∧ f.off = r.slot) ∧
            ((∀ ln ∈ linesOf pa d.rs, w.lineBad key ln = false) → ∃ t, go = .next t ∧ SameMemory w t ∧ SameRegisters s t ∧
              (t.bag bag) = { x with recs := x.recs.map (fun y => if y.id = n then { y with claim := op } else y) } ∧
              t.bagOp op = { o with batch := o.batch ++ [n], writes := (t.bagOp op).writes } ∧
              (o.batch.length + 1 ≠ o.want → t.gangs = s.gangs ∧ t.reqs = s.reqs ∧ (t.bagOp op).writes = []) ∧ (o.batch.length + 1 = o.want → writes t (o.batch ++ [n]))))) ∧
        (n = 0 → o.batch ≠ [] → ∃ t, go = .next t ∧ SameMemory s t ∧ (t.bag bag) = x ∧ writes t o.batch) ∧
        (n = 0 → o.batch = [] → can = [] → ∃ t, go = .next t ∧ SameMemory s t ∧ (t.bag bag) = x ∧ (kfind s.cursors o.cursor ≠ none → (kget t.cursors o.cursor).spent = true) ∧
          (x.upd.all (fun u => u.op != op) = true → o.banks = [] → kfind t.bagOps op = none))))
/-! ## The fabric, queues, the Tray and the platform -/

/-- R372 to R375, R377, R379 to R382, R397: a free port sends the packet of the highest rank, the oldest of those, to its next port while that has room, at a cost of 2 to its slot's budget, or fails it
with ROUTE where its route is down or cannot be read; an age of 1,023, in cycles of the port's die, saturates; at its destination each unit is stored and, all stored, 1 is added to the counter; on a peer's
route it waits for the gang's earlier ones; acknowledged, the post leaves OUT; a truncated packet fails with TRUNC, one with a bad flit with UNCORR and its launch ends while none of it is performed, a corrupt header with KIND 11 all of the partition's, which
goes down; a cluster's reset truncates at most one packet; links go down and up; the budgets are refilled. A failed post counts in FAB.STAT, with a record of PATH 3.
The model's choices in it: log entries 69 to 71, 73 to 76, 119, 120, 127, 128 and 142. -/
def Obligations.FabricEvents : Prop :=
  ∀ (s : State) (n k : Nat),
    let q := s.portQueue n
    let gone := fun (p : Post) (t : State) => kfind t.posts k = none ∧
      ((∀ kv ∈ s.posts, kv.1 ≠ k → ¬ (kv.2.gid = p.gid ∧ kv.2.out = p.out)) → (t.gang p.gid).posts = (s.gang p.gid).posts.filter (· != p.out)) ∧
      ((∃ kv ∈ s.posts, kv.1 ≠ k ∧ kv.2.gid = p.gid ∧ kv.2.out = p.out) → (t.gang p.gid).posts = (s.gang p.gid).posts)
    (∀ p ∈ kfind s.posts k, ∀ kind src named, let t := s.failPost k kind src named
      gone p t ∧ (t.gang p.gid).fabFail = min 255 ((s.gang p.gid).fabFail + 1) ∧ (t.gang p.gid).fabKind = kind ∧ (t.gang p.gid).regs = (s.gang p.gid).regs ∧
      ∃ f, (t.core (s.gang p.gid).core).recQ = (s.core (s.gang p.gid).core).recQ ++ [f] ∧ f.type = 1 ∧ f.kind = kind ∧ f.path = 3 ∧ f.src = src ∧ f.pc = p.pc ∧
        f.lanes = (if named then p.lanes else 0) ∧ f.handle = p.handle % 2 ^ 16 ∧ f.off = p.off) ∧
    (∀ idx, q = [] → exec (.egressArbitration n idx) s = .next s) ∧
    (∀ idx, q ≠ [] → ∃ j p, (j, p) ∈ q ∧ (∀ kv ∈ q, s.egressRank n kv.2 ≤ s.egressRank n p ∧ (s.egressRank n kv.2 = s.egressRank n p → p.since ≤ kv.2.since)) ∧
      let room := ∀ h ∈ p.hops.tail.head?, (s.portQueue h).length < 64
      let down := p.route ≠ 0 ∧ s.routeDown (s.launchOf p.gid).asid p.route = true
      (¬ room → exec (.egressArbitration n idx) s = .next s) ∧
      (room → down → exec (.egressArbitration n idx) s = .next ((s.failPost j 12 0 true).inject n)) ∧
      (room → ¬ down → ∃ t, exec (.egressArbitration n idx) s = .next t ∧ t = { s with posts := t.posts, next := s.next + 1, spent := t.spent } ∧
        (∀ r ∈ kfind t.posts j, r.hops = p.hops.tail ∧ r.since = s.portNow (p.hops.tail.headD n) ∧ r.old = false ∧ r.fresh = false ∧ (p.bcast = true → s.postAt j = p → r.root ≠ 0)) ∧ kfind t.posts j ≠ none ∧
        t.spent = (if p.slot < 64 ∧ s.egressRank n p ≠ 8 then kset s.spent (24576 + 64 * n + p.slot)
          { period := s.portNow n / 1024, used := s.budgetUsed (24576 + 64 * n + p.slot) (s.portNow n / 1024) + 2 } else s.spent))) ∧
    (∀ asid route, s.tableBad (s.routeAddr asid route) 8 = true → s.routeDown asid route = true) ∧
    (kfind s.posts k = none → exec (.packetAgeSaturation k) s = .next s ∧ exec (.postDelivery k n) s = .next s ∧ exec (.postAck k) s = .next s ∧
      exec (.flitUncorr k) s = .next s ∧ exec (.corruptHeader k) s = .next s) ∧
    (∀ p ∈ kfind s.posts k, exec (.packetAgeSaturation k) s = .next (if p.queued = true ∧ p.hops ≠ [] ∧ p.since + 1023 ≤ s.portNow (p.hops.headD 0) then s.setPost k { p with old := true } else s)) ∧
    (∀ p ∈ kfind s.posts k,
      let at_ := fun (r : Req) (off w : Nat) (x : BitVec 128) (kind : ReqKind) (l : Loc) => r.kind = kind ∧ r.loc = l ∧ r.width = w ∧ r.val = x ∧ r.path = .x ∧ r.load = k ∧
        r.gid = p.gid ∧ r.off = off ∧ r.src = 4 * p.cl ∧ (kind = .red → r.op = .add)
      (p.hops ≠ [] → exec (.postDelivery k n) s = .next s) ∧
      (∀ cl, p.hops = [] → p.cut = some cl → exec (.postDelivery k n) s = .next (s.failPost k 10 cl true)) ∧
      (p.hops = [] → p.cut = none → p.route ≠ 0 → p.units ≠ [] ∨ p.add = true → s.routeDown (s.launchOf p.gid).asid p.route = true → exec (.postDelivery k n) s = .next (s.failPost k 12 0 true)) ∧
      (p.hops = [] → p.cut = none → p.route ≠ 0 → p.units = [] → p.add = false → exec (.postDelivery k n) s = .next s) ∧
      (p.hops = [] → p.cut = none → p.route ≠ 0 → p.units ≠ [] ∨ p.add = true → s.routeDown (s.launchOf p.gid).asid p.route = false →
        (∃ kv ∈ s.posts, kv.1 ≠ k ∧ s.postBefore k kv.1 = true ∧ (kv.2.units ≠ [] ∨ kv.2.add = true)) → exec (.postDelivery k n) s = .next s) ∧
      (p.hops = [] → p.cut = none → p.route ≠ 0 → p.units ≠ [] ∨ p.add = true → s.routeDown (s.launchOf p.gid).asid p.route = false →
        (∀ kv ∈ s.posts, kv.1 ≠ k → s.postBefore k kv.1 = true → kv.2.units = [] ∧ kv.2.add = false) → ∃ m, m < 9 ∧ exec (.postDelivery k n) s = .next (if m = 0 then
          ({ s with free := s.free + 1 } : State).setPost k { p with units := [], add := false, fresh := false } else ({ s with free := s.free + 1 } : State).failPost k m 0 true)) ∧
      (p.hops = [] → p.cut = none → p.route = 0 → p.units ≠ [] → s.postTurn k p.loc = false → exec (.postDelivery k n) s = .next s) ∧
      (p.hops = [] → p.cut = none → p.route = 0 → p.units ≠ [] → p.bcast = false ∨ p.root ≠ 0 → s.postTurn k p.loc = true → ∃ u ∈ p.units, ∃ (v : State) (r : Req),
        at_ r (p.off + u.1) u.2 ((p.data >>> (8 * u.1)).setWidth 128 &&& BitVec.ofNat 128 (2 ^ (8 * u.2) - 1)) .store (p.loc.plus u.1) ∧
        v = { s with posts := kset s.posts k { p with units := p.units.filter (· != u), open_ := p.open_ ++ [r.id], fresh := false }, next := s.next + 1 } ∧
        exec (.postDelivery k n) s = .next (v.serve r false)) ∧
      (∀ l, p.hops = [] → p.cut = none → p.route = 0 → p.units = [] → p.add = true → p.ctr = some l → p.open_ ≠ [] ∨ s.postTurn k l = false → exec (.postDelivery k n) s = .next s) ∧
      (∀ l, p.hops = [] → p.cut = none → p.route = 0 → p.units = [] → p.add = true → p.open_ = [] → p.ctr = some l → s.postTurn k l = true → ∃ (v : State) (r : Req),
        at_ r p.off 8 1 .red l ∧ v = { s with posts := kset s.posts k { p with add := false, open_ := [r.id] }, next := s.next + 1 } ∧
        exec (.postDelivery k n) s = .next (v.serve r false)) ∧
      (p.hops = [] ∧ p.units = [] ∧ p.open_ = [] ∧ p.add = false ∧ p.cut = none → ∃ t, exec (.postAck k) s = .next t ∧ gone p t ∧ t = { s with posts := t.posts, gangs := t.gangs }) ∧
      (p.hops ≠ [] ∨ p.units ≠ [] ∨ p.open_ ≠ [] ∨ p.add = true ∨ p.cut ≠ none → exec (.postAck k) s = .next s) ∧
      (p.units ≠ unitsOf p.off (4 * p.words) ∨ p.open_ ≠ [] → exec (.flitUncorr k) s = .next s) ∧
      (p.units = unitsOf p.off (4 * p.words) → p.open_ = [] → ∃ t, exec (.flitUncorr k) s = .next t ∧ kfind t.posts k = none ∧ (t.launchOf p.gid).failed = true ∧ (s.gang p.gid).block = (t.gang p.gid).block ∧
        (∀ b ∈ (s.launchOf p.gid).blocks, (s.block b).live = true → (t.block b).ending = true) ∧ t.hbm = s.hbm ∧ t.host = s.host ∧ t.tiles = s.tiles ∧ (NoWatchers s → SameRegisters s t)) ∧
      (let part := (s.launchOf p.gid).part
       ∃ t, exec (.corruptHeader k) s = .next t ∧ (kget t.parts part).down = true ∧ (∀ kv ∈ s.posts, (s.launchOf kv.2.gid).part = part → kfind t.posts kv.1 = none) ∧
        (∀ kv ∈ s.launches, kv.2.part = part → kv.2.phase = 1 ∨ kv.2.phase = 2 → (t.launch kv.1).failed = true ∧ (t.launch kv.1).phase = 2 ∧
          ∀ b ∈ (s.launch kv.1).blocks, (s.block b).live = true → (t.block b).ending = true) ∧
        t.hbm = s.hbm ∧ t.host = s.host ∧ t.tiles = s.tiles ∧ (NoWatchers s → SameRegisters s t))) ∧
    (∃ t, exec (.clusterReset k) s = .next t ∧ t = { s with posts := t.posts, free := t.free } ∧
      (t.posts = s.posts ∨ ∃ kv ∈ s.posts, kv.2.fresh = true ∧ kv.2.cl = k ∧ t.posts = kset s.posts kv.1 { kv.2 with cut := some k })) ∧
    (∃ t, exec (.postanLinkDown k) s = .next t ∧ t = { s with linkDown := t.linkDown } ∧ ∀ j, j < 16 → t.linkDown.getLsbD j = (s.linkDown.getLsbD j || j == k)) ∧
    (∃ t, exec (.postanLinkUp k) s = .next t ∧ t = { s with linkDown := t.linkDown } ∧ ∀ j, j < 16 → t.linkDown.getLsbD j = (s.linkDown.getLsbD j && j != k)) ∧
    exec .reservationBudgetRefill s = .next { s with spent := s.spent.filter (fun kv => kv.2.period == s.periodOf kv.1) }

/-- R98, R214 to R218, R328, R383 to R391, R395 to R398: a doorbell takes its place in order; the first waiting queue that a slot and the reservations take gets a slot; the scheduler examines the head packet of a slot's queue, in turn, reports
a ring that fails, and takes a packet whose waits are over: skipped, refused with its KIND, or a launch; a cluster instance is placed whole on the lowest cluster of its stack
group that takes it; once every block has ended and its stores are performed the launch is reported and forgotten; a slice of SLICE µs expires; a context is loaded into the shadow bank; at a switch, 96
cycles without issue, the resident context goes to the shadow and the loaded one comes; a block is saved once its loads, copies and bag instructions have
landed, and its image is written to its units of the save area, where its key is not spent. A step whose accesses of main memory cannot all be made waits. Else nothing changes.
The model's choices in it: log entries 40, 49, 78 to 83, 85 to 89, 115, 116, 125, 130, 131, 133, 139 and 142. -/
def Obligations.QueueAndTrayEvents : Prop :=
  ∀ (s : State) (k core : Nat),
    let can := fun q => s.queueWaits q && !(s.slotsFor q).isEmpty
    let l := s.launch k
    let stk := l.nextInst / max 1 l.nclu
    let clu := l.nextInst % max 1 l.nclu
    let waits := l.phase = 1 ∧ (kget s.parts l.part).down = false ∧ (s.slotOf l.queue).1 ≠ 64
    let gangs := (l.blocks.map (fun b => (s.block b).gangs)).flatten
    let ended := l.phase = 2 ∧ (∀ b ∈ l.blocks, (s.block b).live = false) ∧ ∀ r ∈ s.openReqs, r.gid ∈ gangs → r.writes = false
    let out := (s.activeBlocks core).map Prod.fst
    let incoming := s.shadowBlocks core .shadowIn
    let switches := s.shadowBlocks core .shadowOut = [] ∧ s.arrayDone core = true ∧
      (if incoming = [] then s.launchWaits core = true else s.mayDisplace core ((incoming.map s.blockClass).foldl max 0) = true)
    let busy := fun b => (∃ g ∈ (s.block b).gangs, ∃ x ∈ (s.gang g).loads, x.tag ≠ 18) ∨ (∃ r ∈ s.reqs, r.kind ≠ .waddr ∧ ∃ o, r.words = some (b, o)) ∨
      (∃ kv ∈ s.copies, kv.2.block = b ∧ kv.2.complete = false ∧ kv.2.dst.sort ≠ 1) ∨
      (∃ kv ∈ s.bagOps, kv.2.gid ∈ (s.block b).gangs)
    let q := k % 2 ^ 16
    (s.isReady = false ∨ (kget s.queues q).bell ≠ 0 → exec (.queueBell k) s = .next s) ∧
    (s.isReady = true → (kget s.queues q).bell = 0 →
      exec (.queueBell k) s = .next { s with queues := kset s.queues q { kget s.queues q with bell := s.next + 1 }, next := s.next + 1 }) ∧
    (s.isReady = false ∨ can k = false ∨ (∃ kv ∈ s.queues, kv.1 ≠ k ∧ can kv.1 = true ∧ s.queueBefore kv.1 k = true) →
      exec (.queueSlotMap k) s = .next { s with free := s.free + 1 }) ∧
    (s.isReady = true → can k = true → (∀ kv ∈ s.queues, kv.1 ≠ k → can kv.1 = true → s.queueBefore kv.1 k = false) → ∃ j ∈ s.slotsFor k,
      let w := s.readTable (s.profileAddr k) 64
      exec (.queueSlotMap k) s = .next { w with hwslots := kset s.hwslots j { queue := k, resv := w.profile k }, free := s.free + 1 } ∧ s.resvFits (s.profile k) j = true ∧
      (kfind s.hwslots j = none ∨ ((∀ i, i < 64 → kfind s.hwslots i = none → s.resvFits (s.profile k) i = false) ∧
        ∃ h, (j, h) ∈ s.hwslots ∧ qPrio (s.qdesc h.queue) < qPrio (s.qdesc k) ∧ ∀ kv ∈ s.blocks, kv.2.live = true → (s.launch kv.2.launch).queue = h.queue → kv.2.where_ = .saved))) ∧
    (s.isReady = false ∨ s.nextTurn ≠ some k ∨ kfind s.hwslots k = none → exec (.queueExamine k) s = .next s) ∧
    (∀ h ∈ kfind s.hwslots k, s.isReady = true → s.nextTurn = some k →
      -- the descriptor has been read
      let v := ({ s with turn := k, stuck := false }).readTable (s.qaddr h.queue) 64
      let d := v.qdesc h.queue
      let asid := qAsid d
      let unread := v.tableBad (s.qaddr h.queue) 64 = true
      let idle := qCount d = 0 ∨ v.partShut (qPart d) = true ∨ v.queueStopped h.queue = true
      let done := fun (z : State) => exec (.queueExamine k) s = .next (if z.stuck then { s with turn := k } else { z with stuck := s.stuck })
      let stops := fun (u : State) (kind : Nat) => ∃ t f, exec (.queueExamine k) s = .next t ∧
        t.queues = kset s.queues h.queue { kget s.queues h.queue with stop := some (d % 2 ^ 448) } ∧ (t.core 0).recQ = (u.core 0).recQ ++ [f] ∧
        f.type = 1 ∧ f.kind = kind ∧ f.code = h.queue ∧ f.handle = qRing d ∧ t = { u with stuck := s.stuck, queues := t.queues, cores := t.cores }
      (unread → (kget s.queues h.queue).stop = some 0 → done v) ∧ (unread → (kget s.queues h.queue).stop ≠ some 0 → stops v fkUncorr) ∧
      (¬ unread → qValid d = false → done { v with queues := s.queues.map (fun kv => if kv.1 = h.queue then (kv.1, { kv.2 with stop := none }) else kv) }) ∧
      (¬ unread → qValid d = true → idle → done v) ∧
      (¬ unread → qValid d = true → ¬ idle →
        -- and the entry of the ring
        let y := v.readEnt asid (qRing d)
        (∀ kind, y.checkRing d rightR (qHeadSlot d) = .error kind → stops y kind) ∧
        (∀ e, y.checkRing d rightR (qHeadSlot d) = .ok e →
          let r := y.schedWords asid e (128 * qHeadSlot d) 16
          let p := r.1
          let w := ((pktHandles p).foldl (fun s h => s.readEnt asid (h % 2 ^ 16)) r.2).depMet p asid
          let u := w.2.tableWrite (w.2.qaddr h.queue + 56) 4 ((qHead d + 1) % 2 ^ 32)
          let c := u.condSkips p asid
          let x := Launch.ofPacket p asid h.queue (qPrio d) (qPart d) (qHead d)
          let blocked := pktField p 1 1 % 2 = 1 ∧ r.2.queueBusy h.queue = true
          (blocked → done r.2) ∧ (¬ blocked → w.1 = false → done w.2) ∧
          (¬ blocked → w.1 = true → c.1 = true → done ((c.2.report x 2 0).releaseSlot h.queue)) ∧
          (∀ kind ∈ c.2.checkPacket p x, ¬ blocked → w.1 = true → c.1 = false → done ((c.2.report x 3 kind).releaseSlot h.queue)) ∧
          (¬ blocked → w.1 = true → c.1 = false → c.2.checkPacket p x = none →
            done { c.2 with launches := kset c.2.launches (c.2.next + 1) { x with after := c.2.waitedOn p asid h.queue, ring := some (h.queue, qHead d) }, next := c.2.next + 1 })))) ∧
    (¬ waits ∨ (maskBits (kget s.parts l.part).mask)[stk]? = none → exec (.clusterInstancePlace k) s = .next s) ∧
    (∀ sg ∈ (maskBits (kget s.parts l.part).mask)[stk]?, waits →
      ((∀ j, j < 4 → s.addInstance k (4 * sg + j) clu stk l.nblk = none) → exec (.clusterInstancePlace k) s = .next s) ∧
      ((∃ j, j < 4 ∧ s.addInstance k (4 * sg + j) clu stk l.nblk ≠ none) → (∀ kv ∈ s.blocks, kv.1 ≤ s.next) → ∃ t cl, exec (.clusterInstancePlace k) s = .next t ∧ cl / 4 = sg ∧
        (∀ j, j < cl % 4 → s.addInstance k (4 * sg + j) clu stk l.nblk = none) ∧
        (t.launch k) = { l with nextInst := l.nextInst + 1, phase := if l.nextInst + 1 = l.nclu * l.nstk then 2 else 1, blocks := (t.launch k).blocks } ∧
        (t.launch k).blocks.length = l.blocks.length + l.nblk ∧
        (∀ n, n < l.nblk → ∀ b ∈ (t.launch k).blocks[l.blocks.length + n]?, (t.block b).live = true ∧ (t.block b).launch = k ∧ (t.block b).idx = n ∧ (t.block b).clu = clu ∧
          (t.block b).stk = stk ∧ (t.block b).core / 4 = cl ∧ (t.block b).gangs.length = l.ngang ∧ (t.block b).where_ = .active) ∧ t.hbm = s.hbm ∧ t.host = s.host ∧ t.tiles = s.tiles)) ∧
    (¬ ended → exec (.launchComplete k) s = .next s) ∧
    (ended → let z := ({ s with stuck := false } : State).report l (if l.failed || l.blocks.any (fun b => (s.block b).failed) then 1 else 0) 0
      (z.stuck = true → exec (.launchComplete k) s = .next s) ∧
      (z.stuck = false → ∃ t, exec (.launchComplete k) s = .next t ∧ (t.launch k).phase = 3 ∧ (∀ b ∈ l.blocks, kfind t.blocks b = none) ∧
        t.hbm = z.hbm ∧ t.tiles = z.tiles ∧ t.stuck = s.stuck ∧ ∀ g ∈ gangs, kfind t.gangs g = none)) ∧
    ((∀ kv ∈ s.activeBlocks core, (s.launch kv.2.launch).queue ≠ k) ∨ s.mcNow (32 * (core / 16)) < kget (s.core core).slices k + 1250 * qSlice (s.qdesc k) →
      exec (.sliceExpiry core k) s = .next s) ∧
    ((∃ kv ∈ s.activeBlocks core, (s.launch kv.2.launch).queue = k) → kget (s.core core).slices k + 1250 * qSlice (s.qdesc k) ≤ s.mcNow (32 * (core / 16)) →
      ∃ t, exec (.sliceExpiry core k) s = .next t ∧ k ∈ (t.core core).expired ∧
      t.core core = { s.core core with expired := (t.core core).expired } ∧ t = { s with cores := t.cores }) ∧
    (s.arrayDone core = true ↔ ∀ m ∈ (s.core core).mmaQ ++ (s.core core).mmaRun.toList, m.block ∉ out) ∧
    (¬ switches → exec (.traySwitch core) s = .next s) ∧
    (switches → (∀ kv ∈ s.blocks, s.block kv.1 = kv.2) → ∃ t, exec (.traySwitch core) s = .next t ∧ (t.core core).frozen = s.now core + 96 ∧ (t.core core).expired = [] ∧
      (∀ b ∈ out, b ∉ incoming → (t.block b).where_ = .shadowOut ∧ (t.block b).spilled = s.spillMask b ∧
        ∀ g ∈ (s.block b).gangs, (s.gang g).live = true → (∀ c ∈ incoming, g ∉ (s.block c).gangs) → (t.gang g).active = false ∧ (t.gang g).spTaint = []) ∧
      (∀ b ∈ incoming, (t.block b).where_ = .active ∧ (t.block b).core = core) ∧ t.hbm = s.hbm ∧ t.host = s.host ∧ t.tiles = s.tiles) ∧
    ((s.block k).live = false ∨ (s.block k).where_ ≠ .saved ∨ s.mayResume k core = false ∨ s.shadowBlocks core .shadowOut ≠ [] ∨ s.shadowRoom core k = false →
      exec (.contextLoad core k) s = .next s) ∧
    ((s.block k).live = true → (s.block k).ending = false → (s.block k).where_ = .saved → kfind s.blocks k = some (s.block k) → s.mayResume k core = true →
      (∀ kv ∈ s.blocks, kv.2.live = true → kv.2.where_ = .saved → kv.1 ≠ k → s.resumesFirst kv.1 k = false) → s.shadowBlocks core .shadowOut = [] → s.shadowRoom core k = true →
      incoming ≠ [] ∨ s.switchCore (s.blockClass k) ((List.range 192).filter (fun c => s.mayResume k c && (s.shadowBlocks c .shadowOut).isEmpty)) = some core →
      exec (.contextLoad core k) s = .next (s.setBlock k { s.block k with where_ := .shadowIn, core := core })) ∧
    (let outs := s.shadowBlocks core .shadowOut
     let saves := fun (b : Nat) (t : State) => t.block b = { s.block b with where_ := .saved, slab := (t.block b).slab } ∧
       ∀ j, j < (s.block b).slabs → (s.block b).spilled.testBit j = true → kget (t.block b).slab j = kget (s.block b).slab j
     let key := fun b => kget s.keys (s.saveKey (s.asidOf b))
     ∃ t, exec (.backgroundSpill core) s = .next t ∧
      t = { s with blocks := t.blocks, cores := t.cores, free := t.free, hbm := t.hbm, lineInfo := t.lineInfo, pages := t.pages, keys := t.keys, grades := t.grades, launches := t.launches, queues := t.queues
                   spent := t.spent, undefs := t.undefs } ∧
      (∀ b, b ∉ outs ∨ busy b → t.block b = s.block b) ∧ (∀ b ∈ outs, t.block b = s.block b ∨ saves b t) ∧
      -- every image can be written, and none of them lies where a context is described
      ((∀ b ∈ outs, s.imageOpen b = true ∧ (key b).spent = false ∧ ∀ p ∈ s.imagePages b, (kget s.pages p).major ≠ 2 ^ 56 - 1 ∧
          ∀ b' ∈ outs, s.ctxAddr (s.asidOf b') + 128 ≤ 4096 * p ∨ 4096 * p + 4096 ≤ s.ctxAddr (s.asidOf b')) → ∀ b ∈ outs, ¬ busy b → saves b t) ∧
      (∀ b, outs = [b] → ¬ busy b → s.imageOpen b = false → t.block b = s.block b) ∧
      (∀ b, outs = [b] → ¬ busy b → s.imageOpen b = true → (s.block b).imageAt ≠ [] → (key b).spent = true → t.block b = s.block b ∧
        ∃ f, (t.core core).recQ = (s.core core).recQ ++ [f] ∧ f.type = 1 ∧ f.kind = fkKeyExh) ∧
      (∀ b, outs = [b] → ¬ busy b → ∀ a, (∀ n ∈ (s.block b).imageAt, let u := (s.hbmRead (s.ctxAddr (s.asidOf b) + 120) 8 + 65536 * n) / 4096 * 4096
        a < u ∨ u + 65536 ≤ a) → memByte t.hbm a = memByte s.hbm a))

/-- R190, R233, R367, R368, R400, R401, R407, R410 to R414: the boot ROM runs the stored image, or one that the host gives after it failed, and halts when that fails too; firmware that starts clears the key slots and the counters of lines and pages; a key loads and is erased; an invalidation removes an ASID's translations;
a partition command is pending or refused, and carried out, or refused then, once no launch runs on its stack groups; queues of a partition left unused give up their slots; a report that was asked for is written, DEV.ID, FW.VER, the digest of the image, the nonce and the device's key first, signed; a core's policy is 0 or 1, from the next cycle on; the record ring
is set only while it is off or empty; a management register takes its writable bits, a 64-bit one with its high word; a droop counts; the margins are measured.
Until READY only the recovery registers take a write. Nothing else changes.
The model's choices in it: log entries 73, 90 to 98, 108, 129 and 146. -/
def Obligations.PlatformEvents : Prop :=
  ∀ (s : State) (n value : Nat),
    let x := BitVec.ofNat 32 value
    let ready := s.isReady = true
    let runs := fun (image : Memory) (o : Out) => ∃ t, o = .next t ∧ t = { s with image := image, keys := [], pages := [], lineInfo := t.lineInfo, mgmt := t.mgmt } ∧
      (∀ k, kget t.lineInfo k = { kget s.lineInfo k with minor := 0 }) ∧ t.mg 0x0008 = 0x101 ∧ t.isReady = true ∧
      ∀ k, k ≠ 0x0008 → t.mg k = s.mg k
    let sets := fun (off : Nat) (y : Word) (o : Out) => ∃ t, o = .next t ∧ t = { s with mgmt := t.mgmt } ∧ t.mg off = y ∧ ∀ k, k ≠ off → t.mg k = s.mg k
    let a := s.mg64 0x0010
    let len := s.mg64 0x0018
    let recov := (s.host.filter (fun kv => decide (a ≤ kv.1) && decide (kv.1 < a + len))).map (fun kv => (kv.1 - a, kv.2))
    let free := s.ringOn = false ∨ s.mg 0x0078 = s.mg 0x007C
    let slot := fun (b : Bool) (key : BitVec 256) (o : Out) => ∃ t, o = .next t ∧ t = { s with keys := t.keys, mgmt := t.mgmt, next := s.next + 1 } ∧
      (kget t.keys n).loaded = b ∧ (kget t.keys n).key = key ∧ (kget t.keys n).spent = false ∧ (kget t.keys n).gen = s.next + 1 ∧ (∀ k, k ≠ n → kget t.keys k = kget s.keys k) ∧
      t.mg 0x0320 = BitVec.ofNat 32 n ∧ ∀ k, k ≠ 0x0320 → t.mg k = s.mg k
    let p := value % 16
    let mask := (s.mg (0x0600 + 4 * p)).toNat
    let refused := fun (p mask shape : Nat) => 12 ≤ p ∨ (∃ kv ∈ s.parts, kv.1 ≠ p ∧ kv.2.mask &&& mask ≠ 0) ∨ (mask ≠ 0 ∧ Config.shapeFits mask shape = false)
    let clash := refused p mask (value / 16 % 4)
    let part := kget s.parts n
    let cmd := s.mg 0x0640
    let asked := cmd.getLsbD 31 = true ∧ cmd.toNat % 16 = n
    let mask' := if asked then (s.mg (0x0600 + 4 * n)).toNat else part.mask
    let shape' := if asked then cmd.toNat / 16 % 4 else part.shape
    (s.mg 0x0008 ≠ 0 → exec .boot s = .next s) ∧
    (s.mg 0x0008 = 0 → Config.imageOk s.flash = true → runs s.flash (exec .boot s)) ∧
    (s.mg 0x0008 = 0 → Config.imageOk s.flash = false → sets 0x0008 2 (exec .boot s)) ∧
    (s.mg 0x0008 ≠ 2 → exec .bootCmdRecover s = .next s) ∧
    (s.mg 0x0008 = 2 → Config.imageOk recov = true → runs recov (exec .bootCmdRecover s)) ∧
    (s.mg 0x0008 = 2 → Config.imageOk recov = false → sets 0x0008 3 (exec .bootCmdRecover s)) ∧
    (¬ ready ∨ 256 ≤ n → exec (.keyLoad n) s = .next s ∧ exec (.keyErase n) s = .next s) ∧
    (ready → n < 256 → slot true (BitVec.ofNat 256 ((List.range 8).foldl (fun k i => k + (s.mg (0x0300 + 4 * i)).toNat * 2 ^ (32 * i)) 0)) (exec (.keyLoad n) s) ∧
      slot false 0 (exec (.keyErase n) s)) ∧
    (¬ ready ∨ (s.mg 0x00F0).getLsbD 31 = true → exec (.xlatInv n) s = .next s) ∧
    (ready → (s.mg 0x00F0).getLsbD 31 = false → sets 0x00F0 (BitVec.ofNat 32 (n % 1024 + 2 ^ 31)) (exec (.xlatInv n) s)) ∧
    ((s.mg 0x00F0).toNat ≠ n % 1024 + 2 ^ 31 → exec (.xlatInvDone n) s = .next s) ∧
    ((s.mg 0x00F0).toNat = n % 1024 + 2 ^ 31 → ∃ t, exec (.xlatInvDone n) s = .next t ∧ t = { s with cores := t.cores, clusters := t.clusters, mgmt := t.mgmt } ∧
      t.mg 0x00F0 = BitVec.ofNat 32 (n % 1024) ∧ (∀ kv ∈ t.cores, ∀ e ∈ kv.2.xlat, e.asid ≠ n % 1024) ∧ (∀ kv ∈ t.clusters, ∀ e ∈ kv.2.xlat, e.asid ≠ n % 1024) ∧
      ∀ c, ∀ e ∈ (s.core c).xlat, e.asid ≠ n % 1024 → e ∈ (t.core c).xlat) ∧
    (¬ ready ∨ cmd.getLsbD 31 = true → exec (.partCmd value) s = .next s) ∧
    (ready → cmd.getLsbD 31 = false → value / 2 ^ 31 % 2 = 0 → sets 0x0640 (BitVec.ofNat 32 (value % 64) ||| (cmd &&& 0x40000000)) (exec (.partCmd value) s)) ∧
    (ready → cmd.getLsbD 31 = false → value / 2 ^ 31 % 2 = 1 → clash → sets 0x0640 (BitVec.ofNat 32 (value % 64 + 2 ^ 30)) (exec (.partCmd value) s)) ∧
    (ready → cmd.getLsbD 31 = false → value / 2 ^ 31 % 2 = 1 → ¬ clash → sets 0x0640 (BitVec.ofNat 32 (value % 64 + 2 ^ 31)) (exec (.partCmd value) s)) ∧
    (12 ≤ n ∨ (¬ asked ∧ part.down = false) ∨ s.runsOn (part.mask ||| mask') = true → exec (.partitionRestitch n) s = .next s) ∧
    (n < 12 → asked → s.runsOn (part.mask ||| mask') = false → refused n mask' shape' →
      sets 0x0640 (BitVec.ofNat 32 (cmd.toNat % 64 + 2 ^ 30)) (exec (.partitionRestitch n) s)) ∧
    (n < 12 → asked ∨ part.down = true → s.runsOn (part.mask ||| mask') = false → (asked → ¬ refused n mask' shape') → ∃ t, exec (.partitionRestitch n) s = .next t ∧
      t = { s with parts := kset s.parts n { mask := mask', shape := shape', down := false }, mgmt := t.mgmt, hwslots := t.hwslots } ∧
      t.hwslots = (if mask' = 0 then s.hwslots.filter (fun kv => qPart (s.qdesc kv.2.queue) != n) else s.hwslots) ∧ t.mg (0x00C0 + 4 * n) = shapeWord mask' shape' ∧
      t.mg 0x0640 = if asked then cmd &&& 0x3F else cmd) ∧
    (¬ ready → exec .attestRequest s = .next s) ∧
    (ready → sets 0x0440 1 (exec .attestRequest s)) ∧
    -- the report that was asked for is written, with its fields in this order, and its signature
    (let a := s.attested
     let t := s.attest
     t = { s with host := t.host, mgmt := t.mgmt } ∧ t.mg 0x0440 = 0 ∧ t.mg 0x0448 = 0 ∧ (∀ k, k ≠ 0x0440 → k ≠ 0x0448 → t.mg k = s.mg k) ∧
     memRead t.host (s.mg64 0x0438) 512 = (a + 2 ^ 1600 * (Config.deviceSign a).toNat) % 256 ^ 512 ∧ (∀ k, k < s.mg64 0x0438 ∨ s.mg64 0x0438 + 512 ≤ k → memByte t.host k = memByte s.host k) ∧
     a % 2 ^ 32 = (s.mg 0x0000).toNat ∧ a / 2 ^ 32 % 2 ^ 32 = (s.mg 0x0004).toNat ∧ a / 2 ^ 64 % 2 ^ 384 = (Config.imageDigest s.image).toNat ∧
     (∀ i, i < 12 → a / 2 ^ (448 + 32 * i) % 2 ^ 32 = (s.mg (0x0400 + 4 * i)).toNat) ∧ a / 2 ^ 832 = Config.deviceKey.toNat) ∧
    (s.err = none → s.issuing = false → (∀ kv ∈ s.cores, kv.2.allocQ = []) → s.goers = [] → s.bankReady = [] → s.mg 0x0440 = 1 →
      step s = .next ({ s with free := s.free + 1 } : State).attest ∨ step s = ({ s with free := s.free + 1 } : State).nextEvent) ∧
    (¬ ready ∨ 192 ≤ n ∨ 2 ≤ value % 4 → exec (.corePolicyWrite n value) s = .next s) ∧
    (ready → n < 192 → value % 4 < 2 → ∃ t, exec (.corePolicyWrite n value) s = .next t ∧ t = { s with cores := t.cores, mgmt := t.mgmt } ∧
      t.mg (coreMg n 0) = BitVec.ofNat 32 (value % 4) ∧ (∀ k, k ≠ coreMg n 0 → t.mg k = s.mg k) ∧ (∀ k, k ≠ n → t.core k = s.core k) ∧
      t.core n = { s.core n with polAt := some (s.now n), polOld := if (s.core n).polAt = some (s.now n) then (s.core n).polOld else s.mg (coreMg n 0) }) ∧
    (¬ ready ∨ (n ≠ 0x0070 ∧ ¬ (free ∧ (n = 0x0074 ∨ n = 0x0080))) → exec (.frecConfigWrite n value) s = .next s) ∧
    (ready → exec (.frecConfigWrite 0x0070 value) s = .next { s with mgLow := sset s.mgLow 0x0070 x }) ∧
    (ready → free → (∃ t, exec (.frecConfigWrite 0x0074 value) s = .next t ∧ t = { s with mgmt := t.mgmt } ∧ t.mg 0x0070 = sget s.mgLow 0x0070 ∧ t.mg 0x0074 = x ∧
      ∀ k, k ≠ 0x0070 → k ≠ 0x0074 → t.mg k = s.mg k) ∧
      (∃ t, exec (.frecConfigWrite 0x0080 value) s = .next t ∧ t = { s with mgmt := t.mgmt } ∧ t.mg 0x0080 = x ∧ t.mg 0x0078 = 0 ∧ t.mg 0x007C = 0 ∧
      ∀ k, k ≠ 0x0080 → k ≠ 0x0078 → k ≠ 0x007C → t.mg k = s.mg k)) ∧
    (n % 4 ≠ 0 ∨ (¬ ready ∧ ¬ (0x0010 ≤ n ∧ n < 0x0020)) ∨ (mgWide (n / 8 * 8) = false ∧ mgMask n = none ∧ n ≠ 0x00F0 ∧ n ≠ 0x0320) → exec (.mgmtRegisterWrite n value) s = .next s) ∧
    (n % 8 = 0 → ready ∨ (0x0010 ≤ n ∧ n < 0x0020) → mgWide n = true → exec (.mgmtRegisterWrite n value) s = .next { s with mgLow := sset s.mgLow n x }) ∧
    (n % 8 = 4 → ready ∨ (0x0010 ≤ n ∧ n < 0x0020) → mgWide (n - 4) = true → ∃ t, exec (.mgmtRegisterWrite n value) s = .next t ∧ t = { s with mgmt := t.mgmt } ∧
      t.mg (n - 4) = sget s.mgLow (n - 4) ∧ t.mg n = x ∧ ∀ k, k ≠ n → k ≠ n - 4 → t.mg k = s.mg k) ∧
    (∀ m ∈ mgMask n, n % 4 = 0 → ready → mgWide (n / 8 * 8) = false → (∀ c, c < 48 → n ≠ clusterMg c 0x0800) → sets n (x &&& m) (exec (.mgmtRegisterWrite n value) s)) ∧
    -- the counts of a slice are settled under the old DECAY first
    (∀ c, c < 48 → ready → exec (.mgmtRegisterWrite (clusterMg c 0x0800) value) s = .next ((s.hotSettle c).setMg (clusterMg c 0x0800) (x &&& 0x8000FF1F))) ∧
    (ready → (s.mg 0x00F0).getLsbD 31 = false → sets 0x00F0 (x &&& 0x800003FF) (exec (.mgmtRegisterWrite 0x00F0 value) s)) ∧
    (ready → (s.mg 0x00F0).getLsbD 31 = true → exec (.mgmtRegisterWrite 0x00F0 value) s = .next s) ∧
    (ready → x.getLsbD 31 = true → sets 0x0320 (x &&& 0xFF) (exec (.mgmtRegisterWrite 0x0320 value) s)) ∧
    (ready → x.getLsbD 31 = false → exec (.mgmtRegisterWrite 0x0320 value) s = .next s) ∧
    (4 ≤ n → exec (.supplySag n) s = .next s ∧ exec (.supplyRecovery n) s = .next s) ∧
    (n < 4 → (∃ t, exec (.supplySag n) s = .next t ∧ t = { s with sag := t.sag, mgmt := t.mgmt } ∧ (∀ k, k < 4 → t.sag.getLsbD k = (s.sag.getLsbD k || k == n)) ∧
      t.mg 0x0504 = (if s.mg 0x0504 = 0xFFFFFFFF then 0xFFFFFFFF else s.mg 0x0504 + 1)) ∧
      (∃ t, exec (.supplyRecovery n) s = .next t ∧ t = { s with sag := t.sag } ∧ ∀ k, k < 4 → t.sag.getLsbD k = (s.sag.getLsbD k && k != n))) ∧
    (∃ t, exec .marginReplan s = .next t ∧ t = { s with mgmt := t.mgmt, cores := t.cores, free := s.free + 1, undefs := t.undefs } ∧ (¬ ready → t.mgmt = s.mgmt ∧ t.cores = s.cores) ∧
      (ready → (∃ mv : BitVec 16, t.cores = s.cores ∧ t.mg 0x0500 = (s.mg 0x0500 &&& 0xFFFF0000) ||| mv.setWidth 32) ∨
        (∃ mv : BitVec 16, t.mg 0x0500 = BitVec.ofNat 32 (2 ^ 31 + 2 ^ 16 * ((s.mg 0x0500).toNat / 2 ^ 16 % 256 - 1)) ||| mv.setWidth 32 ∧
          ∃ f, (t.core 0).recQ = (s.core 0).recQ ++ [f] ∧ f.type = 7 ∧ f.kind = 3)))
end

