-- ==== Sys2Proof/Laws/Maps.lean ====
section
/-! SUPPORT. The laws of the sparse maps, the record maps and byte memory: a read after a write, and the canonical form that every
operation keeps. -/

namespace Sys2Proof.Machine

/-! ## Sparse maps -/

theorem sget_filter_ne {w : Nat} (m : Sparse w) (k j : Nat) :
    sget (m.filter (fun kv => kv.1 != k)) j = if j = k then 0 else sget m j := by
  induction m with
  | nil => simp [sget]
  | cons h t ih =>
    obtain ⟨a, y⟩ := h
    by_cases ha : a = k
    · subst ha
      simp only [List.filter_cons, bne_self_eq_false, Bool.false_eq_true, if_false, ih, sget]
      by_cases hj : j = a
      · simp [hj]
      · simp [hj, Ne.symm hj]
    · have hb : (a != k) = true := by simpa using ha
      simp only [List.filter_cons, hb, if_true, sget, ih]
      by_cases hj : a = j
      · subst hj; simp [ha]
      · simp [hj]

theorem sget_sput {w : Nat} (m : Sparse w) (k j : Nat) (x : BitVec w) :
    sget (sput m k x) j = if j = k then x else sget m j := by
  induction m with
  | nil =>
    by_cases h : k = j
    · simp [sput, sget, h]
    · simp [sput, sget, h, Ne.symm h]
  | cons h t ih =>
    obtain ⟨a, y⟩ := h
    simp only [sput]
    split
    · by_cases hj : j = k
      · simp [sget, hj]
      · simp [sget, hj, Ne.symm hj]
    · split
      · subst_vars
        by_cases hj : j = a
        · simp [sget, hj]
        · simp [sget, hj, Ne.symm hj]
      · rename_i h1 h2
        simp only [sget, ih]
        by_cases hj : a = j
        · subst hj; simp [Ne.symm h2]
        · simp [hj]

/-- A read after a write. -/
theorem sget_sset {w : Nat} (m : Sparse w) (k j : Nat) (x : BitVec w) :
    sget (sset m k x) j = if j = k then x else sget m j := by
  unfold sset
  split
  · subst_vars; exact sget_filter_ne m k j
  · exact sget_sput m k j x

@[simp] theorem sget_sset_same {w : Nat} (m : Sparse w) (k : Nat) (x : BitVec w) : sget (sset m k x) k = x := by simp [sget_sset]

theorem sget_sset_ne {w : Nat} (m : Sparse w) {k j : Nat} (x : BitVec w) (h : j ≠ k) : sget (sset m k x) j = sget m j := by
  simp [sget_sset, h]

theorem sfrom_mono {w : Nat} {lo hi : Nat} (m : Sparse w) (h : lo ≤ hi) (hm : sfrom hi m = true) : sfrom lo m = true := by
  cases m with
  | nil => rfl
  | cons a t =>
    simp only [sfrom, Bool.and_eq_true, decide_eq_true_eq] at *
    exact ⟨⟨by omega, hm.1.2⟩, hm.2⟩

theorem sfrom_filter {w : Nat} (p : Nat × BitVec w → Bool) (m : Sparse w) (lo : Nat) (hm : sfrom lo m = true) :
    sfrom lo (m.filter p) = true := by
  induction m generalizing lo with
  | nil => rfl
  | cons a t ih =>
    simp only [sfrom, Bool.and_eq_true, decide_eq_true_eq] at hm
    simp only [List.filter_cons]
    split
    · simp only [sfrom, Bool.and_eq_true, decide_eq_true_eq]
      exact ⟨hm.1, ih _ hm.2⟩
    · exact sfrom_mono _ (by omega) (ih _ hm.2)

theorem sfrom_sput {w : Nat} (m : Sparse w) (lo k : Nat) (x : BitVec w) (hx : x ≠ 0) (hk : lo ≤ k) (hm : sfrom lo m = true) :
    sfrom lo (sput m k x) = true := by
  induction m generalizing lo with
  | nil => simpa [sput, sfrom, hk] using hx
  | cons a t ih =>
    obtain ⟨a, y⟩ := a
    simp only [sfrom, Bool.and_eq_true, decide_eq_true_eq, bne_iff_ne] at hm
    simp only [sput]
    split
    · simp only [sfrom, Bool.and_eq_true, decide_eq_true_eq, bne_iff_ne]
      exact ⟨⟨hk, hx⟩, ⟨by omega, hm.1.2⟩, hm.2⟩
    · split
      · subst_vars
        simp only [sfrom, Bool.and_eq_true, decide_eq_true_eq, bne_iff_ne]
        exact ⟨⟨hk, hx⟩, hm.2⟩
      · simp only [sfrom, Bool.and_eq_true, decide_eq_true_eq, bne_iff_ne]
        exact ⟨hm.1, ih _ (by omega) hm.2⟩

/-- A write keeps the canonical form. -/
theorem swf_sset {w : Nat} (m : Sparse w) (k : Nat) (x : BitVec w) (hm : swf m = true) : swf (sset m k x) = true := by
  unfold sset swf at *
  split
  · exact sfrom_filter _ _ _ hm
  · exact sfrom_sput _ _ _ _ ‹_› (by omega) hm

theorem swf_filter {w : Nat} (p : Nat × BitVec w → Bool) (m : Sparse w) (hm : swf m = true) : swf (m.filter p) = true :=
  sfrom_filter p m 0 hm

/-! ## Byte memory (R2) -/

theorem memByte_memSet (m : Memory) (a j : Nat) (b : Byte) : memByte (memSet m a b) j = if j = a then b else memByte m j :=
  sget_sset (w := 8) m a j b

theorem memSet_wf (m : Memory) (a : Nat) (b : Byte) (h : Memory.wf m = true) : Memory.wf (memSet m a b) = true :=
  swf_sset (w := 8) m a b h

theorem memWrite_wf (m : Memory) (a n x : Nat) (h : Memory.wf m = true) : Memory.wf (memWrite m a n x) = true := by
  induction n generalizing m a x with
  | zero => exact h
  | succ n ih => exact ih _ _ _ (memSet_wf _ _ _ h)

/-- A byte outside what is written stays. -/
theorem memByte_memWrite_out (m : Memory) (a n x j : Nat) (h : j < a ∨ a + n ≤ j) : memByte (memWrite m a n x) j = memByte m j := by
  induction n generalizing m a x with
  | zero => rfl
  | succ n ih =>
    rw [memWrite, ih _ _ _ (by omega), memByte_memSet, if_neg (by omega)]

/-- Byte `j` of what is written is byte `j` of the value, the lowest first (R2). -/
theorem memByte_memWrite_in (m : Memory) (a n x j : Nat) (h : j < n) :
    memByte (memWrite m a n x) (a + j) = BitVec.ofNat 8 (x / 256 ^ j) := by
  induction n generalizing m a x j with
  | zero => omega
  | succ n ih =>
    rw [memWrite]
    cases j with
    | zero => rw [memByte_memWrite_out _ _ _ _ _ (by omega), memByte_memSet]; simp
    | succ j =>
      rw [show a + (j + 1) = a + 1 + j by omega, ih _ _ _ _ (by omega), Nat.pow_succ, Nat.mul_comm, Nat.div_div_eq_div_mul]

/-- A value of `n` bytes reads back. -/
theorem memRead_memWrite (m : Memory) (a n x : Nat) : memRead (memWrite m a n x) a n = x % 256 ^ n := by
  induction n generalizing m a x with
  | zero => simp [memRead, Nat.mod_one]
  | succ n ih =>
    have h0 : memByte (memWrite m a (n + 1) x) a = BitVec.ofNat 8 x := by
      simpa using memByte_memWrite_in m a (n + 1) x 0 (by omega)
    rw [memRead, h0, memWrite, ih, BitVec.toNat_ofNat, show 256 ^ (n + 1) = 256 * 256 ^ n by rw [Nat.pow_succ, Nat.mul_comm],
      Nat.mod_mul]

/-! ## Record maps -/

theorem kget_kset {α : Type} [Inhabited α] (m : KMap α) (k j : Nat) (x : α) : kget (kset m k x) j = if j = k then x else kget m j := by
  induction m with
  | nil =>
    by_cases h : j = k
    · simp [kset, kget, h]
    · simp [kset, kget, h, Ne.symm h]
  | cons a t ih =>
    obtain ⟨a, y⟩ := a
    simp only [kset]
    split
    · by_cases hj : j = k
      · simp [kget, hj]
      · simp only [kget, hj, Ne.symm hj, if_false]
        by_cases h : j < k
        · have h1 : ¬ a = j := by omega
          have h2 : j < a := by omega
          simp [h, h1, h2]
        · simp [h]
    · split
      · subst_vars
        by_cases hj : j = a
        · simp [kget, hj]
        · simp [kget, hj, Ne.symm hj]
      · simp only [kget, ih]
        by_cases hj : a = j
        · simp [hj]; omega
        · simp only [hj, if_false]
          by_cases h : j < a
          · have h1 : ¬ j = k := by omega
            simp [h, h1]
          · simp [h]

@[simp] theorem kget_kset_same {α : Type} [Inhabited α] (m : KMap α) (k : Nat) (x : α) : kget (kset m k x) k = x := by
  simp [kget_kset]

theorem kget_kset_ne {α : Type} [Inhabited α] (m : KMap α) {k j : Nat} (x : α) (h : j ≠ k) : kget (kset m k x) j = kget m j := by
  simp [kget_kset, h]

end Sys2Proof.Machine
end

