-- ==== Sys2Proof/Laws/State.lean ====
section
/-! SUPPORT. The fields of the state under each of its updates. -/

namespace Sys2Proof.Machine

variable (s : State)

/-! ## `setCore` -/

@[simp] theorem State.setCore_clock (c : Nat) (x : Core) : (s.setCore c x).clock = s.clock := rfl
@[simp] theorem State.setCore_cur (c : Nat) (x : Core) : (s.setCore c x).cur = s.cur := rfl
@[simp] theorem State.setCore_issuing (c : Nat) (x : Core) : (s.setCore c x).issuing = s.issuing := rfl
@[simp] theorem State.setCore_agenda (c : Nat) (x : Core) : (s.setCore c x).agenda = s.agenda := rfl
@[simp] theorem State.setCore_free (c : Nat) (x : Core) : (s.setCore c x).free = s.free := rfl
@[simp] theorem State.setCore_undefs (c : Nat) (x : Core) : (s.setCore c x).undefs = s.undefs := rfl
@[simp] theorem State.setCore_err (c : Nat) (x : Core) : (s.setCore c x).err = s.err := rfl
@[simp] theorem State.setCore_stuck (c : Nat) (x : Core) : (s.setCore c x).stuck = s.stuck := rfl
@[simp] theorem State.setCore_next (c : Nat) (x : Core) : (s.setCore c x).next = s.next := rfl
@[simp] theorem State.setCore_cores (c : Nat) (x : Core) : (s.setCore c x).cores = kset s.cores c x := rfl
@[simp] theorem State.setCore_clusters (c : Nat) (x : Core) : (s.setCore c x).clusters = s.clusters := rfl
@[simp] theorem State.setCore_gangs (c : Nat) (x : Core) : (s.setCore c x).gangs = s.gangs := rfl
@[simp] theorem State.setCore_blocks (c : Nat) (x : Core) : (s.setCore c x).blocks = s.blocks := rfl
@[simp] theorem State.setCore_launches (c : Nat) (x : Core) : (s.setCore c x).launches = s.launches := rfl
@[simp] theorem State.setCore_hbm (c : Nat) (x : Core) : (s.setCore c x).hbm = s.hbm := rfl
@[simp] theorem State.setCore_host (c : Nat) (x : Core) : (s.setCore c x).host = s.host := rfl
@[simp] theorem State.setCore_lags (c : Nat) (x : Core) : (s.setCore c x).lags = s.lags := rfl
@[simp] theorem State.setCore_lineInfo (c : Nat) (x : Core) : (s.setCore c x).lineInfo = s.lineInfo := rfl
@[simp] theorem State.setCore_grades (c : Nat) (x : Core) : (s.setCore c x).grades = s.grades := rfl
@[simp] theorem State.setCore_pages (c : Nat) (x : Core) : (s.setCore c x).pages = s.pages := rfl
@[simp] theorem State.setCore_keys (c : Nat) (x : Core) : (s.setCore c x).keys = s.keys := rfl
@[simp] theorem State.setCore_tiles (c : Nat) (x : Core) : (s.setCore c x).tiles = s.tiles := rfl
@[simp] theorem State.setCore_reqs (c : Nat) (x : Core) : (s.setCore c x).reqs = s.reqs := rfl
@[simp] theorem State.setCore_copies (c : Nat) (x : Core) : (s.setCore c x).copies = s.copies := rfl
@[simp] theorem State.setCore_bags (c : Nat) (x : Core) : (s.setCore c x).bags = s.bags := rfl
@[simp] theorem State.setCore_bagOps (c : Nat) (x : Core) : (s.setCore c x).bagOps = s.bagOps := rfl
@[simp] theorem State.setCore_cursors (c : Nat) (x : Core) : (s.setCore c x).cursors = s.cursors := rfl
@[simp] theorem State.setCore_hbmQ (c : Nat) (x : Core) : (s.setCore c x).hbmQ = s.hbmQ := rfl
@[simp] theorem State.setCore_posts (c : Nat) (x : Core) : (s.setCore c x).posts = s.posts := rfl
@[simp] theorem State.setCore_linkDown (c : Nat) (x : Core) : (s.setCore c x).linkDown = s.linkDown := rfl
@[simp] theorem State.setCore_queues (c : Nat) (x : Core) : (s.setCore c x).queues = s.queues := rfl
@[simp] theorem State.setCore_hwslots (c : Nat) (x : Core) : (s.setCore c x).hwslots = s.hwslots := rfl
@[simp] theorem State.setCore_parts (c : Nat) (x : Core) : (s.setCore c x).parts = s.parts := rfl
@[simp] theorem State.setCore_turn (c : Nat) (x : Core) : (s.setCore c x).turn = s.turn := rfl
@[simp] theorem State.setCore_spent (c : Nat) (x : Core) : (s.setCore c x).spent = s.spent := rfl
@[simp] theorem State.setCore_flash (c : Nat) (x : Core) : (s.setCore c x).flash = s.flash := rfl
@[simp] theorem State.setCore_image (c : Nat) (x : Core) : (s.setCore c x).image = s.image := rfl
@[simp] theorem State.setCore_soft (c : Nat) (x : Core) : (s.setCore c x).soft = s.soft := rfl
@[simp] theorem State.setCore_sag (c : Nat) (x : Core) : (s.setCore c x).sag = s.sag := rfl
@[simp] theorem State.setCore_mgmt (c : Nat) (x : Core) : (s.setCore c x).mgmt = s.mgmt := rfl
@[simp] theorem State.setCore_mgLow (c : Nat) (x : Core) : (s.setCore c x).mgLow = s.mgLow := rfl

/-! ## `setGang` -/

@[simp] theorem State.setGang_clock (g : Nat) (x : Gang) : (s.setGang g x).clock = s.clock := rfl
@[simp] theorem State.setGang_cur (g : Nat) (x : Gang) : (s.setGang g x).cur = s.cur := rfl
@[simp] theorem State.setGang_issuing (g : Nat) (x : Gang) : (s.setGang g x).issuing = s.issuing := rfl
@[simp] theorem State.setGang_agenda (g : Nat) (x : Gang) : (s.setGang g x).agenda = s.agenda := rfl
@[simp] theorem State.setGang_free (g : Nat) (x : Gang) : (s.setGang g x).free = s.free := rfl
@[simp] theorem State.setGang_undefs (g : Nat) (x : Gang) : (s.setGang g x).undefs = s.undefs := rfl
@[simp] theorem State.setGang_err (g : Nat) (x : Gang) : (s.setGang g x).err = s.err := rfl
@[simp] theorem State.setGang_stuck (g : Nat) (x : Gang) : (s.setGang g x).stuck = s.stuck := rfl
@[simp] theorem State.setGang_next (g : Nat) (x : Gang) : (s.setGang g x).next = s.next := rfl
@[simp] theorem State.setGang_cores (g : Nat) (x : Gang) : (s.setGang g x).cores = s.cores := rfl
@[simp] theorem State.setGang_clusters (g : Nat) (x : Gang) : (s.setGang g x).clusters = s.clusters := rfl
@[simp] theorem State.setGang_gangs (g : Nat) (x : Gang) : (s.setGang g x).gangs = kset s.gangs g x := rfl
@[simp] theorem State.setGang_blocks (g : Nat) (x : Gang) : (s.setGang g x).blocks = s.blocks := rfl
@[simp] theorem State.setGang_launches (g : Nat) (x : Gang) : (s.setGang g x).launches = s.launches := rfl
@[simp] theorem State.setGang_hbm (g : Nat) (x : Gang) : (s.setGang g x).hbm = s.hbm := rfl
@[simp] theorem State.setGang_host (g : Nat) (x : Gang) : (s.setGang g x).host = s.host := rfl
@[simp] theorem State.setGang_lags (g : Nat) (x : Gang) : (s.setGang g x).lags = s.lags := rfl
@[simp] theorem State.setGang_lineInfo (g : Nat) (x : Gang) : (s.setGang g x).lineInfo = s.lineInfo := rfl
@[simp] theorem State.setGang_grades (g : Nat) (x : Gang) : (s.setGang g x).grades = s.grades := rfl
@[simp] theorem State.setGang_pages (g : Nat) (x : Gang) : (s.setGang g x).pages = s.pages := rfl
@[simp] theorem State.setGang_keys (g : Nat) (x : Gang) : (s.setGang g x).keys = s.keys := rfl
@[simp] theorem State.setGang_tiles (g : Nat) (x : Gang) : (s.setGang g x).tiles = s.tiles := rfl
@[simp] theorem State.setGang_reqs (g : Nat) (x : Gang) : (s.setGang g x).reqs = s.reqs := rfl
@[simp] theorem State.setGang_copies (g : Nat) (x : Gang) : (s.setGang g x).copies = s.copies := rfl
@[simp] theorem State.setGang_bags (g : Nat) (x : Gang) : (s.setGang g x).bags = s.bags := rfl
@[simp] theorem State.setGang_bagOps (g : Nat) (x : Gang) : (s.setGang g x).bagOps = s.bagOps := rfl
@[simp] theorem State.setGang_cursors (g : Nat) (x : Gang) : (s.setGang g x).cursors = s.cursors := rfl
@[simp] theorem State.setGang_hbmQ (g : Nat) (x : Gang) : (s.setGang g x).hbmQ = s.hbmQ := rfl
@[simp] theorem State.setGang_posts (g : Nat) (x : Gang) : (s.setGang g x).posts = s.posts := rfl
@[simp] theorem State.setGang_linkDown (g : Nat) (x : Gang) : (s.setGang g x).linkDown = s.linkDown := rfl
@[simp] theorem State.setGang_queues (g : Nat) (x : Gang) : (s.setGang g x).queues = s.queues := rfl
@[simp] theorem State.setGang_hwslots (g : Nat) (x : Gang) : (s.setGang g x).hwslots = s.hwslots := rfl
@[simp] theorem State.setGang_parts (g : Nat) (x : Gang) : (s.setGang g x).parts = s.parts := rfl
@[simp] theorem State.setGang_turn (g : Nat) (x : Gang) : (s.setGang g x).turn = s.turn := rfl
@[simp] theorem State.setGang_spent (g : Nat) (x : Gang) : (s.setGang g x).spent = s.spent := rfl
@[simp] theorem State.setGang_flash (g : Nat) (x : Gang) : (s.setGang g x).flash = s.flash := rfl
@[simp] theorem State.setGang_image (g : Nat) (x : Gang) : (s.setGang g x).image = s.image := rfl
@[simp] theorem State.setGang_soft (g : Nat) (x : Gang) : (s.setGang g x).soft = s.soft := rfl
@[simp] theorem State.setGang_sag (g : Nat) (x : Gang) : (s.setGang g x).sag = s.sag := rfl
@[simp] theorem State.setGang_mgmt (g : Nat) (x : Gang) : (s.setGang g x).mgmt = s.mgmt := rfl
@[simp] theorem State.setGang_mgLow (g : Nat) (x : Gang) : (s.setGang g x).mgLow = s.mgLow := rfl

/-! ## `setBlock` -/

@[simp] theorem State.setBlock_clock (b : Nat) (x : Block) : (s.setBlock b x).clock = s.clock := rfl
@[simp] theorem State.setBlock_cur (b : Nat) (x : Block) : (s.setBlock b x).cur = s.cur := rfl
@[simp] theorem State.setBlock_issuing (b : Nat) (x : Block) : (s.setBlock b x).issuing = s.issuing := rfl
@[simp] theorem State.setBlock_agenda (b : Nat) (x : Block) : (s.setBlock b x).agenda = s.agenda := rfl
@[simp] theorem State.setBlock_free (b : Nat) (x : Block) : (s.setBlock b x).free = s.free := rfl
@[simp] theorem State.setBlock_undefs (b : Nat) (x : Block) : (s.setBlock b x).undefs = s.undefs := rfl
@[simp] theorem State.setBlock_err (b : Nat) (x : Block) : (s.setBlock b x).err = s.err := rfl
@[simp] theorem State.setBlock_stuck (b : Nat) (x : Block) : (s.setBlock b x).stuck = s.stuck := rfl
@[simp] theorem State.setBlock_next (b : Nat) (x : Block) : (s.setBlock b x).next = s.next := rfl
@[simp] theorem State.setBlock_cores (b : Nat) (x : Block) : (s.setBlock b x).cores = s.cores := rfl
@[simp] theorem State.setBlock_clusters (b : Nat) (x : Block) : (s.setBlock b x).clusters = s.clusters := rfl
@[simp] theorem State.setBlock_gangs (b : Nat) (x : Block) : (s.setBlock b x).gangs = s.gangs := rfl
@[simp] theorem State.setBlock_blocks (b : Nat) (x : Block) : (s.setBlock b x).blocks = kset s.blocks b x := rfl
@[simp] theorem State.setBlock_launches (b : Nat) (x : Block) : (s.setBlock b x).launches = s.launches := rfl
@[simp] theorem State.setBlock_hbm (b : Nat) (x : Block) : (s.setBlock b x).hbm = s.hbm := rfl
@[simp] theorem State.setBlock_host (b : Nat) (x : Block) : (s.setBlock b x).host = s.host := rfl
@[simp] theorem State.setBlock_lags (b : Nat) (x : Block) : (s.setBlock b x).lags = s.lags := rfl
@[simp] theorem State.setBlock_lineInfo (b : Nat) (x : Block) : (s.setBlock b x).lineInfo = s.lineInfo := rfl
@[simp] theorem State.setBlock_grades (b : Nat) (x : Block) : (s.setBlock b x).grades = s.grades := rfl
@[simp] theorem State.setBlock_pages (b : Nat) (x : Block) : (s.setBlock b x).pages = s.pages := rfl
@[simp] theorem State.setBlock_keys (b : Nat) (x : Block) : (s.setBlock b x).keys = s.keys := rfl
@[simp] theorem State.setBlock_tiles (b : Nat) (x : Block) : (s.setBlock b x).tiles = s.tiles := rfl
@[simp] theorem State.setBlock_reqs (b : Nat) (x : Block) : (s.setBlock b x).reqs = s.reqs := rfl
@[simp] theorem State.setBlock_copies (b : Nat) (x : Block) : (s.setBlock b x).copies = s.copies := rfl
@[simp] theorem State.setBlock_bags (b : Nat) (x : Block) : (s.setBlock b x).bags = s.bags := rfl
@[simp] theorem State.setBlock_bagOps (b : Nat) (x : Block) : (s.setBlock b x).bagOps = s.bagOps := rfl
@[simp] theorem State.setBlock_cursors (b : Nat) (x : Block) : (s.setBlock b x).cursors = s.cursors := rfl
@[simp] theorem State.setBlock_hbmQ (b : Nat) (x : Block) : (s.setBlock b x).hbmQ = s.hbmQ := rfl
@[simp] theorem State.setBlock_posts (b : Nat) (x : Block) : (s.setBlock b x).posts = s.posts := rfl
@[simp] theorem State.setBlock_linkDown (b : Nat) (x : Block) : (s.setBlock b x).linkDown = s.linkDown := rfl
@[simp] theorem State.setBlock_queues (b : Nat) (x : Block) : (s.setBlock b x).queues = s.queues := rfl
@[simp] theorem State.setBlock_hwslots (b : Nat) (x : Block) : (s.setBlock b x).hwslots = s.hwslots := rfl
@[simp] theorem State.setBlock_parts (b : Nat) (x : Block) : (s.setBlock b x).parts = s.parts := rfl
@[simp] theorem State.setBlock_turn (b : Nat) (x : Block) : (s.setBlock b x).turn = s.turn := rfl
@[simp] theorem State.setBlock_spent (b : Nat) (x : Block) : (s.setBlock b x).spent = s.spent := rfl
@[simp] theorem State.setBlock_flash (b : Nat) (x : Block) : (s.setBlock b x).flash = s.flash := rfl
@[simp] theorem State.setBlock_image (b : Nat) (x : Block) : (s.setBlock b x).image = s.image := rfl
@[simp] theorem State.setBlock_soft (b : Nat) (x : Block) : (s.setBlock b x).soft = s.soft := rfl
@[simp] theorem State.setBlock_sag (b : Nat) (x : Block) : (s.setBlock b x).sag = s.sag := rfl
@[simp] theorem State.setBlock_mgmt (b : Nat) (x : Block) : (s.setBlock b x).mgmt = s.mgmt := rfl
@[simp] theorem State.setBlock_mgLow (b : Nat) (x : Block) : (s.setBlock b x).mgLow = s.mgLow := rfl

/-! ## `setLaunch` -/

@[simp] theorem State.setLaunch_clock (l : Nat) (x : Launch) : (s.setLaunch l x).clock = s.clock := rfl
@[simp] theorem State.setLaunch_cur (l : Nat) (x : Launch) : (s.setLaunch l x).cur = s.cur := rfl
@[simp] theorem State.setLaunch_issuing (l : Nat) (x : Launch) : (s.setLaunch l x).issuing = s.issuing := rfl
@[simp] theorem State.setLaunch_agenda (l : Nat) (x : Launch) : (s.setLaunch l x).agenda = s.agenda := rfl
@[simp] theorem State.setLaunch_free (l : Nat) (x : Launch) : (s.setLaunch l x).free = s.free := rfl
@[simp] theorem State.setLaunch_undefs (l : Nat) (x : Launch) : (s.setLaunch l x).undefs = s.undefs := rfl
@[simp] theorem State.setLaunch_err (l : Nat) (x : Launch) : (s.setLaunch l x).err = s.err := rfl
@[simp] theorem State.setLaunch_stuck (l : Nat) (x : Launch) : (s.setLaunch l x).stuck = s.stuck := rfl
@[simp] theorem State.setLaunch_next (l : Nat) (x : Launch) : (s.setLaunch l x).next = s.next := rfl
@[simp] theorem State.setLaunch_cores (l : Nat) (x : Launch) : (s.setLaunch l x).cores = s.cores := rfl
@[simp] theorem State.setLaunch_clusters (l : Nat) (x : Launch) : (s.setLaunch l x).clusters = s.clusters := rfl
@[simp] theorem State.setLaunch_gangs (l : Nat) (x : Launch) : (s.setLaunch l x).gangs = s.gangs := rfl
@[simp] theorem State.setLaunch_blocks (l : Nat) (x : Launch) : (s.setLaunch l x).blocks = s.blocks := rfl
@[simp] theorem State.setLaunch_launches (l : Nat) (x : Launch) : (s.setLaunch l x).launches = kset s.launches l x := rfl
@[simp] theorem State.setLaunch_hbm (l : Nat) (x : Launch) : (s.setLaunch l x).hbm = s.hbm := rfl
@[simp] theorem State.setLaunch_host (l : Nat) (x : Launch) : (s.setLaunch l x).host = s.host := rfl
@[simp] theorem State.setLaunch_lags (l : Nat) (x : Launch) : (s.setLaunch l x).lags = s.lags := rfl
@[simp] theorem State.setLaunch_lineInfo (l : Nat) (x : Launch) : (s.setLaunch l x).lineInfo = s.lineInfo := rfl
@[simp] theorem State.setLaunch_grades (l : Nat) (x : Launch) : (s.setLaunch l x).grades = s.grades := rfl
@[simp] theorem State.setLaunch_pages (l : Nat) (x : Launch) : (s.setLaunch l x).pages = s.pages := rfl
@[simp] theorem State.setLaunch_keys (l : Nat) (x : Launch) : (s.setLaunch l x).keys = s.keys := rfl
@[simp] theorem State.setLaunch_tiles (l : Nat) (x : Launch) : (s.setLaunch l x).tiles = s.tiles := rfl
@[simp] theorem State.setLaunch_reqs (l : Nat) (x : Launch) : (s.setLaunch l x).reqs = s.reqs := rfl
@[simp] theorem State.setLaunch_copies (l : Nat) (x : Launch) : (s.setLaunch l x).copies = s.copies := rfl
@[simp] theorem State.setLaunch_bags (l : Nat) (x : Launch) : (s.setLaunch l x).bags = s.bags := rfl
@[simp] theorem State.setLaunch_bagOps (l : Nat) (x : Launch) : (s.setLaunch l x).bagOps = s.bagOps := rfl
@[simp] theorem State.setLaunch_cursors (l : Nat) (x : Launch) : (s.setLaunch l x).cursors = s.cursors := rfl
@[simp] theorem State.setLaunch_hbmQ (l : Nat) (x : Launch) : (s.setLaunch l x).hbmQ = s.hbmQ := rfl
@[simp] theorem State.setLaunch_posts (l : Nat) (x : Launch) : (s.setLaunch l x).posts = s.posts := rfl
@[simp] theorem State.setLaunch_linkDown (l : Nat) (x : Launch) : (s.setLaunch l x).linkDown = s.linkDown := rfl
@[simp] theorem State.setLaunch_queues (l : Nat) (x : Launch) : (s.setLaunch l x).queues = s.queues := rfl
@[simp] theorem State.setLaunch_hwslots (l : Nat) (x : Launch) : (s.setLaunch l x).hwslots = s.hwslots := rfl
@[simp] theorem State.setLaunch_parts (l : Nat) (x : Launch) : (s.setLaunch l x).parts = s.parts := rfl
@[simp] theorem State.setLaunch_turn (l : Nat) (x : Launch) : (s.setLaunch l x).turn = s.turn := rfl
@[simp] theorem State.setLaunch_spent (l : Nat) (x : Launch) : (s.setLaunch l x).spent = s.spent := rfl
@[simp] theorem State.setLaunch_flash (l : Nat) (x : Launch) : (s.setLaunch l x).flash = s.flash := rfl
@[simp] theorem State.setLaunch_image (l : Nat) (x : Launch) : (s.setLaunch l x).image = s.image := rfl
@[simp] theorem State.setLaunch_soft (l : Nat) (x : Launch) : (s.setLaunch l x).soft = s.soft := rfl
@[simp] theorem State.setLaunch_sag (l : Nat) (x : Launch) : (s.setLaunch l x).sag = s.sag := rfl
@[simp] theorem State.setLaunch_mgmt (l : Nat) (x : Launch) : (s.setLaunch l x).mgmt = s.mgmt := rfl
@[simp] theorem State.setLaunch_mgLow (l : Nat) (x : Launch) : (s.setLaunch l x).mgLow = s.mgLow := rfl

/-! ## `setTile` -/

@[simp] theorem State.setTile_clock (k : Nat) (x : Tile) : (s.setTile k x).clock = s.clock := rfl
@[simp] theorem State.setTile_cur (k : Nat) (x : Tile) : (s.setTile k x).cur = s.cur := rfl
@[simp] theorem State.setTile_issuing (k : Nat) (x : Tile) : (s.setTile k x).issuing = s.issuing := rfl
@[simp] theorem State.setTile_agenda (k : Nat) (x : Tile) : (s.setTile k x).agenda = s.agenda := rfl
@[simp] theorem State.setTile_free (k : Nat) (x : Tile) : (s.setTile k x).free = s.free := rfl
@[simp] theorem State.setTile_undefs (k : Nat) (x : Tile) : (s.setTile k x).undefs = s.undefs := rfl
@[simp] theorem State.setTile_err (k : Nat) (x : Tile) : (s.setTile k x).err = s.err := rfl
@[simp] theorem State.setTile_stuck (k : Nat) (x : Tile) : (s.setTile k x).stuck = s.stuck := rfl
@[simp] theorem State.setTile_next (k : Nat) (x : Tile) : (s.setTile k x).next = s.next := rfl
@[simp] theorem State.setTile_cores (k : Nat) (x : Tile) : (s.setTile k x).cores = s.cores := rfl
@[simp] theorem State.setTile_clusters (k : Nat) (x : Tile) : (s.setTile k x).clusters = s.clusters := rfl
@[simp] theorem State.setTile_gangs (k : Nat) (x : Tile) : (s.setTile k x).gangs = s.gangs := rfl
@[simp] theorem State.setTile_blocks (k : Nat) (x : Tile) : (s.setTile k x).blocks = s.blocks := rfl
@[simp] theorem State.setTile_launches (k : Nat) (x : Tile) : (s.setTile k x).launches = s.launches := rfl
@[simp] theorem State.setTile_hbm (k : Nat) (x : Tile) : (s.setTile k x).hbm = s.hbm := rfl
@[simp] theorem State.setTile_host (k : Nat) (x : Tile) : (s.setTile k x).host = s.host := rfl
@[simp] theorem State.setTile_lags (k : Nat) (x : Tile) : (s.setTile k x).lags = s.lags := rfl
@[simp] theorem State.setTile_lineInfo (k : Nat) (x : Tile) : (s.setTile k x).lineInfo = s.lineInfo := rfl
@[simp] theorem State.setTile_grades (k : Nat) (x : Tile) : (s.setTile k x).grades = s.grades := rfl
@[simp] theorem State.setTile_pages (k : Nat) (x : Tile) : (s.setTile k x).pages = s.pages := rfl
@[simp] theorem State.setTile_keys (k : Nat) (x : Tile) : (s.setTile k x).keys = s.keys := rfl
@[simp] theorem State.setTile_tiles (k : Nat) (x : Tile) : (s.setTile k x).tiles = kset s.tiles k x := rfl
@[simp] theorem State.setTile_reqs (k : Nat) (x : Tile) : (s.setTile k x).reqs = s.reqs := rfl
@[simp] theorem State.setTile_copies (k : Nat) (x : Tile) : (s.setTile k x).copies = s.copies := rfl
@[simp] theorem State.setTile_bags (k : Nat) (x : Tile) : (s.setTile k x).bags = s.bags := rfl
@[simp] theorem State.setTile_bagOps (k : Nat) (x : Tile) : (s.setTile k x).bagOps = s.bagOps := rfl
@[simp] theorem State.setTile_cursors (k : Nat) (x : Tile) : (s.setTile k x).cursors = s.cursors := rfl
@[simp] theorem State.setTile_hbmQ (k : Nat) (x : Tile) : (s.setTile k x).hbmQ = s.hbmQ := rfl
@[simp] theorem State.setTile_posts (k : Nat) (x : Tile) : (s.setTile k x).posts = s.posts := rfl
@[simp] theorem State.setTile_linkDown (k : Nat) (x : Tile) : (s.setTile k x).linkDown = s.linkDown := rfl
@[simp] theorem State.setTile_queues (k : Nat) (x : Tile) : (s.setTile k x).queues = s.queues := rfl
@[simp] theorem State.setTile_hwslots (k : Nat) (x : Tile) : (s.setTile k x).hwslots = s.hwslots := rfl
@[simp] theorem State.setTile_parts (k : Nat) (x : Tile) : (s.setTile k x).parts = s.parts := rfl
@[simp] theorem State.setTile_turn (k : Nat) (x : Tile) : (s.setTile k x).turn = s.turn := rfl
@[simp] theorem State.setTile_spent (k : Nat) (x : Tile) : (s.setTile k x).spent = s.spent := rfl
@[simp] theorem State.setTile_flash (k : Nat) (x : Tile) : (s.setTile k x).flash = s.flash := rfl
@[simp] theorem State.setTile_image (k : Nat) (x : Tile) : (s.setTile k x).image = s.image := rfl
@[simp] theorem State.setTile_soft (k : Nat) (x : Tile) : (s.setTile k x).soft = s.soft := rfl
@[simp] theorem State.setTile_sag (k : Nat) (x : Tile) : (s.setTile k x).sag = s.sag := rfl
@[simp] theorem State.setTile_mgmt (k : Nat) (x : Tile) : (s.setTile k x).mgmt = s.mgmt := rfl
@[simp] theorem State.setTile_mgLow (k : Nat) (x : Tile) : (s.setTile k x).mgLow = s.mgLow := rfl

/-! ## `setMg` -/

@[simp] theorem State.setMg_clock (off : Nat) (x : Word) : (s.setMg off x).clock = s.clock := rfl
@[simp] theorem State.setMg_cur (off : Nat) (x : Word) : (s.setMg off x).cur = s.cur := rfl
@[simp] theorem State.setMg_issuing (off : Nat) (x : Word) : (s.setMg off x).issuing = s.issuing := rfl
@[simp] theorem State.setMg_agenda (off : Nat) (x : Word) : (s.setMg off x).agenda = s.agenda := rfl
@[simp] theorem State.setMg_free (off : Nat) (x : Word) : (s.setMg off x).free = s.free := rfl
@[simp] theorem State.setMg_undefs (off : Nat) (x : Word) : (s.setMg off x).undefs = s.undefs := rfl
@[simp] theorem State.setMg_err (off : Nat) (x : Word) : (s.setMg off x).err = s.err := rfl
@[simp] theorem State.setMg_stuck (off : Nat) (x : Word) : (s.setMg off x).stuck = s.stuck := rfl
@[simp] theorem State.setMg_next (off : Nat) (x : Word) : (s.setMg off x).next = s.next := rfl
@[simp] theorem State.setMg_cores (off : Nat) (x : Word) : (s.setMg off x).cores = s.cores := rfl
@[simp] theorem State.setMg_clusters (off : Nat) (x : Word) : (s.setMg off x).clusters = s.clusters := rfl
@[simp] theorem State.setMg_gangs (off : Nat) (x : Word) : (s.setMg off x).gangs = s.gangs := rfl
@[simp] theorem State.setMg_blocks (off : Nat) (x : Word) : (s.setMg off x).blocks = s.blocks := rfl
@[simp] theorem State.setMg_launches (off : Nat) (x : Word) : (s.setMg off x).launches = s.launches := rfl
@[simp] theorem State.setMg_hbm (off : Nat) (x : Word) : (s.setMg off x).hbm = s.hbm := rfl
@[simp] theorem State.setMg_host (off : Nat) (x : Word) : (s.setMg off x).host = s.host := rfl
@[simp] theorem State.setMg_lags (off : Nat) (x : Word) : (s.setMg off x).lags = s.lags := rfl
@[simp] theorem State.setMg_lineInfo (off : Nat) (x : Word) : (s.setMg off x).lineInfo = s.lineInfo := rfl
@[simp] theorem State.setMg_grades (off : Nat) (x : Word) : (s.setMg off x).grades = s.grades := rfl
@[simp] theorem State.setMg_pages (off : Nat) (x : Word) : (s.setMg off x).pages = s.pages := rfl
@[simp] theorem State.setMg_keys (off : Nat) (x : Word) : (s.setMg off x).keys = s.keys := rfl
@[simp] theorem State.setMg_tiles (off : Nat) (x : Word) : (s.setMg off x).tiles = s.tiles := rfl
@[simp] theorem State.setMg_reqs (off : Nat) (x : Word) : (s.setMg off x).reqs = s.reqs := rfl
@[simp] theorem State.setMg_copies (off : Nat) (x : Word) : (s.setMg off x).copies = s.copies := rfl
@[simp] theorem State.setMg_bags (off : Nat) (x : Word) : (s.setMg off x).bags = s.bags := rfl
@[simp] theorem State.setMg_bagOps (off : Nat) (x : Word) : (s.setMg off x).bagOps = s.bagOps := rfl
@[simp] theorem State.setMg_cursors (off : Nat) (x : Word) : (s.setMg off x).cursors = s.cursors := rfl
@[simp] theorem State.setMg_hbmQ (off : Nat) (x : Word) : (s.setMg off x).hbmQ = s.hbmQ := rfl
@[simp] theorem State.setMg_posts (off : Nat) (x : Word) : (s.setMg off x).posts = s.posts := rfl
@[simp] theorem State.setMg_linkDown (off : Nat) (x : Word) : (s.setMg off x).linkDown = s.linkDown := rfl
@[simp] theorem State.setMg_queues (off : Nat) (x : Word) : (s.setMg off x).queues = s.queues := rfl
@[simp] theorem State.setMg_hwslots (off : Nat) (x : Word) : (s.setMg off x).hwslots = s.hwslots := rfl
@[simp] theorem State.setMg_parts (off : Nat) (x : Word) : (s.setMg off x).parts = s.parts := rfl
@[simp] theorem State.setMg_turn (off : Nat) (x : Word) : (s.setMg off x).turn = s.turn := rfl
@[simp] theorem State.setMg_spent (off : Nat) (x : Word) : (s.setMg off x).spent = s.spent := rfl
@[simp] theorem State.setMg_flash (off : Nat) (x : Word) : (s.setMg off x).flash = s.flash := rfl
@[simp] theorem State.setMg_image (off : Nat) (x : Word) : (s.setMg off x).image = s.image := rfl
@[simp] theorem State.setMg_soft (off : Nat) (x : Word) : (s.setMg off x).soft = s.soft := rfl
@[simp] theorem State.setMg_sag (off : Nat) (x : Word) : (s.setMg off x).sag = s.sag := rfl
@[simp] theorem State.setMg_mgmt (off : Nat) (x : Word) : (s.setMg off x).mgmt = sset s.mgmt off x := rfl
@[simp] theorem State.setMg_mgLow (off : Nat) (x : Word) : (s.setMg off x).mgLow = s.mgLow := rfl

/-! ## Reading back -/

@[simp] theorem State.setCore_core (k j : Nat) (x : Core) : (s.setCore k x).core j = if j = k then x else s.core j :=
  kget_kset _ _ _ _
@[simp] theorem State.setGang_core (k j : Nat) (x : Gang) : (s.setGang k x).core j = s.core j := rfl
@[simp] theorem State.setBlock_core (k j : Nat) (x : Block) : (s.setBlock k x).core j = s.core j := rfl
@[simp] theorem State.setLaunch_core (k j : Nat) (x : Launch) : (s.setLaunch k x).core j = s.core j := rfl
@[simp] theorem State.setTile_core (k j : Nat) (x : Tile) : (s.setTile k x).core j = s.core j := rfl
@[simp] theorem State.setMg_core (k j : Nat) (x : Word) : (s.setMg k x).core j = s.core j := rfl
@[simp] theorem State.setGang_gang (k j : Nat) (x : Gang) : (s.setGang k x).gang j = if j = k then x else s.gang j :=
  kget_kset _ _ _ _
@[simp] theorem State.setCore_gang (k j : Nat) (x : Core) : (s.setCore k x).gang j = s.gang j := rfl
@[simp] theorem State.setBlock_gang (k j : Nat) (x : Block) : (s.setBlock k x).gang j = s.gang j := rfl
@[simp] theorem State.setLaunch_gang (k j : Nat) (x : Launch) : (s.setLaunch k x).gang j = s.gang j := rfl
@[simp] theorem State.setTile_gang (k j : Nat) (x : Tile) : (s.setTile k x).gang j = s.gang j := rfl
@[simp] theorem State.setMg_gang (k j : Nat) (x : Word) : (s.setMg k x).gang j = s.gang j := rfl
@[simp] theorem State.setBlock_block (k j : Nat) (x : Block) : (s.setBlock k x).block j = if j = k then x else s.block j :=
  kget_kset _ _ _ _
@[simp] theorem State.setCore_block (k j : Nat) (x : Core) : (s.setCore k x).block j = s.block j := rfl
@[simp] theorem State.setGang_block (k j : Nat) (x : Gang) : (s.setGang k x).block j = s.block j := rfl
@[simp] theorem State.setLaunch_block (k j : Nat) (x : Launch) : (s.setLaunch k x).block j = s.block j := rfl
@[simp] theorem State.setTile_block (k j : Nat) (x : Tile) : (s.setTile k x).block j = s.block j := rfl
@[simp] theorem State.setMg_block (k j : Nat) (x : Word) : (s.setMg k x).block j = s.block j := rfl
@[simp] theorem State.setLaunch_launch (k j : Nat) (x : Launch) : (s.setLaunch k x).launch j = if j = k then x else s.launch j :=
  kget_kset _ _ _ _
@[simp] theorem State.setCore_launch (k j : Nat) (x : Core) : (s.setCore k x).launch j = s.launch j := rfl
@[simp] theorem State.setGang_launch (k j : Nat) (x : Gang) : (s.setGang k x).launch j = s.launch j := rfl
@[simp] theorem State.setBlock_launch (k j : Nat) (x : Block) : (s.setBlock k x).launch j = s.launch j := rfl
@[simp] theorem State.setTile_launch (k j : Nat) (x : Tile) : (s.setTile k x).launch j = s.launch j := rfl
@[simp] theorem State.setMg_launch (k j : Nat) (x : Word) : (s.setMg k x).launch j = s.launch j := rfl
@[simp] theorem State.setTile_tile (k j : Nat) (x : Tile) : (s.setTile k x).tile j = if j = k then x else s.tile j :=
  kget_kset _ _ _ _
@[simp] theorem State.setCore_tile (k j : Nat) (x : Core) : (s.setCore k x).tile j = s.tile j := rfl
@[simp] theorem State.setGang_tile (k j : Nat) (x : Gang) : (s.setGang k x).tile j = s.tile j := rfl
@[simp] theorem State.setBlock_tile (k j : Nat) (x : Block) : (s.setBlock k x).tile j = s.tile j := rfl
@[simp] theorem State.setLaunch_tile (k j : Nat) (x : Launch) : (s.setLaunch k x).tile j = s.tile j := rfl
@[simp] theorem State.setMg_tile (k j : Nat) (x : Word) : (s.setMg k x).tile j = s.tile j := rfl
@[simp] theorem State.setMg_mg (k j : Nat) (x : Word) : (s.setMg k x).mg j = if j = k then x else s.mg j :=
  sget_sset _ _ _ _
@[simp] theorem State.setCore_mg (c : Nat) (x : Core) (j : Nat) : (s.setCore c x).mg j = s.mg j := rfl
@[simp] theorem State.setGang_mg (g : Nat) (x : Gang) (j : Nat) : (s.setGang g x).mg j = s.mg j := rfl
@[simp] theorem State.setBlock_mg (b : Nat) (x : Block) (j : Nat) : (s.setBlock b x).mg j = s.mg j := rfl
@[simp] theorem State.setLaunch_mg (l : Nat) (x : Launch) (j : Nat) : (s.setLaunch l x).mg j = s.mg j := rfl
@[simp] theorem State.setTile_mg (k : Nat) (x : Tile) (j : Nat) : (s.setTile k x).mg j = s.mg j := rfl

end Sys2Proof.Machine
end

