-- ==== Sys2Proof/Laws/Lanes.lean ====
section
/-! SUPPORT. Sets of lanes, and what an update of a set's threads leaves of a gang. -/

namespace Sys2Proof.Machine

/-! ## Sets of lanes -/

theorem mem_lanesOf (m : Lanes) (l : Nat) : l ∈ lanesOf m ↔ l < 32 ∧ m.getLsbD l = true := by
  simp [lanesOf]

theorem nodup_lanesOf (m : Lanes) : (lanesOf m).Nodup := List.nodup_range.sublist List.filter_sublist

theorem getLsbD_laneBit (i j : Nat) : (laneBit i).getLsbD j = (decide (i < 32) && decide (j = i)) := by
  unfold laneBit
  split
  · rename_i h
    by_cases hj : j = i
    · subst hj; simp [h]
    · by_cases h2 : j < 32
      · simp only [BitVec.getLsbD_shiftLeft, h2, decide_true, Bool.true_and, h, hj, decide_false, Bool.and_false]
        by_cases h3 : j < i
        · simp [h3]
        · have : j - i ≠ 0 := by omega
          simp [h3, this, BitVec.getLsbD_one]
      · simp [BitVec.getLsbD_of_ge _ _ (by omega : 32 ≤ j), h]; omega
  · rename_i h; simp [h]

theorem getLsbD_lanesFold (l : List Nat) (m : Lanes) (j : Nat) :
    (l.foldl (fun m i => m ||| laneBit i) m).getLsbD j = (m.getLsbD j || decide (j ∈ l ∧ j < 32)) := by
  induction l generalizing m with
  | nil => simp
  | cons a t ih =>
    simp only [List.foldl_cons, ih, BitVec.getLsbD_or, getLsbD_laneBit, List.mem_cons]
    by_cases h : j = a
    · subst h
      by_cases h2 : j < 32 <;> simp [h2]
    · simp [h]

theorem getLsbD_lanesFrom (l : List Nat) (j : Nat) : (lanesFrom l).getLsbD j = decide (j ∈ l ∧ j < 32) := by
  simp [lanesFrom, getLsbD_lanesFold]

theorem lanesFrom_lanesOf (m : Lanes) : lanesFrom (lanesOf m) = m := by
  apply BitVec.eq_of_getLsbD_eq
  intro i hi
  rw [getLsbD_lanesFrom]
  simp [mem_lanesOf, hi]

/-- A set that is not empty has a lowest lane, which is one of it. -/
theorem lowLane_mem (m : Lanes) (h : m ≠ 0) : lowLane m ∈ lanesOf m := by
  unfold lowLane
  cases hl : lanesOf m with
  | nil =>
    exfalso; apply h
    rw [← lanesFrom_lanesOf m, hl]; rfl
  | cons a t => simp

theorem lanesOf_ne_nil (m : Lanes) (h : m ≠ 0) : lanesOf m ≠ [] := by
  intro hn
  have := lowLane_mem m h
  simp [hn] at this

/-! ## Threads of a gang -/

theorem Gang.thread_setThread (g : Gang) (l j : Nat) (t : Thread) : (g.setThread l t).thread j = if j = l then t else g.thread j :=
  kget_kset _ _ _ _

theorem Gang.thread_modThread (g : Gang) (l j : Nat) (f : Thread → Thread) :
    (g.modThread l f).thread j = if j = l then f (g.thread l) else g.thread j :=
  Gang.thread_setThread _ _ _ _

theorem Gang.thread_foldMod (L : List Nat) (hn : L.Nodup) (g : Gang) (f : Nat → Thread → Thread) (j : Nat) :
    (L.foldl (fun g l => g.modThread l (f l)) g).thread j = if j ∈ L then f j (g.thread j) else g.thread j := by
  induction L generalizing g with
  | nil => simp
  | cons a t ih =>
    simp only [List.nodup_cons] at hn
    simp only [List.foldl_cons, ih hn.2, Gang.thread_modThread, List.mem_cons]
    by_cases h : j = a
    · subst h; simp [hn.1]
    · simp [h]

/-- An update of a set's threads changes those threads. -/
theorem Gang.thread_modLanes (g : Gang) (m : Lanes) (f : Thread → Thread) (j : Nat) :
    (g.modLanes m f).thread j = if j < 32 ∧ m.getLsbD j = true then f (g.thread j) else g.thread j := by
  have := Gang.thread_foldMod (lanesOf m) (nodup_lanesOf m) g (fun _ => f) j
  simpa [Gang.modLanes, mem_lanesOf] using this

theorem Gang.foldMod_eq (L : List Nat) (g : Gang) (f : Nat → Thread → Thread) :
    L.foldl (fun g l => g.modThread l (f l)) g =
      { g with threads := (L.foldl (fun g l => g.modThread l (f l)) g).threads } := by
  induction L generalizing g with
  | nil => rfl
  | cons a t ih => rw [List.foldl_cons, ih]; rfl

/-- An update of threads changes nothing else of the gang. -/
theorem Gang.modLanes_eq (g : Gang) (m : Lanes) (f : Thread → Thread) : g.modLanes m f = { g with threads := (g.modLanes m f).threads } :=
  Gang.foldMod_eq _ _ (fun _ => f)

theorem Gang.getLsbD_lanesWith (g : Gang) (p : Thread → Bool) (j : Nat) :
    (g.lanesWith p).getLsbD j = (decide (j < 32) && p (g.thread j)) := by
  simp only [Gang.lanesWith, getLsbD_lanesFrom, List.mem_filter, List.mem_range]
  by_cases h : j < 32 <;> simp [h]

/-! ## One gang of the state -/

@[simp] theorem State.modGang_gang (s : State) (k j : Nat) (f : Gang → Gang) : (s.modGang k f).gang j = if j = k then f (s.gang k) else s.gang j := by
  simp [State.modGang]

@[simp] theorem State.modCore_core (s : State) (k j : Nat) (f : Core → Core) : (s.modCore k f).core j = if j = k then f (s.core k) else s.core j := by
  simp [State.modCore]

@[simp] theorem State.modBlock_block (s : State) (k j : Nat) (f : Block → Block) :
    (s.modBlock k f).block j = if j = k then f (s.block k) else s.block j := by
  simp [State.modBlock]

@[simp] theorem State.modGang_cur (s : State) (k : Nat) (f : Gang → Gang) : (s.modGang k f).cur = s.cur := rfl

/-- A change of one gang leaves everything else. -/
theorem State.modGang_eq (s : State) (k : Nat) (f : Gang → Gang) : s.modGang k f = { s with gangs := kset s.gangs k (f (s.gang k)) } := rfl

end Sys2Proof.Machine
end

