-- ==== Sys2Proof/Laws/Regs.lean ====
section
/-! SUPPORT. What a write of registers changes (R54, R125), and what a bundle's result does to its gang. -/

namespace Sys2Proof.Machine

/-! ## One register -/

/-- The register number that place `k` of an operand field names, as `Regs.codeVal` counts; none for `vz` and for slabs. -/
def opCode (o : Opnd) (k : Nat) : Option Nat :=
  match o with
  | .v i => if i = 255 then none else some (i.toNat + k)
  | .s i => some (256 + i.toNat + k)
  | .p i => some (512 + i.toNat)
  | .q _ => none

/-- Place `k` of the field is a register of its own class. -/
def opIn (o : Opnd) (k : Nat) : Bool :=
  match o with
  | .v i | .s i => decide (i.toNat + k < 256)
  | _ => true

/-- The lane of a write does not matter to a uniform register. -/
def laneMeets (o : Opnd) (lane l : Nat) : Bool :=
  match o with
  | .s _ => true
  | _ => lane == l

/-- A value as a register of the field's class holds it: a predicate keeps its bit 0. -/
def asReg (o : Opnd) (x : Word) : Word := match o with | .p _ => if x.getLsbD 0 then 1 else 0 | _ => x

theorem codeVal_writeReg (r : Regs) (lane k : Nat) (o : Opnd) (x : Word) (c l : Nat) (hl : l < 32) (hla : lane < 32) (hi : opIn o k = true) :
    (r.writeReg lane k o x).codeVal c l =
      if opCode o k = some c ∧ laneMeets o lane l = true then asReg o x
      else r.codeVal c l := by
  cases o with
  | v i =>
    simp only [opIn, decide_eq_true_eq] at hi
    simp only [Regs.writeReg, opCode, laneMeets, asReg, Regs.codeVal, beq_iff_eq]
    by_cases h5 : i = 255
    · simp [h5]
    · simp only [h5, if_false, Option.some.injEq]
      by_cases hc : c < 256
      · simp only [hc, if_true, sget_sset]
        by_cases h : i.toNat + k = c ∧ lane = l
        · obtain ⟨rfl, rfl⟩ := h; simp
        · rw [if_neg h, if_neg (by omega)]
      · have : ¬ (i.toNat + k = c ∧ lane = l) := by omega
        simp [hc, this]
  | s i =>
    simp only [opIn, decide_eq_true_eq] at hi
    simp only [Regs.writeReg, opCode, laneMeets, asReg, Regs.codeVal, and_true, Option.some.injEq]
    by_cases hc : c < 256
    · simp [hc]; omega
    · by_cases hc2 : c < 512
      · simp only [hc, hc2, if_false, if_true, sget_sset]
        by_cases h : 256 + i.toNat + k = c
        · subst h; simp; intro h; omega
        · rw [if_neg h, if_neg (by omega)]
      · rw [if_neg (by omega : ¬ (256 + i.toNat + k = c)), if_neg hc, if_neg hc2, if_neg hc, if_neg hc2]; rfl
  | p i =>
    simp only [Regs.writeReg, opCode, laneMeets, asReg, Regs.codeVal, Option.some.injEq, beq_iff_eq]
    by_cases hc : c < 256
    · have : ¬ (512 + i.toNat = c ∧ lane = l) := by omega
      simp [hc, this]
    · by_cases hc2 : c < 512
      · have : ¬ (512 + i.toNat = c ∧ lane = l) := by omega
        simp [hc, hc2, this]
      · simp only [hc, hc2, if_false, sget_sset]
        by_cases h : 512 + i.toNat = c
        · subst h
          rw [Nat.add_sub_cancel_left, if_pos rfl]
          cases hx : x.getLsbD 0
          rotate_left
          · by_cases hll : lane = l
            · subst hll; simp [-BitVec.getLsbD_eq_getElem, BitVec.getLsbD_or, getLsbD_laneBit, hla]
            · simp [-BitVec.getLsbD_eq_getElem, BitVec.getLsbD_or, getLsbD_laneBit, hll, Ne.symm hll]
          · by_cases hll : lane = l
            · subst hll; simp [-BitVec.getLsbD_eq_getElem, BitVec.getLsbD_and, BitVec.getLsbD_not, getLsbD_laneBit, hla]
            · simp [-BitVec.getLsbD_eq_getElem, BitVec.getLsbD_and, BitVec.getLsbD_not, getLsbD_laneBit, hll, Ne.symm hll, hl]
        · have : ¬ (c - 512 = i.toNat) := by omega
          simp [h, this]
  | q i => simp [Regs.writeReg, opCode]

/-! ## A group of registers in one lane -/

theorem codeVal_groupFold_out (ks : List Nat) (r : Regs) (lane : Nat) (o : Opnd) (x : Nat → Word) (c l : Nat) (hl : l < 32) (hla : lane < 32)
    (hi : ∀ k ∈ ks, opIn o k = true) (hc : (∀ k ∈ ks, opCode o k ≠ some c) ∨ laneMeets o lane l = false) :
    (ks.foldl (fun r k => r.writeReg lane k o (x k)) r).codeVal c l = r.codeVal c l := by
  induction ks generalizing r with
  | nil => rfl
  | cons a t ih =>
    rw [List.foldl_cons, ih _ (fun k hk => hi k (List.mem_cons_of_mem _ hk))
      (hc.imp (fun h k hk => h k (List.mem_cons_of_mem _ hk)) id),
      codeVal_writeReg _ _ _ _ _ _ _ hl hla (hi a (List.mem_cons_self ..)), if_neg]
    rintro ⟨h1, h2⟩
    cases hc with
    | inl h => exact h a (List.mem_cons_self ..) h1
    | inr h => simp [h] at h2

/-- A register that a group does not name, or another lane's, stays. -/
theorem codeVal_writeGroup_out (r : Regs) (lane n : Nat) (o : Opnd) (x : BitVec 128) (c l : Nat) (hl : l < 32) (hla : lane < 32)
    (hi : ∀ k < n, opIn o k = true) (hc : (∀ k < n, opCode o k ≠ some c) ∨ laneMeets o lane l = false) :
    (r.writeGroup lane n o x).codeVal c l = r.codeVal c l :=
  codeVal_groupFold_out _ r lane o (fun k => (x >>> (32 * k)).setWidth 32) c l hl hla (fun k hk => hi k (List.mem_range.1 hk))
    (hc.imp (fun h k hk => h k (List.mem_range.1 hk)) id)

/-- A result of one register. -/
theorem codeVal_writeGroup_one (r : Regs) (lane : Nat) (o : Opnd) (x : BitVec 128) (c l : Nat) (hl : l < 32) (hla : lane < 32)
    (hi : opIn o 0 = true) (hc : opCode o 0 = some c) (hm : laneMeets o lane l = true) :
    (r.writeGroup lane 1 o x).codeVal c l = asReg o (x.setWidth 32) := by
  have h : r.writeGroup lane 1 o x = r.writeReg lane 0 o ((x >>> (32 * 0)).setWidth 32) := rfl
  rw [h, codeVal_writeReg _ _ _ _ _ _ _ hl hla hi, if_pos ⟨hc, hm⟩]
  cases o <;> simp

/-! ## A bundle's results -/

theorem codeVal_resultFold_out (vals : List (Nat × BitVec 128)) (r : Regs) (n : Nat) (o : Opnd) (c l : Nat) (hl : l < 32)
    (hv : ∀ v ∈ vals, v.1 < 32) (hi : ∀ k < n, opIn o k = true)
    (hc : (∀ k < n, opCode o k ≠ some c) ∨ (∀ v ∈ vals, laneMeets o v.1 l = false)) :
    (vals.foldl (fun r (v : Nat × BitVec 128) => r.writeGroup v.1 n o v.2) r).codeVal c l = r.codeVal c l := by
  induction vals generalizing r with
  | nil => rfl
  | cons a t ih =>
    rw [List.foldl_cons, ih _ (fun v h => hv v (List.mem_cons_of_mem _ h)) (hc.imp id (fun h v hm => h v (List.mem_cons_of_mem _ hm))),
      codeVal_writeGroup_out _ _ _ _ _ _ _ hl (hv a (List.mem_cons_self ..)) hi (hc.imp id (fun h => h a (List.mem_cons_self ..)))]

/-- The result of one register that a lane receives: results of different lanes do not disturb one another. -/
theorem codeVal_resultFold_one (vals : List (Nat × BitVec 128)) (r : Regs) (o : Opnd) (c l : Nat) (x : BitVec 128) (hl : l < 32)
    (hv : ∀ v ∈ vals, v.1 < 32) (hi : opIn o 0 = true) (hc : opCode o 0 = some c) (hn : (vals.map Prod.fst).Nodup)
    (hm : (l, x) ∈ vals) (hs : ∀ i, o = .s i → vals = [(l, x)]) :
    (vals.foldl (fun r (v : Nat × BitVec 128) => r.writeGroup v.1 1 o v.2) r).codeVal c l =
      asReg o (x.setWidth 32) := by
  induction vals generalizing r with
  | nil => simp at hm
  | cons a t ih =>
    simp only [List.map_cons, List.nodup_cons] at hn
    rw [List.foldl_cons]
    by_cases ha : a = (l, x)
    · subst ha
      rw [codeVal_resultFold_out _ _ _ _ _ _ hl (fun v h => hv v (List.mem_cons_of_mem _ h)) (by intro k hk; have : k = 0 := by omega
                                                                                                 subst this; exact hi)]
      · exact codeVal_writeGroup_one _ _ _ _ _ _ hl hl hi hc (by cases o <;> simp [laneMeets])
      · right
        intro v hvm
        cases o with
        | s i => have := hs i rfl; simp at this; subst this; simp at hvm
        | _ =>
          simp only [laneMeets, beq_eq_false_iff_ne]
          intro hvl
          exact hn.1 (List.mem_map.2 ⟨v, hvm, hvl⟩)
    · have hmt : (l, x) ∈ t := by
        cases hm with
        | head => exact absurd rfl ha
        | tail _ h => exact h
      refine ih _ (fun v h => hv v (List.mem_cons_of_mem _ h)) hn.2 hmt ?_
      intro i hoi
      have := hs i hoi
      simp only [List.cons.injEq] at this
      exact absurd this.1 ha

end Sys2Proof.Machine
end

