-- ==== Sys2Proof/Laws/Results.lean ====
section
/-! SUPPORT. The results of a bundle: what `State.writeBack` leaves in every register, taint and outstanding write. -/

namespace Sys2Proof.Machine

/-- A destination that a form may name: a v register in a vector form, an s register in a uniform one, a predicate, or `vz` (R59, R60). -/
def destOk (o : Opnd) (uni : Bool) (n : Nat) : Bool :=
  match o with
  | .v x => x == 255 || (!uni && decide (x.toNat + n ≤ 255))
  | .s x => uni && decide (x.toNat + n ≤ 64)
  | .p x => decide (x.toNat < 7) && n == 1
  | .q _ => false

theorem codeVal_writeGroup (r : Regs) (lane n : Nat) (o : Opnd) (x : BitVec 128) (c l : Nat) (hl : l < 32) (hla : lane < 32)
    (hi : ∀ k < n, opIn o k = true) (hp : ∀ i, o ≠ .p i) :
    (r.writeGroup lane n o x).codeVal c l =
      if ∃ k, k < n ∧ opCode o k = some c ∧ laneMeets o lane l = true then
        (x >>> (32 * (c - (opCode o 0).getD 0))).setWidth 32
      else r.codeVal c l := by
  induction n with
  | zero => simp [Regs.writeGroup]
  | succ n ih =>
    have e : r.writeGroup lane (n + 1) o x = (r.writeGroup lane n o x).writeReg lane n o ((x >>> (32 * n)).setWidth 32) := by
      simp [Regs.writeGroup, List.range_succ]
    rw [e, codeVal_writeReg _ _ _ _ _ _ _ hl hla (hi n (by omega)), ih (fun k hk => hi k (by omega))]
    by_cases h : opCode o n = some c ∧ laneMeets o lane l = true
    · rw [if_pos h, if_pos ⟨n, by omega, h⟩]
      cases o with
      | p i => exact absurd rfl (hp i)
      | v i =>
        simp only [opCode] at h ⊢
        by_cases h5 : i = 255
        · simp [h5] at h
        · simp only [h5, if_false, Option.some.injEq] at h ⊢
          simp [asReg, ← h.1]
      | s i =>
        simp only [opCode, Option.some.injEq] at h ⊢
        have : c - (256 + i.toNat) = n := by omega
        simp [asReg, this]
      | q i => simp [opCode] at h
    · rw [if_neg h]
      by_cases h2 : ∃ k, k < n ∧ opCode o k = some c ∧ laneMeets o lane l = true
      · rw [if_pos h2, if_pos]
        obtain ⟨k, hk, hh⟩ := h2
        exact ⟨k, by omega, hh⟩
      · rw [if_neg h2, if_neg]
        rintro ⟨k, hk, hh⟩
        by_cases hkn : k = n
        · subst hkn; exact h hh
        · exact h2 ⟨k, by omega, hh⟩

theorem codeVal_foldV (x : BitVec 8) (n : Nat) (hx : x.toNat + n ≤ 255) (L : List Nat) (hn : L.Nodup) (hL : ∀ l ∈ L, l < 32)
    (val : Nat → BitVec 128) (r : Regs) (c l : Nat) (hl : l < 32) :
    ((L.map (fun l => (l, val l))).foldl (fun r (v : Nat × BitVec 128) => r.writeGroup v.1 n (.v x) v.2) r).codeVal c l =
      if x ≠ 255 ∧ l ∈ L ∧ x.toNat ≤ c ∧ c < x.toNat + n then (val l >>> (32 * (c - x.toNat))).setWidth 32 else r.codeVal c l := by
  induction L generalizing r with
  | nil => simp
  | cons a t ih =>
    simp only [List.nodup_cons] at hn
    rw [List.map_cons, List.foldl_cons, ih hn.2 (fun l h => hL l (List.mem_cons_of_mem _ h)),
      codeVal_writeGroup _ _ _ _ _ _ _ hl (hL a (List.mem_cons_self ..)) (by intro k hk; simp [opIn]; omega) (by simp)]
    have hq : (∃ k, k < n ∧ opCode (.v x) k = some c ∧ laneMeets (.v x) a l = true) ↔ (x ≠ 255 ∧ a = l ∧ x.toNat ≤ c ∧ c < x.toNat + n) := by
      simp only [opCode, laneMeets, beq_iff_eq]
      constructor
      · rintro ⟨k, hk, h1, h2⟩
        by_cases h5 : x = 255
        · simp [h5] at h1
        · simp only [h5, if_false, Option.some.injEq] at h1
          exact ⟨h5, h2, by omega, by omega⟩
      · rintro ⟨h5, h2, h3, h4⟩
        refine ⟨c - x.toNat, by omega, ?_, h2⟩
        rw [if_neg h5, Nat.add_sub_cancel' h3]
    by_cases h : x ≠ 255 ∧ l ∈ t ∧ x.toNat ≤ c ∧ c < x.toNat + n
    · rw [if_pos h, if_pos ⟨h.1, List.mem_cons_of_mem _ h.2.1, h.2.2⟩]
    · rw [if_neg h]
      by_cases h2 : x ≠ 255 ∧ a = l ∧ x.toNat ≤ c ∧ c < x.toNat + n
      · rw [if_pos (hq.2 h2), if_pos ⟨h2.1, by simp [h2.2.1], h2.2.2⟩]
        have h0 : (opCode (.v x) 0).getD 0 = x.toNat := by rw [opCode, if_neg h2.1]; rfl
        rw [h0, h2.2.1]
      · rw [if_neg (fun hh => h2 (hq.1 hh)), if_neg]
        rintro ⟨h5, hm, hh⟩
        cases hm with
        | head => exact h2 ⟨h5, rfl, hh⟩
        | tail _ hm => exact h ⟨h5, hm, hh⟩

/-- The values of a result: one per executing lane; in a uniform form one in all, or for a predicate the one for every executing lane. -/
def resultVals (o : Opnd) (uni : Bool) (e : Lanes) (val : Nat → BitVec 128) : List (Nat × BitVec 128) :=
  if e = 0 then []
  else if uni then (if (match o with | .p _ => true | _ => false) then lanesOf e else [lowLane e]).map (fun l => (l, val (lowLane e)))
  else (lanesOf e).map (fun l => (l, val l))

theorem codeVal_foldP (x : BitVec 8) (L : List Nat) (hn : L.Nodup) (hL : ∀ l ∈ L, l < 32) (val : Nat → BitVec 128) (r : Regs) (c l : Nat)
    (hl : l < 32) :
    ((L.map (fun l => (l, val l))).foldl (fun r (v : Nat × BitVec 128) => r.writeGroup v.1 1 (.p x) v.2) r).codeVal c l =
      if c = 512 + x.toNat ∧ l ∈ L then (if (val l).getLsbD 0 then 1 else 0) else r.codeVal c l := by
  induction L generalizing r with
  | nil => simp
  | cons a t ih =>
    simp only [List.nodup_cons] at hn
    have hg : ∀ (r : Regs) (y : BitVec 128), r.writeGroup a 1 (.p x) y = r.writeReg a 0 (.p x) ((y >>> (32 * 0)).setWidth 32) := fun _ _ => rfl
    rw [List.map_cons, List.foldl_cons, ih hn.2 (fun l h => hL l (List.mem_cons_of_mem _ h)), hg,
      codeVal_writeReg _ _ _ _ _ _ _ hl (hL a (List.mem_cons_self ..)) rfl]
    simp only [opCode, laneMeets, asReg, Option.some.injEq, beq_iff_eq, List.mem_cons]
    by_cases h1 : c = 512 + x.toNat
    · subst h1
      by_cases h2 : l ∈ t
      · simp [h2]
      · by_cases h3 : a = l
        · subst h3; simp [h2]
        · simp [h2, h3, Ne.symm h3]
    · simp [h1, Ne.symm h1]

/-- Every register after a result. -/
theorem codeVal_result (o : Opnd) (uni : Bool) (e : Lanes) (n : Nat) (val : Nat → BitVec 128) (hd : destOk o uni n = true) (r : Regs)
    (c l : Nat) (hl : l < 32) :
    ((resultVals o uni e val).foldl (fun r (v : Nat × BitVec 128) => r.writeGroup v.1 n o v.2) r).codeVal c l =
      (resultIn o uni e n val c l).getD (r.codeVal c l) := by
  unfold resultVals resultIn
  by_cases he : e = 0
  · simp [he]
  simp only [he, if_false]
  have hlow := lowLane_mem e he
  have hlow32 : lowLane e < 32 := ((mem_lanesOf _ _).1 hlow).1
  cases o with
  | q i => simp [destOk] at hd
  | p x =>
    simp only [destOk, Bool.and_eq_true, beq_iff_eq] at hd
    obtain ⟨-, rfl⟩ := hd
    have hv : (if uni = true then (if true = true then lanesOf e else [lowLane e]).map (fun l => (l, val (lowLane e)))
        else (lanesOf e).map (fun l => (l, val l))) = (lanesOf e).map (fun l => (l, val (if uni then lowLane e else l))) := by
      cases uni <;> simp
    rw [hv, codeVal_foldP x (lanesOf e) (nodup_lanesOf e) (fun l h => ((mem_lanesOf _ _).1 h).1) (fun l => val (if uni then lowLane e else l)) _ _ _ hl]
    simp only [mem_lanesOf, hl, true_and]
    split <;> simp
  | s x =>
    simp only [destOk, Bool.and_eq_true, decide_eq_true_eq] at hd
    obtain ⟨rfl, hx⟩ := hd
    simp only [if_true, Bool.false_eq_true, if_false, List.map_cons, List.map_nil, List.foldl_cons, List.foldl_nil]
    rw [codeVal_writeGroup _ _ _ _ _ _ _ hl hlow32 (by intro k hk; simp [opIn]; omega) (by simp)]
    by_cases h : 256 + x.toNat ≤ c ∧ c < 256 + x.toNat + n
    · rw [if_pos ⟨c - 256 - x.toNat, by omega, by simp [opCode]; omega, rfl⟩, if_pos h]
      have : c - (256 + x.toNat) = c - 256 - x.toNat := by omega
      simp [opCode, this]
    · rw [if_neg h, if_neg]
      · rfl
      · rintro ⟨k, hk, h1, -⟩
        simp [opCode] at h1
        omega
  | v x =>
    by_cases h5 : x = 255
    · subst h5
      have hg : ∀ (L : List (Nat × BitVec 128)) (r : Regs), L.foldl (fun r (v : Nat × BitVec 128) => r.writeGroup v.1 n (.v 255) v.2) r = r := by
        intro L
        induction L with
        | nil => intro r; rfl
        | cons a t ih =>
          intro r
          have : r.writeGroup a.1 n (.v 255) a.2 = r := by
            unfold Regs.writeGroup
            generalize List.range n = ks
            induction ks generalizing r with
            | nil => rfl
            | cons b s ih2 =>
              rw [List.foldl_cons]
              exact ih2 _
          rw [List.foldl_cons, this]; exact ih r
      rw [hg]; simp
    · simp only [destOk, Bool.or_eq_true, beq_iff_eq, h5, false_or, Bool.and_eq_true, Bool.not_eq_true', decide_eq_true_eq] at hd
      obtain ⟨rfl, hx⟩ := hd
      simp only [Bool.false_eq_true, if_false]
      rw [codeVal_foldV x n hx (lanesOf e) (nodup_lanesOf e) (fun l h => ((mem_lanesOf _ _).1 h).1) val _ _ _ hl]
      simp only [mem_lanesOf, hl, true_and]
      split <;> simp

end Sys2Proof.Machine
end

