-- ==== Sys2Proof/Laws/Bundle.lean ====
section
/-! SUPPORT. What the shared operations of a bundle do to its gang and leave of everything else: moving on, the latch of the clock, a
result, the end of an arithmetic word. -/

namespace Sys2Proof.Machine

/-! ## One gang's changes, composed -/

theorem kset_kset {α : Type} (m : KMap α) (k : Nat) (x y : α) : kset (kset m k x) k y = kset m k y := by
  induction m with
  | nil => simp [kset]
  | cons a t ih =>
    obtain ⟨j, z⟩ := a
    by_cases h1 : k < j
    · simp [kset, h1]
    · by_cases h2 : k = j
      · subst h2; simp [kset]
      · simp [kset, h1, h2, ih]

theorem State.setGang_setGang (s : State) (k : Nat) (g h : Gang) : (s.setGang k g).setGang k h = s.setGang k h := by
  simp [State.setGang, kset_kset]

@[simp] theorem State.setGang_gang_same (s : State) (k : Nat) (g : Gang) : (s.setGang k g).gang k = g := by
  simp [State.setGang, State.gang]

theorem State.modGang_modGang (s : State) (k : Nat) (f h : Gang → Gang) : (s.modGang k f).modGang k h = s.modGang k (fun g => h (f g)) := by
  simp [State.modGang, State.setGang_setGang]

theorem OnlyGang.modGang (s : State) (k : Nat) (f : Gang → Gang) : OnlyGang k s (s.modGang k f) := by
  simp [OnlyGang, State.modGang]

theorem OnlyGang.trans {k : Nat} {s t u : State} (h1 : OnlyGang k s t) (h2 : OnlyGang k t u) : OnlyGang k s u := by
  unfold OnlyGang at *
  rw [h2, h1]
  simp [State.setGang_setGang]

/-- A change of one gang's own shows in nothing else. -/
theorem OnlyGang.cur {k : Nat} {s t : State} (h : OnlyGang k s t) : t.cur = s.cur := by rw [h]; rfl

theorem OnlyGang.gang {k j : Nat} {s t : State} (h : OnlyGang k s t) (hj : j ≠ k) : t.gang j = s.gang j := by
  rw [h]; simp [State.gang, State.setGang, kget_kset_ne _ _ hj]

/-! ## Moving on -/

theorem State.advance_me (s : State) (m : Lanes) : (s.advance m).me = s.me.modLanes m Thread.skip := by
  simp [State.advance, State.me]

theorem Gang.movesOn_modLanes (g : Gang) (m : Lanes) : g.MovesOn (g.modLanes m Thread.skip) m := by
  intro l hl
  rw [Gang.thread_modLanes]
  simp only [hl, true_and]
  rfl

/-! ## A result -/

/-- The gang after a result. -/
def Gang.afterResult (g : Gang) (s : State) (i : Instr) (e : Lanes) (n : Nat) (vals : List (Nat × BitVec 128)) (lat : Nat) (fixed : Bool) : Gang :=
  let codes := opCodes n i.fields.d
  let h := g.addPend codes (vals.map Prod.fst) (some (s.lastBeat i e + lat)) 0 s.cur.t fixed
  let h := { h with regs := vals.foldl (fun r (v : Nat × BitVec 128) => r.writeGroup v.1 n i.fields.d v.2) h.regs }
  h.setTaint codes e (g.newTaint i e)

theorem State.writeBack_eq (s : State) (i : Instr) (e : Lanes) (n : Nat) (vals : List (Nat × BitVec 128)) (lat : Nat) (fixed : Bool) :
    s.writeBack i e n vals lat fixed = s.modGang s.cur.gid (fun g => g.afterResult s i e n vals lat fixed) := rfl

/-- The taints after `setTaint`. -/
theorem Gang.setTaint_tainted (g : Gang) (codes : List Nat) (e : Lanes) (x : Taint) (c : Nat) :
    sget (g.setTaint codes e x).taint c =
      if c ∈ codes then
        (if (256 ≤ c ∧ c < 512) ∨ (g.lanesWith (fun t => !t.gone)) &&& ~~~e = 0 then g.standing x else sget g.taint c ||| g.standing x)
      else sget g.taint c := by
  unfold Gang.setTaint
  simp only
  generalize g.standing x = x
  generalize hall : ((g.lanesWith (fun t => !t.gone)) &&& ~~~e == 0) = all
  have ha : ((g.lanesWith (fun t => !t.gone)) &&& ~~~e = 0) ↔ all = true := by rw [← hall]; simp
  rw [show (if (256 ≤ c ∧ c < 512) ∨ (g.lanesWith (fun t => !t.gone)) &&& ~~~e = 0 then x else sget g.taint c ||| x)
      = if ((256 ≤ c && decide (c < 512)) || all) = true then x else sget g.taint c ||| x by
    by_cases h1 : 256 ≤ c ∧ c < 512 <;> by_cases h2 : all = true <;> simp_all]
  generalize g.taint = m
  induction codes generalizing m with
  | nil => simp
  | cons a t ih =>
    rw [List.foldl_cons, ih]
    by_cases hc : c = a
    · subst hc
      by_cases ht : c ∈ t
      · simp only [ht, if_true, List.mem_cons_self]
        split <;> simp [BitVec.or_assoc]
      · simp only [ht, if_false, List.mem_cons_self, if_true, sget_sset]
    · simp only [List.mem_cons, hc, false_or, sget_sset, if_false]

theorem Gang.lanesWith_eq {g h : Gang} (hh : h.threads = g.threads) (p : Thread → Bool) : h.lanesWith p = g.lanesWith p := by
  simp [Gang.lanesWith, Gang.thread, hh]

theorem Gang.afterResult_tainted (g : Gang) (s : State) (i : Instr) (e : Lanes) (n : Nat) (vals : List (Nat × BitVec 128)) (lat : Nat) (fixed : Bool) :
    g.Tainted (g.afterResult s i e n vals lat fixed) (opCodes n i.fields.d) e (g.newTaint i e) := by
  intro c
  unfold Gang.afterResult
  rw [Gang.setTaint_tainted]
  rfl

theorem Gang.afterResult_await (g : Gang) (s : State) (i : Instr) (e : Lanes) (n : Nat) (vals : List (Nat × BitVec 128)) (lat : Nat) (fixed : Bool) :
    (g.afterResult s i e n vals lat fixed).Awaits (opCodes n i.fields.d) (s.lastBeat i e + lat) fixed := by
  intro c hc
  simp only [Gang.afterResult, Gang.setTaint, Gang.addPend]
  refine ⟨_, List.mem_append_right _ (List.mem_map.2 ⟨c, hc, rfl⟩), rfl, rfl, rfl⟩

theorem Gang.afterResult_wrote (g : Gang) (s : State) (i : Instr) (uni : Bool) (e : Lanes) (n : Nat) (val : Nat → BitVec 128) (lat : Nat)
    (fixed : Bool) (hd : destOk i.fields.d uni n = true) (vals : List (Nat × BitVec 128)) (hv : vals = resultVals i.fields.d uni e val) :
    g.Wrote (g.afterResult s i e n vals lat fixed) i.fields.d uni e n val := by
  intro c l hl
  subst hv
  exact codeVal_result i.fields.d uni e n val hd g.regs c l hl

theorem Gang.afterResult_sameFrame (g : Gang) (s : State) (i : Instr) (e : Lanes) (n : Nat) (vals : List (Nat × BitVec 128)) (lat : Nat) (fixed : Bool) :
    g.SameFrame (g.afterResult s i e n vals lat fixed) := rfl

/-- The threads of a gang after a set of them has moved on. -/
def Gang.movedThreads (g : Gang) (m : Lanes) : KMap Thread := (g.modLanes m Thread.skip).threads

theorem Gang.movedThreads_congr {g h : Gang} (hh : h.threads = g.threads) (m : Lanes) : h.movedThreads m = g.movedThreads m := by
  unfold Gang.movedThreads Gang.modLanes
  generalize lanesOf m = L
  induction L generalizing g h with
  | nil => exact hh
  | cons a t ih =>
    rw [List.foldl_cons, List.foldl_cons]
    exact ih (by simp [Gang.modThread, Gang.setThread, Gang.thread, hh])

theorem Gang.movesOn_of {g h : Gang} {m : Lanes} (hh : h.threads = g.movedThreads m) : g.MovesOn h m := by
  intro l hl
  rw [show h.thread l = (g.modLanes m Thread.skip).thread l by simp only [Gang.thread, hh, Gang.movedThreads]]
  exact Gang.movesOn_modLanes g m l hl

theorem Gang.goesTo_of {g h : Gang} {m : Lanes} (e : Lanes) (hh : h.threads = g.movedThreads m) : g.GoesTo h m e (fun _ => none) := by
  intro l hl
  rw [Gang.movesOn_of hh l hl]
  simp only [Option.getD_none, ite_self]

/-- The gang of a word that wrote a result, latched the clock, moved on and raised flags. -/
def Gang.afterWord (g : Gang) (s : State) (i : Instr) (e : Lanes) (n : Nat) (vals : List (Nat × BitVec 128)) (lat : Nat) (fixed : Bool)
    (fl : BitVec 5) : Gang :=
  let r := g.afterResult s i e n vals lat fixed
  if e = 0 then { g with threads := g.movedThreads s.cur.mask, flags := g.flags ||| fl }
  else { g with threads := g.movedThreads s.cur.mask, regs := r.regs, taint := r.taint, pend := r.pend, flags := g.flags ||| fl,
                clkh := s.clkhAfter i e }

theorem State.latchClk_modGang (s : State) (i : Instr) (e : Lanes) (f : Gang → Gang) (hf : (f s.me).clkh = s.me.clkh) :
    (s.modGang s.cur.gid f).latchClk i e = s.modGang s.cur.gid (fun _ => { f s.me with clkh := s.clkhAfter i e }) := by
  have key : ∀ t : State, t.cur = s.cur → t.latchClk i e =
      if (Instr.readsClk i && e != 0 && s.cur.snap.isNone) = true then
        t.modGang s.cur.gid (fun g => { g with clkh := BitVec.ofNat 32 (s.cur.iss.clk / 2 ^ 32) }) else t := by
    intro t ht
    unfold State.latchClk
    rw [ht]
  rw [key (s.modGang s.cur.gid f) rfl]
  unfold State.clkhAfter
  by_cases h : Instr.readsClk i = true ∧ e ≠ 0 ∧ s.cur.snap = none
  · obtain ⟨h1, h2, h3⟩ := h
    rw [if_pos (by simp only [h1, h3, Option.isNone_none, Bool.and_true, Bool.true_and]; exact bne_iff_ne.2 h2), if_pos ⟨h1, h2, h3⟩, State.modGang_modGang]
    rfl
  · rw [if_neg h, if_neg]
    · simp only [State.modGang, State.me] at hf ⊢
      rw [← hf]
    · intro hc
      simp only [Bool.and_eq_true, bne_iff_ne, ne_eq, Option.isNone_iff_eq_none] at hc
      exact h ⟨hc.1.1, hc.1.2, hc.2⟩

/-- What the trap of an enabled flag makes of a state (R86). -/
def State.trapFlags (s : State) (e : Lanes) (fl : BitVec 5) : State :=
  if fl &&& s.me.ten = 0 then s else s.takeTrap s.cur.gid 0x03 0 (fl.setWidth 32) s.cur.pc e none

/-- The end of an arithmetic word: it moves on and raises its flags, and traps where one is enabled. -/
theorem State.finishArith_eq (s : State) (e : Lanes) (fl : BitVec 5) :
    s.finishArith e fl =
      (s.modGang s.cur.gid (fun g => { g with threads := g.movedThreads s.cur.mask, flags := g.flags ||| fl })).trapFlags e fl := by
  have hm : ∀ g : Gang, g.modLanes s.cur.mask Thread.skip = { g with threads := g.movedThreads s.cur.mask } := fun g => Gang.modLanes_eq _ _ _
  have h1 : s.retire.modGang s.cur.gid (fun g => { g with flags := g.flags ||| fl }) =
      s.modGang s.cur.gid (fun g => { g with threads := g.movedThreads s.cur.mask, flags := g.flags ||| fl }) := by
    unfold State.retire State.advance
    rw [State.modGang_modGang]
    simp only [hm]
  have h2 : ∀ t : State, t.cur = s.cur → (if fl &&& (t.gang s.cur.gid).ten ≠ 0 then t.takeTrap s.cur.gid 0x03 0 (fl.setWidth 32) s.cur.pc e none else t) =
      t.trapFlags e fl := by
    intro t ht
    unfold State.trapFlags State.me
    rw [ht]
    by_cases h : fl &&& (t.gang s.cur.gid).ten = 0
    · rw [if_neg (fun hn => hn h), if_pos h]
    · rw [if_pos h, if_neg h]
  rw [← h1]
  exact h2 _ rfl

/-- A word of the shape that arithmetic words have. -/
theorem gave_of_afterWord (s : State) (i : Instr) (n : Nat) (val : Nat → BitVec 128) (vals : List (Nat × BitVec 128)) (lat : Nat) (fixed : Bool)
    (fl : BitVec 5) (hd : destOk i.fields.d (Instr.uniform i) n = true)
    (hv : vals = resultVals i.fields.d (Instr.uniform i) (s.execLanes i.fields) val) :
    Gave i n lat fixed val (s.me.newTaint i (s.execLanes i.fields)) fl (fun _ => none) s (s.setGang s.cur.gid (s.me.afterWord s i (s.execLanes i.fields) n vals lat fixed fl)) := by
  generalize hg : s.me.afterWord s i (s.execLanes i.fields) n vals lat fixed fl = h
  have hme : (s.setGang s.cur.gid h).me = h := State.setGang_gang_same s s.cur.gid h
  unfold Gang.afterWord at hg
  have hf : OnlyGang s.cur.gid s (s.setGang s.cur.gid h) := by
    unfold OnlyGang; rw [State.setGang_gang_same]
  by_cases he : s.execLanes i.fields = 0
  · rw [if_pos he] at hg
    refine ⟨hf, ?_, ?_, ?_, ?_, fun h => absurd he h, ?_, ?_⟩
    all_goals rw [hme, ← hg]
    · rfl
    · exact Gang.goesTo_of _ rfl
    · intro c l hl
      simp only [resultIn, he, if_true, Option.getD_none]
    · intro c
      simp only [he, if_true, List.not_mem_nil, if_false]
    · simp only [State.clkhAfter, he, ne_eq, not_true_eq_false, false_and, and_false, if_false]
  · rw [if_neg he] at hg
    refine ⟨hf, ?_, ?_, ?_, ?_, fun _ => ?_, ?_, ?_⟩
    all_goals rw [hme, ← hg]
    · rfl
    · exact Gang.goesTo_of _ rfl
    · intro c l hl
      exact s.me.afterResult_wrote s i _ _ n val lat fixed hd vals hv c l hl
    · intro c
      rw [if_neg he]
      exact s.me.afterResult_tainted s i _ n vals lat fixed c
    · exact s.me.afterResult_await s i _ n vals lat fixed

/-- Writing a result, latching the clock and ending an arithmetic word, in one. -/
theorem State.word_eq (s : State) (i : Instr) (e : Lanes) (n : Nat) (vals : List (Nat × BitVec 128)) (lat : Nat) (fixed : Bool) (fl : BitVec 5) :
    (if e = 0 then s else (s.writeBack i e n vals lat fixed).latchClk i e).finishArith e fl =
      (s.setGang s.cur.gid (s.me.afterWord s i e n vals lat fixed fl)).trapFlags e fl := by
  rw [State.finishArith_eq]
  congr 1
  by_cases he : e = 0
  · rw [if_pos he]
    unfold Gang.afterWord
    rw [if_pos he]
    rfl
  · rw [if_neg he, State.writeBack_eq, State.latchClk_modGang _ _ _ _ rfl]
    simp only [State.modGang_cur]
    rw [State.modGang_modGang]
    unfold Gang.afterWord
    rw [if_neg he]
    have hth := Gang.movedThreads_congr (g := s.me) (h := { s.me.afterResult s i e n vals lat fixed with clkh := s.clkhAfter i e }) rfl s.cur.mask
    exact congrArg (fun th => s.setGang s.cur.gid { s.me.afterResult s i e n vals lat fixed with threads := th, flags := s.me.flags ||| fl, clkh := s.clkhAfter i e }) hth

/-- The trap test of the state after a word reads the enables from before. -/
theorem State.trapFlags_after (s : State) (i : Instr) (e e' : Lanes) (n : Nat) (vals : List (Nat × BitVec 128)) (lat : Nat) (fixed : Bool) (fl : BitVec 5) :
    let t := s.setGang s.cur.gid (s.me.afterWord s i e n vals lat fixed fl)
    t.trapFlags e' fl = if fl &&& s.me.ten = 0 then t else t.takeTrap s.cur.gid 0x03 0 (fl.setWidth 32) s.cur.pc e' none := by
  intro t
  have ht : t.me.ten = s.me.ten := by
    rw [show t.me = s.me.afterWord s i e n vals lat fixed fl from State.setGang_gang_same s _ _]
    unfold Gang.afterWord
    split <;> rfl
  unfold State.trapFlags
  rw [ht]
  rfl

end Sys2Proof.Machine
end

