-- ==== Sys2Proof/Laws/Arith.lean ====
section
/-! SUPPORT. What an arithmetic word gives, once for every one of them, and the destinations that well-formed words name. -/

namespace Sys2Proof.Machine

/-! ## The shape of an arithmetic word -/

theorem perThread_fst (o : Opnd) (uni : Bool) (e : Lanes) (fn : Nat → BitVec 64 × BitVec 5) :
    (perThread uni (match o with | .p _ => true | _ => false) e fn).1 = resultVals o uni e (fun l => (fn l).1.setWidth 128) := by
  unfold perThread resultVals
  by_cases he : e = 0
  · rw [if_pos he, if_pos he]
  · rw [if_neg he, if_neg he]
    cases uni <;> cases o <;> simp [Function.comp_def]

theorem perThread_snd (toPred uni : Bool) (e : Lanes) (fn : Nat → BitVec 64 × BitVec 5) :
    (perThread uni toPred e fn).2 = orFlags uni e (fun l => (fn l).2) := by
  unfold perThread orFlags
  by_cases he : e = 0
  · rw [if_pos he, if_pos he]
  · rw [if_neg he, if_neg he]
    cases uni
    · simp [List.foldl_map]
    · simp

/-- What an arithmetic word gives. -/
theorem arithLane_arith (i : Instr) (lat : Nat) (fn : State → Regs → Nat → BitVec 64 × BitVec 5) (s : State)
    (hx : exec i s = arithLane i lat fn s) (hu : i.fields.uni = Instr.uniform i)
    (hd : destOk i.fields.d (Instr.uniform i) (if tyWide i.fields.ty then 2 else 1) = true) :
    Arith i lat (fun l => (fn s s.view l).1) (fun l => (fn s s.view l).2) s := by
  refine ⟨_, gave_of_afterWord s i _ _ _ lat true _ hd rfl, ?_⟩
  rw [hx, ← State.trapFlags_after, ← State.word_eq]
  unfold arithLane
  simp only [perThread_snd, hu]
  rw [← perThread_fst i.fields.d]
  all_goals rfl

/-- What an arithmetic word of layouts 1R to 3I gives. -/
theorem arith_arith (i : Instr) (lat : Nat) (fn : AluFn) (s : State) (hx : exec i s = arith i lat fn s) (hu : i.fields.uni = Instr.uniform i)
    (hd : destOk i.fields.d (Instr.uniform i) (if tyWide i.fields.ty then 2 else 1) = true) :
    Arith i lat (fun l => (fn (s.valA i.fields l) (s.valB i.fields l) (s.valC i.fields l)).1)
      (fun l => (fn (s.valA i.fields l) (s.valB i.fields l) (s.valC i.fields l)).2) s :=
  arithLane_arith i lat (fun s r lane => fn (s.readOp r lane (tyWide i.fields.ty) i.fields.a) (s.srcB i.fields r lane) (s.srcC i.fields r lane)) s
    (hx.trans (by unfold arith; rfl)) hu hd

/-! ## Destinations of well-formed words -/

theorem wellFormed_cause {i : Instr} (h : WellFormed i) : i.cause DecodeCtx.widest = none := by
  simp only [WellFormed, Instr.wellFormed, Bool.and_eq_true, Option.isNone_iff_eq_none] at h
  exact h.2

/-- What a well-formed word's D, and its MOD, have passed. -/
theorem wellFormed_d {i : Instr} (h : WellFormed i) :
    i.shape.modOk = true ∧ i.shape.d.classBad i.fields.d = false ∧ i.shape.d.indexBad DecodeCtx.widest i.fields.d = false := by
  have hc := wellFormed_cause h
  unfold Instr.cause at hc
  split at hc <;> first | contradiction | skip
  split at hc <;> first | contradiction | skip
  split at hc <;> first | contradiction | skip
  split at hc <;> first | contradiction | skip
  split at hc <;> first | contradiction | skip
  rename_i hm hcl hi
  refine ⟨by simpa using hm, ?_, ?_⟩
  · simp only [Instr.classBad, Bool.or_eq_true, not_or, Bool.not_eq_true] at hcl
    exact hcl.1.1.1.1
  · simp only [Instr.indexBad, Bool.or_eq_true, not_or, Bool.not_eq_true] at hi
    exact hi.1.1.1.1

/-- A role that takes what `roleDst` takes. -/
def Role.isDst (r : Role) (uni : Bool) (n : Nat) : Prop :=
  r.fixed = none ∧ r.v = !uni ∧ r.vz = uni ∧ r.s = uni ∧ r.p = false ∧ r.m = false ∧ r.q = false ∧ r.wr = true ∧ r.regs = n ∧ r.clip = false

theorem destOk_of_isDst {r : Role} {uni : Bool} {n : Nat} {o : Opnd} (hr : Role.isDst r uni n) (hc : r.classBad o = false)
    (hi : r.indexBad DecodeCtx.widest o = false) : destOk o uni n = true := by
  obtain ⟨h1, h2, h3, h4, h5, h6, h7, h8, h9, h10⟩ := hr
  unfold Role.classBad at hc
  unfold Role.indexBad at hi
  rw [h1] at hc hi
  simp only [h2, h3, h4, h5, h6, h7, h8, h9, h10] at hc hi
  cases o with
  | v x =>
    simp only [Bool.not_eq_false', Bool.or_eq_true, Bool.not_eq_true', Bool.and_eq_true, beq_iff_eq, DecodeCtx.widest, Bool.false_eq_true,
      if_false] at hc hi
    simp only [destOk, Bool.or_eq_true, beq_iff_eq, Bool.and_eq_true, Bool.not_eq_true', decide_eq_true_eq]
    by_cases h5 : x = 255
    · exact .inl h5
    · rw [if_neg h5] at hi
      simp only [Bool.or_eq_false_iff, decide_eq_false_iff_not] at hi
      exact .inr ⟨hc.resolve_right (fun h => h5 h.2), by omega⟩
  | s x =>
    simp only [Bool.not_eq_false'] at hc
    simp only [Bool.or_true, Bool.true_or, Bool.false_eq_true, if_false] at hi
    by_cases hx : x.toNat < 64
    · rw [if_pos hx] at hi
      simp only [Bool.or_eq_false_iff, decide_eq_false_iff_not] at hi
      simp only [destOk, hc, Bool.true_and, decide_eq_true_eq]
      omega
    · rw [if_neg hx] at hi
      simp at hi
  | p x =>
    exfalso
    simp only [Bool.not_false, Bool.or_false] at hc
    split at hc
    · simp at hc
    · split at hc <;> simp at hc
  | q x => simp at hc

theorem destOk_of_rolePd {uni : Bool} {o : Opnd} (hc : rolePd.classBad o = false) (hi : rolePd.indexBad DecodeCtx.widest o = false) :
    destOk o uni 1 = true := by
  cases o with
  | p x =>
    simp only [Role.classBad, Role.indexBad, rolePd, destOk] at hc hi ⊢
    by_cases h6 : x.toNat ≤ 6
    · simp; omega
    · by_cases h7 : x.toNat = 7
      · simp [h7] at hi
      · rw [if_neg h6, if_neg h7] at hi
        rw [if_neg (by omega)] at hc
        split at hc
        · simp at hc
        · simp at hi; omega
  | v x => simp [Role.classBad, rolePd] at hc
  | s x => simp [Role.classBad, rolePd] at hc
  | q x => simp [Role.classBad, rolePd] at hc

theorem roleDst_isDst (uni : Bool) (n : Nat) : Role.isDst (roleDst uni n) uni n := by cases uni <;> simp [Role.isDst, roleDst]

/-- The arithmetic words: those of R121. -/
def isArith (i : Instr) : Bool :=
  match i with
  | .add _ | .sub _ | .mul _ | .mulh _ | .mad _ | .neg _ | .abs _ | .min _ | .max _ | .and _ | .or _ | .xor _ | .andn _ | .shl _ | .shr _ | .sar _
  | .clz _ | .popc _ | .bfx _ | .bfi _ | .sel _ | .setp _ | .plop _ | .p2v _ | .v2p _ | .fadd _ | .fsub _ | .fmul _ | .ffma _ | .fmin _ | .fmax _
  | .fsetp _ | .frcp _ | .frsq _ | .fsqrt _ | .fex2 _ | .flg2 _ | .frnd _ | .fclass _ | .cvt _ | .hadd2 _ | .hmul2 _ | .hfma2 _ | .hmax2 _ | .pack _
  | .unpk _ | .mov _ => true
  | _ => false

theorem isArith_uni {i : Instr} (h : isArith i = true) : i.fields.uni = Instr.uniform i := by
  have key : ∀ (q : BitVec 8) (f : Fields), q.toNat < 64 →
      (if (q ++ f.slot : BitVec 10).toNat < 0x100 then f.slot == 2 || f.slot == 3
       else if 0x180 ≤ (q ++ f.slot : BitVec 10).toNat ∧ (q ++ f.slot : BitVec 10).toNat < 0x200 then f.slot == 1
       else if 0x280 ≤ (q ++ f.slot : BitVec 10).toNat ∧ (q ++ f.slot : BitVec 10).toNat < 0x2E0 then f.slot == 3
       else false) = f.uni := by
    intro q f hq
    have h1 : (q ++ f.slot : BitVec 10).toNat < 0x100 := by
      rw [BitVec.toNat_append, Nat.shiftLeft_eq]
      have := f.slot.isLt
      have h2 : q.toNat * 2 ^ 2 ||| f.slot.toNat = q.toNat * 2 ^ 2 + f.slot.toNat := by
        rw [Nat.mul_comm, Nat.two_pow_add_eq_or_of_lt this]
      rw [h2]; omega
    rw [if_pos h1]
    unfold Fields.uni
    have := f.slot
    generalize f.slot = x
    revert x
    decide
  cases i <;> first
    | (exact absurd h Bool.false_ne_true)
    | (refine (key _ _ ?_).symm; simp only [Instr.quad]; first | decide | (split <;> decide))

theorem isDst_rd {r : Role} {uni : Bool} {n : Nat} (b : Bool) (h : Role.isDst r uni n) : Role.isDst { r with rd := b } uni n := h

/-- Types that are not 64 bits wide. -/
theorem setA_narrow : ∀ t : BitVec 5, tySetA t = true → tyWide t = false := by decide
theorem setN_narrow : ∀ t : BitVec 5, tySetN t = true → tyWide t = false := by decide

theorem wide_cases : ∀ t : BitVec 5, tyWide t = true → t = tyB64 ∨ t = tyI64 ∨ t = tyN64 := by decide

/-- The destination of a well-formed arithmetic word. -/
theorem isArith_dest {i : Instr} (h : isArith i = true) (hw : WellFormed i) :
    destOk i.fields.d (Instr.uniform i) (if tyWide i.fields.ty then 2 else 1) = true := by
  have hu := isArith_uni h
  obtain ⟨hm, hc, hi⟩ := wellFormed_d hw
  rw [← hu]
  have narrow : tyWide i.fields.ty = false → Role.isDst i.shape.d i.fields.uni 1 →
      destOk i.fields.d i.fields.uni (if tyWide i.fields.ty then 2 else 1) = true := by
    intro h1 h2; rw [h1]; exact destOk_of_isDst h2 hc hi
  have pred : tyWide i.fields.ty = false → i.shape.d = rolePd →
      destOk i.fields.d i.fields.uni (if tyWide i.fields.ty then 2 else 1) = true := by
    intro h1 h2; rw [h1]; rw [h2] at hc hi; exact destOk_of_rolePd hc hi
  have addLike : ∀ f : Fields, i.fields = f → i.shape = shapeAddLike f →
      destOk i.fields.d i.fields.uni (if tyWide i.fields.ty then 2 else 1) = true := by
    intro f hf hs
    rw [hs] at hc hi
    rw [hf] at hc hi ⊢
    unfold shapeAddLike at hc hi
    cases hw : tyWide f.ty <;> rw [hw] at hc hi
    · exact destOk_of_isDst (roleDst_isDst _ _) hc hi
    · exact destOk_of_isDst (roleDst_isDst _ _) hc hi
  cases i <;> try (exact absurd h Bool.false_ne_true)
  case add f => exact addLike f rfl rfl
  case sub f => exact addLike f rfl rfl
  case mul f => exact addLike f rfl rfl
  case shl f =>
    clear narrow pred addLike
    have hs : (Instr.shl f).shape = if tyWide f.ty then shape2 f 2 0xFFFFFFC0 (plainMod f)
      else shape2 f 1 0xFFFFFFE0 (plainMod f && (f.ty == tyB32 || f.ty == tyI32 || f.ty == tyN32)) := rfl
    rw [hs] at hc hi
    show destOk f.d f.uni (if tyWide f.ty then 2 else 1) = true
    cases hw : tyWide f.ty <;> rw [hw] at hc hi
    · exact destOk_of_isDst (roleDst_isDst _ _) hc hi
    · exact destOk_of_isDst (roleDst_isDst _ _) hc hi
  case p2v f =>
    have hs : f.uni = false := by
      simp only [WellFormed, Instr.wellFormed, Bool.and_eq_true] at hw
      have := hw.1.1.2
      simp only [Instr.slots, Instr.fields] at this
      unfold Fields.uni
      revert this
      generalize f.slot = x
      revert x; decide
    refine narrow ?_ ?_
    · simp only [Instr.shape, beq_iff_eq] at hm
      simp only [Instr.fields, Fields.ty, hm]; decide
    · simp only [Instr.fields, Instr.shape, hs]
      exact roleDst_isDst _ _
  case v2p f =>
    refine pred ?_ rfl
    simp only [Instr.shape, beq_iff_eq] at hm
    simp only [Instr.fields, Fields.ty, hm]; decide
  case setp f => 
    refine pred ?_ rfl
    simp only [Instr.shape, shapeCmp, shape2, Bool.and_eq_true] at hm
    simp only [Instr.fields]
    have := hm.2
    revert this
    generalize f.ty = x
    generalize decide (f.opx.toNat ≤ 1) = b
    revert x b; decide
  case fsetp f =>
    refine pred ?_ rfl
    simp only [Instr.shape, shapeCmp, shape2, Bool.and_eq_true] at hm
    simp only [Instr.fields]
    have := hm.1
    revert this
    generalize f.ty = x
    revert x; decide
  case plop f =>
    refine pred ?_ rfl
    simp only [Instr.shape, Bool.and_eq_true] at hm
    simp only [Instr.fields]
    have := hm.1.1
    revert this
    generalize f.ty = x
    revert x; decide
  all_goals
    refine narrow ?_ ?_
    · clear narrow pred addLike hc hi hu hw
      simp only [Instr.shape, Instr.fields, shape1, shape2, shape3, shapeFp2, cvtOk] at hm ⊢
      revert hm
      generalize Fields.ty _ = x
      intro hm
      cases hx : tyWide x with
      | false => rfl
      | true =>
        exfalso
        rcases wide_cases x hx with rfl | rfl | rfl <;> simp [tySetN, tySetA, tyRaw] at hm
    · first
        | exact roleDst_isDst _ _
        | (simp only [Instr.shape, shape3, Instr.fields]; split <;> exact roleDst_isDst _ _)

end Sys2Proof.Machine
end

