-- ==== Sys2Proof/Laws/Memory.lean ====
section
/-! SUPPORT. The canonical form of memory: every operation on bytes keeps it (R2, R221, R236, R242), and so do the operations of the machine that change bytes. -/

namespace Sys2Proof.Machine

/-! ## Windows of a map, moved -/

theorem sfrom_ge {w : Nat} {lo : Nat} {m : Sparse w} (h : sfrom lo m = true) : ∀ kv ∈ m, lo ≤ kv.1 := by
  induction m generalizing lo with
  | nil => intro kv hk; cases hk
  | cons a t ih =>
    simp only [sfrom, Bool.and_eq_true, decide_eq_true_eq] at h
    intro kv hk
    rcases List.mem_cons.mp hk with rfl | hk
    · exact h.1.1
    · have := ih h.2 kv hk; omega

/-- Keys moved down. -/
theorem sfrom_down {w : Nat} (m : Sparse w) (lo a : Nat) (h : sfrom lo m = true) (hm : ∀ kv ∈ m, a ≤ kv.1) :
    sfrom (lo - a) (m.map (fun kv => (kv.1 - a, kv.2))) = true := by
  induction m generalizing lo with
  | nil => rfl
  | cons b t ih =>
    simp only [sfrom, List.map_cons, Bool.and_eq_true, decide_eq_true_eq] at *
    have hb := hm b (by simp)
    refine ⟨⟨by omega, h.1.2⟩, ?_⟩
    have := ih (b.1 + 1) h.2 (fun kv hk => hm kv (by simp [hk]))
    rwa [show b.1 + 1 - a = b.1 - a + 1 by omega] at this

/-- Keys moved up. -/
theorem sfrom_up {w : Nat} (m : Sparse w) (lo a : Nat) (h : sfrom lo m = true) : sfrom (a + lo) (m.map (fun kv => (a + kv.1, kv.2))) = true := by
  induction m generalizing lo with
  | nil => rfl
  | cons b t ih =>
    simp only [sfrom, List.map_cons, Bool.and_eq_true, decide_eq_true_eq] at *
    exact ⟨⟨by omega, h.1.2⟩, ih (b.1 + 1) h.2⟩

/-- A map after another, whose keys all lie below. -/
theorem sfrom_append {w : Nat} (m n : Sparse w) (lo b : Nat) (h : sfrom lo m = true) (hm : ∀ kv ∈ m, kv.1 < b) (hn : sfrom b n = true) (hb : lo ≤ b) :
    sfrom lo (m ++ n) = true := by
  induction m generalizing lo with
  | nil => exact sfrom_mono _ hb hn
  | cons a t ih =>
    simp only [sfrom, List.cons_append, Bool.and_eq_true, decide_eq_true_eq] at *
    have := hm a (by simp)
    exact ⟨h.1, ih (a.1 + 1) h.2 (fun kv hk => hm kv (by simp [hk])) (by omega)⟩

theorem sfrom_of_ge {w : Nat} (m : Sparse w) (lo : Nat) (h : sfrom 0 m = true) (hm : ∀ kv ∈ m, lo ≤ kv.1) : sfrom lo m = true := by
  cases m with
  | nil => rfl
  | cons a t =>
    simp only [sfrom, Bool.and_eq_true, decide_eq_true_eq] at *
    exact ⟨⟨hm a (by simp), h.1.2⟩, h.2⟩

/-- The window from `a` on, moved to address 0. -/
theorem wf_window (m : Memory) (p : Nat × Byte → Bool) (a : Nat) (h : Memory.wf m = true) (hp : ∀ kv, p kv = true → a ≤ kv.1) :
    Memory.wf ((m.filter p).map (fun kv => (kv.1 - a, kv.2))) = true := by
  have := sfrom_down (w := 8) (m.filter p) 0 a (swf_filter (w := 8) p m h) (fun kv hk => hp kv (List.mem_filter.mp hk).2)
  rwa [Nat.zero_sub] at this

/-! ## Operations on byte memory -/

theorem storeAll_wf (l : List (Nat × Byte)) (m : Memory) (h : Memory.wf m = true) : Memory.wf (storeAll m l) = true := by
  induction l generalizing m with
  | nil => exact h
  | cons a t ih => exact ih _ (memSet_wf m a.1 a.2 h)

theorem foldl_memSet_wf (l : List (Nat × Byte)) (a : Nat) (m : Memory) (h : Memory.wf m = true) :
    Memory.wf (l.foldl (fun (m : Memory) kv => memSet m (a + kv.1) kv.2) m) = true := by
  induction l generalizing m with
  | nil => exact h
  | cons b t ih => exact ih _ (memSet_wf m (a + b.1) b.2 h)

theorem applyCrumb_wf (d : Memory) (e : Crumb) (h : Memory.wf d = true) : Memory.wf (applyCrumb d e) = true := memWrite_wf _ _ _ _ h

theorem foldl_applyCrumb_wf (l : List Crumb) (d : Memory) (h : Memory.wf d = true) : Memory.wf (l.foldl applyCrumb d) = true := by
  induction l generalizing d with
  | nil => exact h
  | cons e t ih => exact ih _ (applyCrumb_wf d e h)

/-- The bytes of a tile as main memory holds them, at offsets within the tile. -/
theorem State.tileMem_wf (s : State) (tile : Nat) (h : Memory.wf s.hbm = true) : Memory.wf (s.tileMem tile) = true := by
  unfold State.tileMem
  rw [show (s.hbm.filter (fun kv => kv.1 / 4096 == tile)).map (fun kv => (kv.1 % 4096, kv.2)) =
      (s.hbm.filter (fun kv => kv.1 / 4096 == tile)).map (fun kv => (kv.1 - tile * 4096, kv.2)) from
    List.map_congr_left (fun kv hk => by
      have := (List.mem_filter.mp hk).2
      simp only [beq_iff_eq] at this
      rw [show kv.1 % 4096 = kv.1 - tile * 4096 by omega])]
  exact wf_window s.hbm _ (tile * 4096) h (fun kv hp => by simp only [beq_iff_eq] at hp; omega)

theorem State.putTileMem_wf (s : State) (tile : Nat) (d : Memory) (h : Memory.wf s.hbm = true) (hd : Memory.wf d = true) :
    Memory.wf (s.putTileMem tile d).hbm = true := by
  unfold State.putTileMem
  simp only
  refine sfrom_append (w := 8) _ _ 0 ((tile + 1) * 4096) (sfrom_append (w := 8) _ _ 0 (tile * 4096) (swf_filter (w := 8) _ _ h) ?_ ?_ (by omega)) ?_ ?_ (by omega)
  · intro kv hk
    simpa using (List.mem_filter.mp hk).2
  · have := sfrom_up (w := 8) _ 0 (tile * 4096) (swf_filter (w := 8) (fun kv => decide (kv.1 < 4096)) d hd)
    rwa [Nat.add_zero] at this
  · intro kv hk
    rcases List.mem_append.mp hk with hk | hk
    · have h1 : kv.1 < tile * 4096 := of_decide_eq_true (List.mem_filter.mp hk).2
      exact Nat.lt_of_lt_of_le h1 (Nat.mul_le_mul_right 4096 (Nat.le_succ tile))
    · obtain ⟨x, hx, rfl⟩ := List.mem_map.mp hk
      have h1 : x.1 < 4096 := of_decide_eq_true (List.mem_filter.mp hx).2
      show tile * 4096 + x.1 < (tile + 1) * 4096
      rw [Nat.succ_mul]
      exact Nat.add_lt_add_left h1 _
  · exact sfrom_of_ge (w := 8) _ _ (swf_filter (w := 8) _ _ h) (fun kv hk => by simpa using (List.mem_filter.mp hk).2)

/-! ## Operations of the machine -/

theorem mem_kset {α : Type} {m : KMap α} {k : Nat} {x : α} {kv : Nat × α} (h : kv ∈ kset m k x) : kv = (k, x) ∨ kv ∈ m := by
  induction m with
  | nil => simpa [kset] using h
  | cons a t ih =>
    obtain ⟨a, y⟩ := a
    unfold kset at h
    split at h
    · rcases List.mem_cons.mp h with h | h
      · exact .inl h
      · exact .inr h
    · split at h
      · rcases List.mem_cons.mp h with h | h
        · exact .inl h
        · exact .inr (List.mem_cons_of_mem _ h)
      · rcases List.mem_cons.mp h with h | h
        · exact .inr (h ▸ List.mem_cons_self)
        · rcases ih h with h | h
          · exact .inl h
          · exact .inr (List.mem_cons_of_mem _ h)

theorem kget_mem {α : Type} [Inhabited α] (m : KMap α) (k : Nat) : kget m k = default ∨ (k, kget m k) ∈ m := by
  induction m with
  | nil => exact .inl rfl
  | cons a t ih =>
    obtain ⟨a, y⟩ := a
    unfold kget
    split
    · rename_i h; subst h; exact .inr List.mem_cons_self
    · split
      · exact .inl rfl
      · rcases ih with h | h
        · exact .inl h
        · exact .inr (List.mem_cons_of_mem _ h)

/-- Flipped bits that no code sees leave memory in canonical form. -/
theorem flipLine_wf (m : Memory) (l : Nat) (x : BitVec 576) (hm : Memory.wf m = true) : Memory.wf (flipLine m l x) = true := by
  unfold flipLine
  generalize List.range 64 = ks
  induction ks generalizing m with
  | nil => exact hm
  | cons k t ih => exact ih _ (memSet_wf m _ _ hm)

namespace MemoryForm

theorem tile {s : State} (h : MemoryForm s) (k : Nat) : Memory.wf (s.tile k).data = true := by
  rcases kget_mem s.tiles k with hk | hk
  · unfold State.tile; rw [hk]; rfl
  · exact h.tiles _ hk

theorem block {s : State} (h : MemoryForm s) (k : Nat) : Memory.wf (s.block k).mem = true := by
  rcases kget_mem s.blocks k with hk | hk
  · unfold State.block; rw [hk]; rfl
  · exact h.blocks _ hk

theorem core {s : State} (h : MemoryForm s) (k : Nat) : Memory.wf (s.core k).bmem = true := by
  rcases kget_mem s.cores k with hk | hk
  · unfold State.core; rw [hk]; rfl
  · exact h.cores _ hk

/-- A state with the same byte maps. -/
theorem of_eq {s t : State} (h : MemoryForm s) (h1 : t.hbm = s.hbm) (h2 : t.host = s.host) (h3 : t.flash = s.flash) (h4 : t.image = s.image) (h5 : t.tiles = s.tiles)
    (h6 : t.blocks = s.blocks) (h7 : t.cores = s.cores) : MemoryForm t :=
  ⟨h1 ▸ h.hbm, h2 ▸ h.host, h3 ▸ h.flash, h4 ▸ h.image, h5 ▸ h.tiles, h6 ▸ h.blocks, h7 ▸ h.cores⟩

theorem setGang {s : State} (h : MemoryForm s) (k : Nat) (g : Gang) : MemoryForm (s.setGang k g) := h.of_eq rfl rfl rfl rfl rfl rfl rfl

theorem setTile {s : State} (h : MemoryForm s) (k : Nat) (t : Tile) (ht : Memory.wf t.data = true) : MemoryForm (s.setTile k t) :=
  ⟨h.hbm, h.host, h.flash, h.image, fun kv hk => by rcases mem_kset hk with rfl | hk; exact ht; exact h.tiles kv hk, h.blocks, h.cores⟩

theorem setBlock {s : State} (h : MemoryForm s) (k : Nat) (b : Block) (hb : Memory.wf b.mem = true) : MemoryForm (s.setBlock k b) :=
  ⟨h.hbm, h.host, h.flash, h.image, h.tiles, fun kv hk => by rcases mem_kset hk with rfl | hk; exact hb; exact h.blocks kv hk, h.cores⟩

theorem setCore {s : State} (h : MemoryForm s) (k : Nat) (c : Core) (hc : Memory.wf c.bmem = true) : MemoryForm (s.setCore k c) :=
  ⟨h.hbm, h.host, h.flash, h.image, h.tiles, h.blocks, fun kv hk => by rcases mem_kset hk with rfl | hk; exact hc; exact h.cores kv hk⟩

theorem hbmWrite {s : State} (h : MemoryForm s) (pa n x : Nat) : MemoryForm (s.hbmWrite pa n x) := by
  unfold State.hbmWrite
  split
  · exact ⟨memWrite_wf _ _ _ _ h.hbm, h.host, h.flash, h.image, h.tiles, h.blocks, h.cores⟩
  · exact h.of_eq rfl rfl rfl rfl rfl rfl rfl

theorem putTileMem {s : State} (h : MemoryForm s) (k : Nat) (d : Memory) (hd : Memory.wf d = true) : MemoryForm (s.putTileMem k d) :=
  ⟨s.putTileMem_wf k d h.hbm hd, h.host, h.flash, h.image, h.tiles, h.blocks, h.cores⟩

theorem ofHbm {s : State} (h : MemoryForm s) (m : Memory) (hm : Memory.wf m = true) : MemoryForm { s with hbm := m } :=
  ⟨hm, h.host, h.flash, h.image, h.tiles, h.blocks, h.cores⟩

theorem countMg {s : State} (h : MemoryForm s) (off : Nat) : MemoryForm (s.countMg off) := by
  unfold State.countMg
  split
  · exact h
  · exact h.of_eq rfl rfl rfl rfl rfl rfl rfl

theorem countMgs {s : State} (h : MemoryForm s) (off n : Nat) : MemoryForm (iter (fun s => s.countMg off) n s) := by
  induction n generalizing s with
  | zero => exact h
  | succ n ih => exact ih (h.countMg off)

theorem ofLineInfo {s : State} (h : MemoryForm s) (m : KMap LineInfo) : MemoryForm { s with lineInfo := m } := h.of_eq rfl rfl rfl rfl rfl rfl rfl

theorem applyEcc {s : State} (h : MemoryForm s) (l : Nat) (c : EccClass) : MemoryForm (s.applyEcc l c) := by
  cases c with
  | corrected n =>
    unfold State.applyEcc
    simp only
    split
    · exact (h.ofLineInfo _).countMgs _ n
    · exact h.ofLineInfo _
  | uncorrectable =>
    unfold State.applyEcc
    simp only
    split
    · exact (h.ofLineInfo _).countMg _
    · exact h.ofLineInfo _
  | undetected => exact (h.ofHbm _ (flipLine_wf _ _ _ h.hbm)).ofLineInfo _
  | clean => exact h.ofLineInfo _
  | open_ => exact h.ofLineInfo _

/-- A controller that meets a line writes no byte but those of an error that it does not see. -/
theorem meetLine {s : State} (h : MemoryForm s) (l : Nat) : MemoryForm (s.meetLine l) := by
  have hc : MemoryForm (s.choose 3).2 := h.of_eq rfl rfl rfl rfl rfl rfl rfl
  unfold State.meetLine
  split
  · exact h
  · split
    · exact hc.applyEcc l _
    · exact h.applyEcc l _

theorem noteCode {s : State} (h : MemoryForm s) (pa n : Nat) : MemoryForm (s.noteCode pa n) := by
  unfold State.noteCode
  generalize s.launches = ls
  induction ls generalizing s with
  | nil => exact h
  | cons a t ih =>
    refine ih ?_
    simp only
    split
    · exact h
    · generalize (List.range a.2.kwords).filter _ = ws
      clear ih
      induction ws generalizing s with
      | nil => exact h
      | cons w t ih => exact ih (h.of_eq rfl rfl rfl rfl rfl rfl rfl)

theorem noteDesc {s : State} (h : MemoryForm s) (pa n : Nat) : MemoryForm (s.noteDesc pa n) := by
  unfold State.noteDesc
  simp only
  split
  · exact h
  · exact h.of_eq rfl rfl rfl rfl rfl rfl rfl

theorem touchLines {s : State} (h : MemoryForm s) (pa n key : Nat) : MemoryForm (s.touchLines pa n key) := by
  unfold State.touchLines
  simp only
  have hl : ∀ (ls : List Nat) (u : State), MemoryForm u → MemoryForm (ls.foldl State.meetLine u) := by
    intro ls
    induction ls with
    | nil => exact fun _ hu => hu
    | cons a t ih => exact fun u hu => ih _ (hu.meetLine a)
  exact ((((hl _ _ h).noteCode pa n).noteDesc pa n).ofLineInfo _)

/-- A store of any width to any place. -/
theorem store {s : State} (h : MemoryForm s) (l : Loc) (n x key : Nat) : MemoryForm (s.store l n x key) := by
  unfold State.store
  cases l with
  | host pa => exact ⟨h.hbm, memWrite_wf _ _ _ _ h.host, h.flash, h.image, h.tiles, h.blocks, h.cores⟩
  | blk b off => exact h.setBlock b _ (memWrite_wf _ _ _ _ (h.block b))
  | hbm pa =>
    simp only
    split
    · exact h.setTile _ _ (memWrite_wf _ _ _ _ (h.tile _))
    · exact (h.touchLines pa n key).hbmWrite pa n x

end MemoryForm

/-- Reset memory lists nothing (R370), so it is in canonical form. -/
theorem reset_memory_wf : Memory.wf State.reset.hbm = true ∧ Memory.wf State.reset.host = true ∧ Memory.wf State.reset.flash = true ∧ Memory.wf State.reset.image = true :=
  ⟨rfl, rfl, rfl, rfl⟩

end Sys2Proof.Machine
end

