-- ==== Sys2Proof/Laws/PerInstr.lean ====
section
/-! SUPPORT. Facts of the syntax, one for each instruction: the quad and the fields of a well-formed word name the word again (R72). -/

namespace Sys2Proof.Laws.Fields

/-- A well-formed word is the one that its quad and its fields name. -/
def Statement (i : Instr) : Prop := WellFormed i → Instr.ofQuad i.quad i.fields = some i

theorem modOk {i : Instr} (h : WellFormed i) : i.shape.modOk = true := by
  unfold WellFormed Instr.wellFormed Instr.cause at h
  simp only [Bool.and_eq_true] at h
  cases hm : i.shape.modOk with
  | true => rfl
  | false =>
    have hc := h.2
    rw [hm] at hc
    split at hc
    · simp at hc
    · split at hc
      · simp at hc
      · simp at hc

theorem notWord {i : Instr} (h : i.isWord = false) : Statement i := by
  intro hw
  unfold WellFormed Instr.wellFormed at hw
  rw [h] at hw
  exact absurd hw (by simp)

theorem add (f : Fields) : Statement (.add f) := by
  intro _
  unfold Instr.quad
  cases h : tyWide f.ty <;> simp only [h, Bool.false_eq_true, if_true, if_false] <;> rfl
theorem sub (f : Fields) : Statement (.sub f) := by
  intro _
  unfold Instr.quad
  cases h : tyWide f.ty <;> simp only [h, Bool.false_eq_true, if_true, if_false] <;> rfl
theorem mul (f : Fields) : Statement (.mul f) := by
  intro _
  unfold Instr.quad
  cases h : tyWide f.ty <;> simp only [h, Bool.false_eq_true, if_true, if_false] <;> rfl
theorem mulh (f : Fields) : Statement (.mulh f) := fun _ => rfl
theorem mad (f : Fields) : Statement (.mad f) := fun _ => rfl
theorem neg (f : Fields) : Statement (.neg f) := fun _ => rfl
theorem abs (f : Fields) : Statement (.abs f) := fun _ => rfl
theorem min (f : Fields) : Statement (.min f) := fun _ => rfl
theorem max (f : Fields) : Statement (.max f) := fun _ => rfl
theorem and (f : Fields) : Statement (.and f) := fun _ => rfl
theorem or (f : Fields) : Statement (.or f) := fun _ => rfl
theorem xor (f : Fields) : Statement (.xor f) := fun _ => rfl
theorem andn (f : Fields) : Statement (.andn f) := fun _ => rfl
theorem shl (f : Fields) : Statement (.shl f) := by
  intro _
  unfold Instr.quad
  cases h : tyWide f.ty <;> simp only [h, Bool.false_eq_true, if_true, if_false] <;> rfl
theorem shr (f : Fields) : Statement (.shr f) := fun _ => rfl
theorem sar (f : Fields) : Statement (.sar f) := fun _ => rfl
theorem clz (f : Fields) : Statement (.clz f) := fun _ => rfl
theorem popc (f : Fields) : Statement (.popc f) := fun _ => rfl
theorem bfx (f : Fields) : Statement (.bfx f) := fun _ => rfl
theorem bfi (f : Fields) : Statement (.bfi f) := fun _ => rfl
theorem sel (f : Fields) : Statement (.sel f) := fun _ => rfl
theorem setp (f : Fields) : Statement (.setp f) := fun _ => rfl
theorem plop (f : Fields) : Statement (.plop f) := fun _ => rfl
theorem p2v (f : Fields) : Statement (.p2v f) := fun _ => rfl
theorem v2p (f : Fields) : Statement (.v2p f) := fun _ => rfl
theorem fadd (f : Fields) : Statement (.fadd f) := fun _ => rfl
theorem fsub (f : Fields) : Statement (.fsub f) := fun _ => rfl
theorem fmul (f : Fields) : Statement (.fmul f) := fun _ => rfl
theorem ffma (f : Fields) : Statement (.ffma f) := fun _ => rfl
theorem fmin (f : Fields) : Statement (.fmin f) := fun _ => rfl
theorem fmax (f : Fields) : Statement (.fmax f) := fun _ => rfl
theorem fsetp (f : Fields) : Statement (.fsetp f) := fun _ => rfl
theorem frcp (f : Fields) : Statement (.frcp f) := fun _ => rfl
theorem frsq (f : Fields) : Statement (.frsq f) := fun _ => rfl
theorem fsqrt (f : Fields) : Statement (.fsqrt f) := fun _ => rfl
theorem fex2 (f : Fields) : Statement (.fex2 f) := fun _ => rfl
theorem flg2 (f : Fields) : Statement (.flg2 f) := fun _ => rfl
theorem frnd (f : Fields) : Statement (.frnd f) := fun _ => rfl
theorem fclass (f : Fields) : Statement (.fclass f) := fun _ => rfl
theorem cvt (f : Fields) : Statement (.cvt f) := fun _ => rfl
theorem hadd2 (f : Fields) : Statement (.hadd2 f) := fun _ => rfl
theorem hmul2 (f : Fields) : Statement (.hmul2 f) := fun _ => rfl
theorem hfma2 (f : Fields) : Statement (.hfma2 f) := fun _ => rfl
theorem hmax2 (f : Fields) : Statement (.hmax2 f) := fun _ => rfl
theorem pack (f : Fields) : Statement (.pack f) := fun _ => rfl
theorem unpk (f : Fields) : Statement (.unpk f) := fun _ => rfl
theorem mov (f : Fields) : Statement (.mov f) := fun _ => rfl
theorem vrd (f : Fields) : Statement (.vrd f) := fun _ => rfl
theorem rdsp (f : Fields) : Statement (.rdsp f) := fun _ => rfl
theorem wrsp (f : Fields) : Statement (.wrsp f) := fun _ => rfl
theorem shfl (f : Fields) : Statement (.shfl f) := fun _ => rfl
theorem vote (f : Fields) : Statement (.vote f) := fun _ => rfl
theorem lred (f : Fields) : Statement (.lred f) := fun _ => rfl
theorem lscan (f : Fields) : Statement (.lscan f) := fun _ => rfl
theorem match_ (f : Fields) : Statement (.match_ f) := fun _ => rfl
theorem bra (f : Fields) : Statement (.bra f) := fun _ => rfl
theorem brx (f : Fields) : Statement (.brx f) := fun _ => rfl
theorem call (f : Fields) : Statement (.call f) := fun _ => rfl
theorem ret (f : Fields) : Statement (.ret f) := fun _ => rfl
theorem exit (f : Fields) : Statement (.exit f) := fun _ => rfl
theorem pblk (f : Fields) : Statement (.pblk f) := fun _ => rfl
theorem nop (f : Fields) : Statement (.nop f) := fun _ => rfl
theorem brk (f : Fields) : Statement (.brk f) := fun _ => rfl
theorem trap (f : Fields) : Statement (.trap f) := fun _ => rfl
theorem mjoin (f : Fields) : Statement (.mjoin f) := fun _ => rfl
theorem mleave (f : Fields) : Statement (.mleave f) := fun _ => rfl
theorem mwait (f : Fields) : Statement (.mwait f) := fun _ => rfl
theorem mpoll (f : Fields) : Statement (.mpoll f) := fun _ => rfl
theorem mrd (f : Fields) : Statement (.mrd f) := fun _ => rfl
theorem reform (f : Fields) : Statement (.reform f) := fun _ => rfl
theorem bsync (f : Fields) : Statement (.bsync f) := fun _ => rfl
theorem barv (f : Fields) : Statement (.barv f) := fun _ => rfl
theorem bwt (f : Fields) : Statement (.bwt f) := fun _ => rfl
theorem nbatt (f : Fields) : Statement (.nbatt f) := fun _ => rfl
theorem nbarv (f : Fields) : Statement (.nbarv f) := fun _ => rfl
theorem nbwt (f : Fields) : Statement (.nbwt f) := fun _ => rfl
theorem nbdet (f : Fields) : Statement (.nbdet f) := fun _ => rfl
theorem twait (f : Fields) : Statement (.twait f) := fun _ => rfl
theorem waddr (f : Fields) : Statement (.waddr f) := fun _ => rfl
theorem xacq (f : Fields) : Statement (.xacq f) := fun _ => rfl
theorem xrel (f : Fields) : Statement (.xrel f) := fun _ => rfl
theorem region (f : Fields) : Statement (.region f) := fun _ => rfl
theorem ppoint (f : Fields) : Statement (.ppoint f) := fun _ => rfl
theorem tret (f : Fields) : Statement (.tret f) := fun _ => rfl
theorem ld (f : Fields) : Statement (.ld f) := fun _ => rfl
theorem st (f : Fields) : Statement (.st f) := fun _ => rfl
theorem spill (f : Fields) : Statement (.spill f) := fun _ => rfl
theorem fill (f : Fields) : Statement (.fill f) := fun _ => rfl
theorem atom (f : Fields) : Statement (.atom f) := fun _ => rfl
theorem cas (f : Fields) : Statement (.cas f) := fun _ => rfl
theorem red (f : Fields) : Statement (.red f) := fun _ => rfl
theorem phaseRel (f : Fields) : Statement (.phaseRel f) := by
  intro h
  have hm : f.mod = 0 := eq_of_beq (modOk h)
  have hx : f.opx = 0 := by unfold Fields.opx; rw [hm]; rfl
  show (if f.opx = 1 then some (Instr.phaseAcq f) else if f.opx = 2 then some (Instr.phaseAr f) else some (Instr.phaseRel f)) = _
  rw [hx]
  rfl
theorem phaseAcq (f : Fields) : Statement (.phaseAcq f) := by
  intro h
  have hm : f.mod = 1 := eq_of_beq (modOk h)
  have hx : f.opx = 1 := by unfold Fields.opx; rw [hm]; rfl
  show (if f.opx = 1 then some (Instr.phaseAcq f) else if f.opx = 2 then some (Instr.phaseAr f) else some (Instr.phaseRel f)) = _
  rw [hx]
  rfl
theorem phaseAr (f : Fields) : Statement (.phaseAr f) := by
  intro h
  have hm : f.mod = 2 := eq_of_beq (modOk h)
  have hx : f.opx = 2 := by unfold Fields.opx; rw [hm]; rfl
  show (if f.opx = 1 then some (Instr.phaseAcq f) else if f.opx = 2 then some (Instr.phaseAr f) else some (Instr.phaseRel f)) = _
  rw [hx]
  rfl
theorem pfence (f : Fields) : Statement (.pfence f) := fun _ => rfl
theorem sbwait (f : Fields) : Statement (.sbwait f) := fun _ => rfl
theorem tsync (f : Fields) : Statement (.tsync f) := fun _ => rfl
theorem untaint (f : Fields) : Statement (.untaint f) := fun _ => rfl
theorem tfetch (f : Fields) : Statement (.tfetch f) := fun _ => rfl
theorem tevict (f : Fields) : Statement (.tevict f) := fun _ => rfl
theorem mdld (f : Fields) : Statement (.mdld f) := fun _ => rfl
theorem mdst (f : Fields) : Statement (.mdst f) := fun _ => rfl
theorem cp (f : Fields) : Statement (.cp f) := fun _ => rfl
theorem cpq (f : Fields) : Statement (.cpq f) := fun _ => rfl
theorem cpflag (f : Fields) : Statement (.cpflag f) := fun _ => rfl
theorem cpcommit (f : Fields) : Statement (.cpcommit f) := fun _ => rfl
theorem cpwait (f : Fields) : Statement (.cpwait f) := fun _ => rfl
theorem cpst (f : Fields) : Statement (.cpst f) := fun _ => rfl
theorem scfg (f : Fields) : Statement (.scfg f) := fun _ => rfl
theorem mma (f : Fields) : Statement (.mma f) := fun _ => rfl
theorem szero (f : Fields) : Statement (.szero f) := fun _ => rfl
theorem smovIn (f : Fields) : Statement (.smovIn f) := by
  intro h
  have hm : f.mod &&& 0x3F9 = 0 := eq_of_beq (modOk h)
  have hx : (f.opx.extractLsb' 0 1 = 1#1) = False := by
    unfold Fields.opx
    revert hm
    generalize f.mod = m
    revert m
    decide +kernel
  show (if f.opx.extractLsb' 0 1 = 1#1 then some (Instr.smovOut f) else some (Instr.smovIn f)) = _
  simp only [hx, if_false]
theorem smovOut (f : Fields) : Statement (.smovOut f) := by
  intro h
  have hm : f.mod &&& 0x3F9 = 1 := eq_of_beq (modOk h)
  have hx : (f.opx.extractLsb' 0 1 = 1#1) = True := by
    unfold Fields.opx
    revert hm
    generalize f.mod = m
    revert m
    decide +kernel
  show (if f.opx.extractLsb' 0 1 = 1#1 then some (Instr.smovOut f) else some (Instr.smovIn f)) = _
  simp only [hx, if_true]
theorem quant (f : Fields) : Statement (.quant f) := fun _ => rfl
theorem bexp (f : Fields) : Statement (.bexp f) := fun _ => rfl
theorem swb (f : Fields) : Statement (.swb f) := fun _ => rfl
theorem samax (f : Fields) : Statement (.samax f) := fun _ => rfl
theorem bput (f : Fields) : Statement (.bput f) := fun _ => rfl
theorem bputk (f : Fields) : Statement (.bputk f) := fun _ => rfl
theorem bputv (f : Fields) : Statement (.bputv f) := fun _ => rfl
theorem bcommit (f : Fields) : Statement (.bcommit f) := fun _ => rfl
theorem bsquash (f : Fields) : Statement (.bsquash f) := fun _ => rfl
theorem bcount (f : Fields) : Statement (.bcount f) := fun _ => rfl
theorem bdrain (f : Fields) : Statement (.bdrain f) := fun _ => rfl
theorem bnext (f : Fields) : Statement (.bnext f) := fun _ => rfl
theorem bclose (f : Fields) : Statement (.bclose f) := fun _ => rfl
theorem bstat (f : Fields) : Statement (.bstat f) := fun _ => rfl
theorem xpost (f : Fields) : Statement (.xpost f) := fun _ => rfl
theorem xbcast (f : Fields) : Statement (.xbcast f) := fun _ => rfl
theorem xfence (f : Fields) : Statement (.xfence f) := fun _ => rfl
theorem qlaunch (f : Fields) : Statement (.qlaunch f) := fun _ => rfl
theorem issueChoice (core slot : Nat) : Statement (.issueChoice core slot) := notWord rfl
theorem starvationForce (gid : Nat) : Statement (.starvationForce gid) := notWord rfl
theorem maskArrival (gid lane : Nat) : Statement (.maskArrival gid lane) := notWord rfl
theorem barrierArrival (gid lane bar : Nat) : Statement (.barrierArrival gid lane bar) := notWord rfl
theorem namedBarrierArrival (gid name : Nat) : Statement (.namedBarrierArrival gid name) := notWord rfl
theorem twaitExpiry (gid lane : Nat) : Statement (.twaitExpiry gid lane) := notWord rfl
theorem waddrReread (gid lane : Nat) : Statement (.waddrReread gid lane) := notWord rfl
theorem allocatorGrant (core : Nat) : Statement (.allocatorGrant core) := notWord rfl
theorem compactorMove (core start target : Nat) : Statement (.compactorMove core start target) := notWord rfl
theorem clearEngineGranule (core : Nat) : Statement (.clearEngineGranule core) := notWord rfl
theorem sifterAgeCapExpiry (core bin : Nat) : Statement (.sifterAgeCapExpiry core bin) := notWord rfl
theorem sifterBinDraw (core bin : Nat) : Statement (.sifterBinDraw core bin) := notWord rfl
theorem gangEnd (gid : Nat) : Statement (.gangEnd gid) := notWord rfl
theorem loadPerform (gid id : Nat) : Statement (.loadPerform gid id) := notWord rfl
theorem storeAck (gid : Nat) : Statement (.storeAck gid) := notWord rfl
theorem translationWalk (core asid space va : Nat) : Statement (.translationWalk core asid space va) := notWord rfl
theorem memoryFaultPark (gid : Nat) : Statement (.memoryFaultPark gid) := notWord rfl
theorem faultRecordPost (core : Nat) : Statement (.faultRecordPost core) := notWord rfl
theorem faultAckRetry (core seq : Nat) : Statement (.faultAckRetry core seq) := notWord rfl
theorem faultAckDeliver (core seq : Nat) : Statement (.faultAckDeliver core seq) := notWord rfl
theorem faultAckKill (core seq : Nat) : Statement (.faultAckKill core seq) := notWord rfl
theorem dbgResume (core seq : Nat) : Statement (.dbgResume core seq) := notWord rfl
theorem traySwitch (core : Nat) : Statement (.traySwitch core) := notWord rfl
theorem contextLoad (core block : Nat) : Statement (.contextLoad core block) := notWord rfl
theorem backgroundSpill (core : Nat) : Statement (.backgroundSpill core) := notWord rfl
theorem sliceRequest (slice src : Nat) : Statement (.sliceRequest slice src) := notWord rfl
theorem tileArrival (tile : Nat) : Statement (.tileArrival tile) := notWord rfl
theorem tileEviction (tile : Nat) : Statement (.tileEviction tile) := notWord rfl
theorem hotTilePromotion (tile : Nat) : Statement (.hotTilePromotion tile) := notWord rfl
theorem hotTileDecay (slice : Nat) : Statement (.hotTileDecay slice) := notWord rfl
theorem phaseCacheEviction (core line : Nat) : Statement (.phaseCacheEviction core line) := notWord rfl
theorem hbmRequest (chan idx : Nat) : Statement (.hbmRequest chan idx) := notWord rfl
theorem pageReencrypt (page : Nat) : Statement (.pageReencrypt page) := notWord rfl
theorem scrubLine (line : Nat) : Statement (.scrubLine line) := notWord rfl
theorem copyChunk (core id chunk : Nat) : Statement (.copyChunk core id chunk) := notWord rfl
theorem copyComplete (core id : Nat) : Statement (.copyComplete core id) := notWord rfl
theorem mmaHandover (core idx : Nat) : Statement (.mmaHandover core idx) := notWord rfl
theorem mmaAccept (core : Nat) : Statement (.mmaAccept core) := notWord rfl
theorem mmaComplete (core : Nat) : Statement (.mmaComplete core) := notWord rfl
theorem bagAdmit (bag src : Nat) : Statement (.bagAdmit bag src) := notWord rfl
theorem bagPlace (bag put stack bank : Nat) : Statement (.bagPlace bag put stack bank) := notWord rfl
theorem bagSettle (bag op steward : Nat) : Statement (.bagSettle bag op steward) := notWord rfl
theorem bagCut (bag cursor bank : Nat) : Statement (.bagCut bag cursor bank) := notWord rfl
theorem bagClaim (bag op rec : Nat) : Statement (.bagClaim bag op rec) := notWord rfl
theorem bagFree (bag idx : Nat) : Statement (.bagFree bag idx) := notWord rfl
theorem egressArbitration (port idx : Nat) : Statement (.egressArbitration port idx) := notWord rfl
theorem packetAgeSaturation (pkt : Nat) : Statement (.packetAgeSaturation pkt) := notWord rfl
theorem postDelivery (pkt unit : Nat) : Statement (.postDelivery pkt unit) := notWord rfl
theorem postAck (pkt : Nat) : Statement (.postAck pkt) := notWord rfl
theorem flitUncorr (pkt : Nat) : Statement (.flitUncorr pkt) := notWord rfl
theorem corruptHeader (pkt : Nat) : Statement (.corruptHeader pkt) := notWord rfl
theorem clusterReset (cluster : Nat) : Statement (.clusterReset cluster) := notWord rfl
theorem partitionRestitch (part : Nat) : Statement (.partitionRestitch part) := notWord rfl
theorem queueBell (queue : Nat) : Statement (.queueBell queue) := notWord rfl
theorem queueSlotMap (queue : Nat) : Statement (.queueSlotMap queue) := notWord rfl
theorem queueExamine (hwslot : Nat) : Statement (.queueExamine hwslot) := notWord rfl
theorem clusterInstancePlace (launch : Nat) : Statement (.clusterInstancePlace launch) := notWord rfl
theorem launchComplete (launch : Nat) : Statement (.launchComplete launch) := notWord rfl
theorem sliceExpiry (core queue : Nat) : Statement (.sliceExpiry core queue) := notWord rfl
theorem boot : Statement .boot := notWord rfl
theorem bootCmdRecover : Statement .bootCmdRecover := notWord rfl
theorem keyLoad (keySlot : Nat) : Statement (.keyLoad keySlot) := notWord rfl
theorem keyErase (keySlot : Nat) : Statement (.keyErase keySlot) := notWord rfl
theorem xlatInv (asid : Nat) : Statement (.xlatInv asid) := notWord rfl
theorem partCmd (value : Nat) : Statement (.partCmd value) := notWord rfl
theorem attestRequest : Statement .attestRequest := notWord rfl
theorem corePolicyWrite (core value : Nat) : Statement (.corePolicyWrite core value) := notWord rfl
theorem frecConfigWrite (off value : Nat) : Statement (.frecConfigWrite off value) := notWord rfl
theorem mgmtRegisterWrite (off value : Nat) : Statement (.mgmtRegisterWrite off value) := notWord rfl
theorem supplySag (die : Nat) : Statement (.supplySag die) := notWord rfl
theorem supplyRecovery (die : Nat) : Statement (.supplyRecovery die) := notWord rfl
theorem marginReplan : Statement .marginReplan := notWord rfl
theorem postanLinkDown (port : Nat) : Statement (.postanLinkDown port) := notWord rfl
theorem postanLinkUp (port : Nat) : Statement (.postanLinkUp port) := notWord rfl
theorem reservationBudgetRefill : Statement .reservationBudgetRefill := notWord rfl
theorem xlatInvDone (asid : Nat) : Statement (.xlatInvDone asid) := notWord rfl
theorem fabricPortAccess (src : Nat) : Statement (.fabricPortAccess src) := notWord rfl

end Sys2Proof.Laws.Fields
end

