-- ==== Sys2Proof/Laws/Reads.lean ====
section
/-! SUPPORT. What the read of a table can change (R404 to R408): the errors that stand in its lines, their counters, and the records that
tell of them. Where no error stands in its lines it changes nothing. -/

namespace Sys2Proof.Machine

/-- `t` is `s` after reads of tables: the controllers have met lines, counted, and told of what they found. -/
structure State.Read (s t : State) : Prop where
  rest : t = { s with hbm := t.hbm, lineInfo := t.lineInfo, mgmt := t.mgmt, cores := t.cores }
  core : ∀ k, t.core k = { s.core k with seq := (t.core k).seq, recQ := (t.core k).recQ }

theorem State.Read.rfl_ (s : State) : s.Read s := ⟨rfl, fun _ => rfl⟩

theorem State.Read.trans {s t u : State} (h : s.Read t) (h' : t.Read u) : s.Read u := by
  refine ⟨?_, fun k => ?_⟩
  · rw [h'.rest, h.rest]
  · rw [h'.core k, h.core k]

/-- A fold of reads is a read. -/
theorem State.Read.foldl {α : Type} (f : State → α → State) (h : ∀ (s : State) (a : α), s.Read (f s a)) (l : List α) (s : State) : s.Read (l.foldl f s) := by
  induction l generalizing s with
  | nil => exact .rfl_ s
  | cons a l ih => exact (h s a).trans (ih _)

theorem State.countMg_read (s : State) (off : Nat) : s.Read (s.countMg off) := by
  unfold State.countMg
  split
  · exact .rfl_ s
  · exact ⟨rfl, fun _ => rfl⟩

theorem State.clearFlips_read (s : State) (l : Nat) (p : Bool) : s.Read (s.clearFlips l p) := ⟨rfl, fun _ => rfl⟩

/-- What a controller does with a line's error. -/
theorem State.applyEcc_read (s : State) (l : Nat) (c : EccClass) : s.Read (s.applyEcc l c) := by
  have counts : ∀ n off (u : State), u.Read (iter (fun s => s.countMg off) n u) := by
    intro n off
    induction n with
    | zero => exact fun u => .rfl_ u
    | succ n ih => exact fun u => (u.countMg_read off).trans (ih _)
  unfold State.applyEcc
  cases c with
  | corrected n =>
    simp only
    split
    · exact (s.clearFlips_read l false).trans (counts n _ _)
    · exact s.clearFlips_read l false
  | uncorrectable =>
    simp only
    split
    · exact (s.clearFlips_read l true).trans (State.countMg_read _ _)
    · exact s.clearFlips_read l true
  | undetected => exact ⟨rfl, fun _ => rfl⟩
  | clean => exact s.clearFlips_read l false
  | open_ => exact s.clearFlips_read l false

theorem State.postRas_read (s : State) (kind stack off : Nat) : s.Read (s.postRas kind stack off) := by
  refine ⟨rfl, fun k => ?_⟩
  unfold State.postRas State.post
  simp only [State.setCore_core]
  split
  · rename_i h; subst h; rfl
  · rfl

theorem State.readTable_read (s : State) (pa n : Nat) : s.Read (s.readTable pa n) := by
  refine .foldl _ (fun u l => ?_) _ s
  have h : u.Read (if (kget u.lineInfo l).flips = 0 then u else u.applyEcc l (match u.classOf l with | .open_ => .uncorrectable | c => c)) := by
    split
    · exact .rfl_ u
    · exact u.applyEcc_read l _
  dsimp only
  split
  · exact h.trans (State.postRas_read _ _ _ _)
  · exact h

theorem State.readEnt_read (s : State) (asid idx : Nat) : s.Read (s.readEnt asid idx) := by
  unfold State.readEnt
  dsimp only
  split
  · exact (s.readTable_read _ _).trans (State.readTable_read _ _ _)
  · exact s.readTable_read _ _

theorem State.readHandles_read (s : State) (asid : Nat) (hs : List Nat) : s.Read (s.readHandles asid hs) :=
  .foldl _ (fun u h => u.readEnt_read asid h) _ s

theorem State.readEnts_read (s : State) (asid : Nat) (cs : List Chk) : s.Read (s.readEnts asid cs) := s.readHandles_read asid _

/-! ## Where no error stands -/

/-- The lines hold no flipped bit and pass the tree check. -/
def State.LinesWhole (s : State) : Prop := ∀ l, (kget s.lineInfo l).flips = 0 ∧ (kget s.lineInfo l).forged = false

theorem State.readTable_whole (s : State) (h : s.LinesWhole) (pa n : Nat) : s.readTable pa n = s := by
  unfold State.readTable
  generalize linesOf pa n = ls
  induction ls with
  | nil => rfl
  | cons l ls ih =>
    rw [List.foldl_cons]
    dsimp only at ih ⊢
    rw [if_pos (h l).1, (h l).2]
    exact ih

theorem State.readEnt_whole (s : State) (h : s.LinesWhole) (asid idx : Nat) : s.readEnt asid idx = s := by
  unfold State.readEnt
  rw [s.readTable_whole h]
  dsimp only
  split
  · exact s.readTable_whole h _ _
  · rfl

theorem State.readHandles_whole (s : State) (h : s.LinesWhole) (asid : Nat) (hs : List Nat) : s.readHandles asid hs = s := by
  unfold State.readHandles
  generalize (hs.map (· % 2 ^ 16)).eraseDups = l
  induction l with
  | nil => rfl
  | cons a l ih => rw [List.foldl_cons, s.readEnt_whole h]; exact ih

theorem State.readEnts_whole (s : State) (h : s.LinesWhole) (asid : Nat) (cs : List Chk) : s.readEnts asid cs = s := s.readHandles_whole h asid _

end Sys2Proof.Machine
end

