-- ==== Sys2Proof/Laws/Service.lean ====
section
/-! SUPPORT. What the shared operations of the points of service can change: pages, budgets, lags, tracker counts, and what a write of
main memory leaves of the launches and queues that it meets. -/

namespace Sys2Proof.Machine

/-! ## Pages and channels (R397, R403, R408) -/

/-- An access at the gate of its page changes nothing but the pages. -/
theorem State.gate_frame (s : State) (pa key : Nat) (full : Bool) (tok : PageTok) :
    (s.gate pa key full tok).2 = { s with pages := (s.gate pa key full tok).2.pages } := by
  unfold State.gate
  split
  · rfl
  · split
    · rfl
    · split <;> rfl

/-- It is let in exactly where its turn has come and no minor counter would run out. -/
theorem State.gate_open (s : State) (pa key : Nat) (full : Bool) (tok : PageTok) :
    (s.gate pa key full tok).1 = (s.pageTurn pa (some tok) && !full) := by
  unfold State.gate
  cases s.pageTurn pa (some tok)
  · simp
  · cases full
    · simp only [Bool.not_true, Bool.false_eq_true, if_false, Bool.true_and, Bool.not_false]
      split <;> rfl
    · simp

/-- An access that is let in where nothing waits leaves the machine as it is. -/
theorem State.gate_idle (s : State) (pa key : Nat) (tok : PageTok) (h : s.pageTurn pa (some tok) = true)
    (he : (kget s.pages (pa / 4096)).wait = []) : s.gate pa key false tok = (true, s) := by
  simp [State.gate, h, he]

/-- A transfer changes nothing but the budgets. -/
theorem State.takeBudget_frame (s : State) (queue chan : Nat) : s.takeBudget queue chan = { s with spent := (s.takeBudget queue chan).spent } := by
  unfold State.takeBudget
  split <;> rfl

/-- The transfers of an access change nothing but the budgets. -/
theorem State.chanTake_frame (s : State) (queue pa n : Nat) : s.chanTake queue pa n = { s with spent := (s.chanTake queue pa n).spent } := by
  unfold State.chanTake
  generalize chansOf pa n = l
  induction l generalizing s with
  | nil => rfl
  | cons c l ih =>
    rw [List.foldl_cons, ih, State.takeBudget_frame s queue c]

/-! ## Paths (R21, R266, R272, R301) -/

theorem State.order_frame (s : State) (ws rs : List Path) (gid upto : Nat) :
    s.order ws rs gid upto = { s with lags := (s.order ws rs gid upto).lags } := rfl

/-- After a fence every engine path of its readers is ordered behind each write of its writer paths that stands before it, for its gang. -/
theorem State.order_seen (s : State) (ws rs : List Path) (gid upto : Nat) (g : Lag) (h : g ∈ (s.order ws rs gid upto).lags)
    (hf : g.from_ ∈ ws) (hn : g.num ≤ upto) :
    ∀ p ∈ rs, p ∈ enginePaths → ∃ y ∈ g.seen, y.gid = gid ∧ y.path = p := by
  unfold State.order at h
  obtain ⟨x, -, rfl⟩ := List.mem_map.1 h
  intro p hp he
  by_cases hx : (ws.contains x.from_ && (decide (x.num ≤ upto) || (x.gid == gid && x.loc.isBlk && decide (x.req ≤ upto)))) = true
  · rw [if_pos hx]
    by_cases ho : x.seen.all (fun y => !(y.gid == gid && y.path == p)) = true
    · refine ⟨⟨gid, p, s.next⟩, List.mem_append_right _ (List.mem_filter.2 ⟨List.mem_map.2 ⟨p, ?_, rfl⟩, ho⟩), rfl, rfl⟩
      exact List.mem_filter.2 ⟨hp, List.contains_iff_mem.2 he⟩
    · obtain ⟨y, hy, hy'⟩ := List.all_eq_false.1 (Bool.eq_false_iff.2 ho)
      exact ⟨y, List.mem_append_left _ hy, by simpa using hy'⟩
  · rw [if_neg hx] at hf hn
    have hw : ws.contains x.from_ = true := List.contains_iff_mem.2 hf
    exact absurd (by rw [hw, decide_eq_true hn]; rfl) hx

/-- A copy that a gang observes the end of changes no byte and no order but its own. -/
theorem State.observe_frame (s : State) (gid serial : Nat) : s.observe gid serial = { s with lags := (s.observe gid serial).lags } := rfl

theorem State.meet_frame (s : State) (l : List Lag) (serial : Nat) : s.meet l serial = { s with lags := (s.meet l serial).lags } := by
  unfold State.meet
  split <;> rfl

/-! ## What a write of main memory meets (R383, R384, R387) -/

theorem State.noteDesc_frame (s : State) (pa n : Nat) : s.noteDesc pa n = { s with queues := (s.noteDesc pa n).queues } := by
  unfold State.noteDesc
  simp only
  split <;> rfl

theorem State.setGrade_frame (s : State) (space frame grade : Nat) : s.setGrade space frame grade = { s with grades := (s.setGrade space frame grade).grades } := by
  unfold State.setGrade
  split <;> rfl

/-! ## The hot-tile tracker (R244) -/

/-- Halving counts changes nothing but the counts and the cycle up to which they are halved. -/
theorem State.hotSettle_frame (s : State) (slice : Nat) :
    s.hotSettle slice = { s with clusters := (s.hotSettle slice).clusters, tiles := (s.hotSettle slice).tiles } := by
  unfold State.hotSettle
  simp only
  split
  · rfl
  · split <;> rfl

end Sys2Proof.Machine
end

