-- ==== Sys2Proof/Laws/Shared.lean ====
section
/-! SUPPORT. What the operations that many words share can do: traps, completion waits, and the courses of accesses and of commands. -/

namespace Sys2Proof.Machine

/-! ## Traps (R198 to R203) -/

/-- A gang outside a handler whose cause has an entry enters the handler there. -/
theorem State.takeTrap_enter (s : State) (gid cause sub : Nat) (info pc entry : Word) (mask : Lanes) (mf : Option FailSet)
    (ht : (s.gang gid).trap = false) (he : s.trapEntry gid cause = some entry) :
    s.takeTrap gid cause sub info pc mask mf = (s.setGang gid
      { ((lanesOf ((s.gang gid).lanesWith (fun t => t.st == .ready || t.st == .waiting))).foldl
          (fun g l => g.modThread l (fun t => t.enterTrap (g.regs.preds l) entry)) (s.gang gid)) with
        trap := true, tCause := BitVec.ofNat 8 cause, tSub := BitVec.ofNat 8 sub, tPc := pc, tInfo := info, tMask := mask, trapAt := (s.gang gid).serial
        held := (s.gang gid).dropWaits.held
        pend := (s.gang gid).dropWaits.pend.filter (fun p => !p.fixed)
        stallTo := s.beatsEnd gid, starve := 0 }).clearLast gid := by
  unfold State.takeTrap
  simp only [ht, Bool.false_eq_true, if_false, he]

/-- In a handler, or without an entry, the trap escalates. -/
theorem State.takeTrap_escalate (s : State) (gid cause sub : Nat) (info pc : Word) (mask : Lanes) (mf : Option FailSet)
    (h : (s.gang gid).trap = true ∨ s.trapEntry gid cause = none) :
    s.takeTrap gid cause sub info pc mask mf = s.escalate gid cause info.toNat pc mask mf := by
  unfold State.takeTrap
  rcases h with h | h
  · simp only [h, if_true]
  · simp only [h, ite_self]

/-- A trap is one of the two. -/
theorem State.takeTrap_cases (s : State) (gid cause sub : Nat) (info pc : Word) (mask : Lanes) (mf : Option FailSet) :
    s.takeTrap gid cause sub info pc mask mf = s.escalate gid cause info.toNat pc mask mf ∨
      ∃ g : Gang, s.takeTrap gid cause sub info pc mask mf = (s.setGang gid g).clearLast gid ∧ g.trap = true := by
  by_cases ht : (s.gang gid).trap = true
  · exact .inl (s.takeTrap_escalate gid cause sub info pc mask mf (.inl ht))
  · cases he : s.trapEntry gid cause with
    | none => exact .inl (s.takeTrap_escalate gid cause sub info pc mask mf (.inr he))
    | some entry => exact .inr ⟨_, s.takeTrap_enter gid cause sub info pc entry mask mf (by simpa using ht) he, rfl⟩

/-- Outside the gangs and the cores' slots, entering a handler changes nothing. -/
theorem State.clearLast_frame (s : State) (gid : Nat) : s.clearLast gid = { s with cores := (s.clearLast gid).cores } := rfl

/-! ## Completion waits (R204) -/

/-- A completion wait changes the gang and, the first time, takes one of the model's numbers; nothing else. -/
theorem State.hold_frame (s : State) (e : Lanes) (c : HoldCond) (n : Nat) (i : Instr) :
    s.hold e c n i = { s with gangs := (s.hold e c n i).gangs, next := (s.hold e c n i).next } := by
  unfold State.hold State.pendId
  by_cases h : s.cur.pid = 0
  · rw [if_pos h]; rfl
  · rw [if_neg h]; rfl

theorem State.latchClk_frame (s : State) (i : Instr) (e : Lanes) : s.latchClk i e = { s with gangs := (s.latchClk i e).gangs } := by
  unfold State.latchClk
  split <;> rfl

/-! ## Accesses and commands (R228, R251, R294) -/

/-- An access word goes on to a next state, but where an access that passes its checks names an address on no stack. -/
theorem memBundle_outcome (i : Instr) (m : Ask) (waits : Bool) (path : Nat) (chk : State → Regs → Nat → Chk)
    (act : State → Regs → Lanes → List (Nat × Target) → State) (s : State) :
    (∃ t, memBundle i m waits path chk act s = .next t) ∨
      (memBundle i m waits path chk act s = .fault .noSuchAddress ∧ ∃ l t pa, chk s s.view l = .ok t ∧ t.loc = .hbm pa ∧ hbmExists pa = false) := by
  generalize h : memBundle i m waits path chk act s = o
  unfold memBundle at h
  extract_lets e gid g ids at h
  split at h
  · exact .inl ⟨_, h.symm⟩
  split at h
  · exact .inl ⟨_, h.symm⟩
  rename_i r cs walks fails oks bad good s3 s2 s1 s0 asid h1 h0
  split at h
  · exact .inl ⟨_, h.symm⟩
  split at h
  · rename_i hx
    refine .inr ⟨h.symm, ?_⟩
    obtain ⟨x, hx, hb⟩ := List.any_eq_true.mp hx
    obtain ⟨c, hc, hm⟩ := List.mem_filterMap.mp hx
    obtain ⟨l, -, rfl⟩ := List.mem_map.mp hc
    cases ht : chk s r l with
    | ok t =>
      rw [ht] at hm
      cases hm
      cases hl : t.loc with
      | hbm pa => rw [hl] at hb; exact ⟨l, t, pa, ht, hl, by simpa using hb⟩
      | host pa => rw [hl] at hb; cases hb
      | blk b o => rw [hl] at hb; cases hb
    | fail => rw [ht] at hm; cases hm
    | walk => rw [ht] at hm; cases hm
  · split at h
    · exact .inl ⟨_, h.symm⟩
    · exact .inl ⟨_, h.symm⟩

/-- A command either acts, with its checks passed and every place on a stack, or goes on to a next state without acting, or names an address on no stack. -/
theorem cmdBundle_outcome (i : Instr) (path : Nat) (illop : State → Regs → Lanes → Bool) (ends : State → Regs → Lanes → List Chk)
    (act : State → Regs → Lanes → List Target → Out) (s : State) :
    (∃ t, cmdBundle i path illop ends act s = .next t) ∨
      (cmdBundle i path illop ends act s = .fault .noSuchAddress ∧
        ∃ t pa, Chk.ok t ∈ ends s s.view (s.execLanes i.fields) ∧ t.loc = .hbm pa ∧ hbmExists pa = false) ∨
      (illop s s.view (s.execLanes i.fields) = false ∧ ∃ s' ts, cmdBundle i path illop ends act s = act s' s.view (s.execLanes i.fields) ts ∧
        ∀ t ∈ ts, Chk.ok t ∈ ends s s.view (s.execLanes i.fields)) := by
  generalize h : cmdBundle i path illop ends act s = o
  unfold cmdBundle at h
  extract_lets e gid g ids at h
  split at h
  · exact .inl ⟨_, h.symm⟩
  split at h
  · exact .inl ⟨_, h.symm⟩
  split at h
  · exact .inl ⟨_, h.symm⟩
  rename_i r cs walks oks fails named near h2 h1 hi
  have mem : ∀ t ∈ oks, Chk.ok t ∈ cs := by
    intro t ht
    obtain ⟨c, hc, hm⟩ := List.mem_filterMap.mp ht
    cases c with
    | ok x => cases hm; exact hc
    | fail => cases hm
    | walk => cases hm
  split at h
  · exact .inl ⟨_, h.symm⟩
  split at h
  · exact .inr (.inr ⟨by simpa using hi, _, [], h.symm, by simp⟩)
  split at h
  · exact .inl ⟨_, h.symm⟩
  split at h
  · rename_i hx
    obtain ⟨t, ht, hb⟩ := List.any_eq_true.mp hx
    cases hl : t.loc with
    | hbm pa => rw [hl] at hb; exact .inr (.inl ⟨h.symm, t, pa, mem t ht, hl, by simpa using hb⟩)
    | host pa => rw [hl] at hb; cases hb
    | blk b o => rw [hl] at hb; cases hb
  · exact .inr (.inr ⟨by simpa using hi, _, _, h.symm, mem⟩)

end Sys2Proof.Machine
end

