-- ==== Sys2Proof/Laws/Words.lean ====
section
/-! SUPPORT. What the words beside the arithmetic ones give: lane operations, reads of masks and control registers, control transfers. -/

namespace Sys2Proof.Machine

/-- What a lane operation gives. -/
theorem laneOp_completes (i : Instr) (s : State) (res : State → Regs → Lanes → List (Nat × BitVec 64) × BitVec 5) (val : Nat → BitVec 64)
    (fl : BitVec 5) (hx : exec i s = laneOp i s res) (hd : destOk i.fields.d (Instr.uniform i) 1 = true)
    (hv : s.execLanes i.fields ≠ 0 → (res s s.view (s.execLanes i.fields)).1.map (fun v => (v.1, v.2.setWidth 128)) =
      resultVals i.fields.d (Instr.uniform i) (s.execLanes i.fields) (fun l => (val l).setWidth 128))
    (hf : fl = if s.execLanes i.fields = 0 then 0 else (res s s.view (s.execLanes i.fields)).2) :
    Completes i 1 10 false (fun l => (val l).setWidth 128) fl s := by
  subst hf
  refine ⟨_, gave_of_afterWord s i 1 _ _ 10 false _ hd rfl, ?_⟩
  rw [hx, ← State.trapFlags_after, ← State.word_eq]
  unfold laneOp
  simp only
  by_cases he : s.execLanes i.fields = 0
  · simp only [he, if_true]
  · simp only [he, if_false]
    rw [hv he]

/-- The words that no operand of which is `sp.clk` leave the latch alone. -/
theorem State.clkhAfter_of (s : State) (i : Instr) (e : Lanes) (h : Instr.readsClk i = false) : s.clkhAfter i e = s.me.clkh := by
  simp [State.clkhAfter, h]

/-- A word that writes a result and moves on, raising nothing. -/
theorem gave_of_writeBack (s : State) (i : Instr) (n : Nat) (val : Nat → BitVec 128) (vals : List (Nat × BitVec 128)) (lat : Nat) (fixed : Bool)
    (hk : Instr.readsClk i = false) (uni : Bool) (hd : destOk i.fields.d uni n = true)
    (hu : ∀ c l, resultIn i.fields.d uni (s.execLanes i.fields) n val c l = resultIn i.fields.d (Instr.uniform i) (s.execLanes i.fields) n val c l)
    (hv : s.execLanes i.fields ≠ 0 → ∀ r : Regs, vals.foldl (fun r (v : Nat × BitVec 128) => r.writeGroup v.1 n i.fields.d v.2) r =
      (resultVals i.fields.d uni (s.execLanes i.fields) val).foldl (fun r (v : Nat × BitVec 128) => r.writeGroup v.1 n i.fields.d v.2) r) :
    Gave i n lat fixed val (s.me.newTaint i (s.execLanes i.fields)) 0 (fun _ => none) s
      (if s.execLanes i.fields = 0 then s else s.writeBack i (s.execLanes i.fields) n vals lat fixed).retire := by
  have hm : ∀ g : Gang, g.modLanes s.cur.mask Thread.skip = { g with threads := g.movedThreads s.cur.mask } := fun g => Gang.modLanes_eq _ _ _
  by_cases he : s.execLanes i.fields = 0
  · rw [if_pos he]
    have hme : s.retire.me = { s.me with threads := s.me.movedThreads s.cur.mask } := by
      unfold State.retire; rw [State.advance_me, hm]
    refine ⟨OnlyGang.modGang s s.cur.gid (fun g => g.modLanes s.cur.mask Thread.skip), ?_, ?_, ?_, ?_, fun h => absurd he h, ?_, ?_⟩
    all_goals rw [hme]
    · rfl
    · exact Gang.goesTo_of _ rfl
    · intro c l hl
      simp only [resultIn, he, if_true, Option.getD_none]
    · intro c
      simp only [he, if_true, List.not_mem_nil, if_false]
    · exact (BitVec.or_zero).symm
    · rw [State.clkhAfter_of _ _ _ hk]
  · rw [if_neg he]
    generalize hr : s.me.afterResult s i (s.execLanes i.fields) n vals lat fixed = r
    have ht : (s.writeBack i (s.execLanes i.fields) n vals lat fixed).retire = s.setGang s.cur.gid { r with threads := r.movedThreads s.cur.mask } := by
      rw [State.writeBack_eq]
      unfold State.retire State.advance
      simp only [State.modGang_cur]
      rw [State.modGang_modGang]
      simp only [hm]
      rw [← hr]
      rfl
    have hth : r.threads = s.me.threads := by rw [← hr]; rfl
    have hme : (s.setGang s.cur.gid { r with threads := r.movedThreads s.cur.mask }).me = { r with threads := r.movedThreads s.cur.mask } :=
      State.setGang_gang_same _ _ _
    rw [ht]
    refine ⟨by unfold OnlyGang; rw [State.setGang_gang_same], ?_, ?_, ?_, ?_, fun _ => ?_, ?_, ?_⟩
    all_goals rw [hme]
    · rw [← hr]; rfl
    · exact Gang.goesTo_of _ (Gang.movedThreads_congr hth _)
    · intro c l hl
      rw [← hu c l, ← codeVal_result i.fields.d uni (s.execLanes i.fields) n val hd s.me.regs c l hl, ← hv he]
      rw [← hr]
      rfl
    · intro c
      rw [if_neg he, ← hr]
      exact s.me.afterResult_tainted s i _ n vals lat fixed c
    · rw [← hr]
      exact s.me.afterResult_await s i _ n vals lat fixed
    · rw [show s.me.flags ||| 0 = s.me.flags from BitVec.or_zero, ← hr]; rfl
    · rw [State.clkhAfter_of _ _ _ hk, ← hr]; rfl

end Sys2Proof.Machine
end

