-- ==== Sys2Proof/Tests/Slice0.lean ====
section
/-! SUPPORT. Tests on fixed values. Expected results come from the spec: the encodings of R51, R56 and R72, its worked examples, and hand calculation. A theorem
`wit_…` shows concrete operands and states that meet the hypotheses of the statement of that name. -/

namespace Sys2Proof.Tests
open Sys2Proof Sys2Proof.Machine

set_option Elab.async false

/-! ## Decoding -/

/-- Each word, written out from R51, R56 and the grid of R72, decodes to its instruction, which is well-formed and encodes to the word again. -/
def decodesAll (l : List (Nat × Instr)) : Bool :=
  l.all (fun r => (match decode DecodeCtx.widest (BitVec.ofNat 96 r.1) with | .ok i => i == r.2 | .error _ => false) && r.2.wellFormed)

theorem test_decode_words_1 : decodesAll [
    (0x00F550004250A000E0353AAC, .add ⟨13, 10, true, 3, 0x000, .s 9, .s 10, .v 0, .v 0, 0xE0353AAC⟩),
    (0x01F550004250A000E0353AAC, .sub ⟨13, 10, true, 3, 0x000, .s 9, .s 10, .v 0, .v 0, 0xE0353AAC⟩),
    (0x02F550004250A000E0353AAC, .mul ⟨13, 10, true, 3, 0x000, .s 9, .s 10, .v 0, .v 0, 0xE0353AAC⟩),
    (0x03B9B0E04110353000000000, .mulh ⟨14, 13, true, 2, 0x0E0, .s 4, .s 3, .s 76, .v 0, 0x0⟩),
    (0x04CAB0E040D080005CB3D097, .mad ⟨2, 21, true, 3, 0x0E0, .s 3, .s 8, .v 0, .v 0, 0x5CB3D097⟩),
    (0x052260A10FC0000000000000, .neg ⟨8, 19, false, 0, 0x0A1, .v 63, .v 0, .v 0, .v 0, 0x0⟩),
    (0x062260A10FC0000000000000, .abs ⟨8, 19, false, 0, 0x0A1, .v 63, .v 0, .v 0, .v 0, 0x0⟩),
    (0x07CAB120429040005CB3D097, .min ⟨2, 21, true, 3, 0x120, .s 10, .s 4, .v 0, .v 0, 0x5CB3D097⟩),
    (0x08CAB120429040005CB3D097, .max ⟨2, 21, true, 3, 0x120, .s 10, .s 4, .v 0, .v 0, 0x5CB3D097⟩),
    (0x0953B040001050002DDDE55E, .and ⟨4, 29, true, 1, 0x040, .v 0, .s 5, .v 0, .v 0, 0x2DDDE55E⟩),
    (0x0A53B040001050002DDDE55E, .or ⟨4, 29, true, 1, 0x040, .v 0, .s 5, .v 0, .v 0, 0x2DDDE55E⟩)] = true := by decide +kernel

theorem test_decode_words_2 : decodesAll [
    (0x0B53B040001050002DDDE55E, .xor ⟨4, 29, true, 1, 0x040, .v 0, .s 5, .v 0, .v 0, 0x2DDDE55E⟩),
    (0x0C53B040001050002DDDE55E, .andn ⟨4, 29, true, 1, 0x040, .v 0, .s 5, .v 0, .v 0, 0x2DDDE55E⟩),
    (0x0DCAB0E040D0800000000017, .shl ⟨2, 21, true, 3, 0x0E0, .s 3, .s 8, .v 0, .v 0, 0x17⟩),
    (0x0EA201604F90A40000000000, .shr ⟨8, 16, false, 2, 0x160, .s 62, .s 10, .s 0, .v 0, 0x0⟩),
    (0x0F53B0E002C0B0000000001E, .sar ⟨4, 29, true, 1, 0x0E0, .v 11, .v 11, .v 0, .v 0, 0x1E⟩),
    (0x108C60404250600000000000, .clz ⟨3, 3, false, 2, 0x040, .s 9, .s 6, .v 0, .v 0, 0x0⟩),
    (0x118C60404250600000000000, .popc ⟨3, 3, false, 2, 0x040, .s 9, .s 6, .v 0, .v 0, 0x0⟩),
    (0x12B9B0E04110353000000000, .bfx ⟨14, 13, true, 2, 0x0E0, .s 4, .s 3, .s 76, .v 0, 0x0⟩),
    (0x131040400010841504000000, .bfi ⟨4, 2, false, 0, 0x040, .v 0, .s 8, .s 5, .s 4, 0x0⟩),
    (0x14B0E0414154040C00000000, .sel ⟨12, 7, false, 2, 0x041, .s 5, .s 64, .s 3, .v 0, 0x0⟩),
    (0x1555F0C38090200000000000, .setp ⟨5, 15, true, 1, 0x0C3, .p 2, .s 2, .v 0, .v 0, 0x0⟩)] = true := by decide +kernel

theorem test_decode_words_3 : decodesAll [
    (0x1603D0048060781000000000, .plop ⟨0, 30, true, 0, 0x004, .p 1, .p 7, .p 4, .v 0, 0x0⟩),
    (0x170470000120600000000000, .p2v ⟨1, 3, true, 0, 0x000, .v 4, .p 6, .v 0, .v 0, 0x0⟩),
    (0x180470008190100000000000, .v2p ⟨1, 3, true, 0, 0x000, .p 6, .s 1, .v 0, .v 0, 0x0⟩),
    (0x1934C1A001C0A01C00000000, .fadd ⟨13, 6, false, 0, 0x1A0, .v 7, .v 10, .v 7, .v 0, 0x0⟩),
    (0x1A34C1A001C0A01C00000000, .fsub ⟨13, 6, false, 0, 0x1A0, .v 7, .v 10, .v 7, .v 0, 0x0⟩),
    (0x1B34C1A001C0A01C00000000, .fmul ⟨13, 6, false, 0, 0x1A0, .v 7, .v 10, .v 7, .v 0, 0x0⟩),
    (0x1CCBE1A04FD0A000FFFFFFFF, .ffma ⟨2, 31, false, 3, 0x1A0, .s 63, .s 10, .v 0, .v 0, 0xFFFFFFFF⟩),
    (0x1DB421A0409084FC00000000, .fmin ⟨13, 1, false, 2, 0x1A0, .s 2, .s 8, .s 63, .v 0, 0x0⟩),
    (0x1EB421A0409084FC00000000, .fmax ⟨13, 1, false, 2, 0x1A0, .s 2, .s 8, .s 63, .v 0, 0x0⟩),
    (0x1FC411A38050200000000010, .fsetp ⟨1, 0, true, 3, 0x1A3, .p 1, .s 2, .v 0, .v 0, 0x10⟩),
    (0x201451B80000A00000000000, .frcp ⟨5, 2, true, 0, 0x1B8, .v 0, .v 10, .v 0, .v 0, 0x0⟩)] = true := by decide +kernel

theorem test_decode_words_4 : decodesAll [
    (0x211451B80000A00000000000, .frsq ⟨5, 2, true, 0, 0x1B8, .v 0, .v 10, .v 0, .v 0, 0x0⟩),
    (0x221451B80000A00000000000, .fsqrt ⟨5, 2, true, 0, 0x1B8, .v 0, .v 10, .v 0, .v 0, 0x0⟩),
    (0x231451B80000A00000000000, .fex2 ⟨5, 2, true, 0, 0x1B8, .v 0, .v 10, .v 0, .v 0, 0x0⟩),
    (0x241451B80000A00000000000, .flg2 ⟨5, 2, true, 0, 0x1B8, .v 0, .v 10, .v 0, .v 0, 0x0⟩),
    (0x251451B80000A00000000000, .frnd ⟨5, 2, true, 0, 0x1B8, .v 0, .v 10, .v 0, .v 0, 0x0⟩),
    (0x263281E00000000000000000, .fclass ⟨12, 20, false, 0, 0x1E0, .v 0, .v 0, .v 0, .v 0, 0x0⟩),
    (0x27A3A0F34FD4C00000000000, .cvt ⟨8, 29, false, 2, 0x0F3, .s 63, .s 76, .v 0, .v 0, 0x0⟩),
    (0x28C071E84050400031CDBA7D, .hadd2 ⟨0, 3, true, 3, 0x1E8, .s 1, .s 4, .v 0, .v 0, 0x31CDBA7D⟩),
    (0x29C071E84050400031CDBA7D, .hmul2 ⟨0, 3, true, 3, 0x1E8, .s 1, .s 4, .v 0, .v 0, 0x31CDBA7D⟩),
    (0x2A9061E84090640D07000000, .hfma2 ⟨4, 3, false, 2, 0x1E8, .s 2, .s 6, .s 3, .s 7, 0x0⟩),
    (0x2B6211C00004000000000000, .hmax2 ⟨8, 16, true, 1, 0x1C0, .v 0, .v 64, .v 0, .v 0, 0x0⟩)] = true := by decide +kernel

theorem test_decode_words_5 : decodesAll [
    (0x2C9831D04050153000000000, .pack ⟨6, 1, true, 2, 0x1D0, .s 1, .s 1, .s 76, .v 0, 0x0⟩),
    (0x2D8D81E04113F00000000000, .unpk ⟨3, 12, false, 2, 0x1E0, .s 4, .s 63, .v 0, .v 0, 0x0⟩),
    (0x2EF011604180000000000001, .mov ⟨12, 0, true, 3, 0x160, .s 6, .v 0, .v 0, .v 0, 0x1⟩),
    (0x2FB6B0004250753400000000, .vrd ⟨13, 21, true, 2, 0x000, .s 9, .s 7, .s 77, .v 0, 0x0⟩),
    (0x30D230004100000000000014, .rdsp ⟨4, 17, true, 3, 0x000, .s 4, .v 0, .v 0, .v 0, 0x14⟩),
    (0x31D230000010400000000014, .wrsp ⟨4, 17, true, 3, 0x000, .v 0, .s 4, .v 0, .v 0, 0x14⟩),
    (0x3206F04201D0040C00000000, .shfl ⟨1, 23, true, 0, 0x042, .v 7, .s 0, .s 3, .v 0, 0x0⟩),
    (0x3323700180A0100000000000, .vote ⟨8, 27, true, 0, 0x001, .p 2, .p 1, .v 0, .v 0, 0x0⟩),
    (0x341E21A70000500000000000, .lred ⟨7, 17, false, 0, 0x1A7, .v 0, .v 5, .v 0, .v 0, 0x0⟩),
    (0x352681610190400000000000, .lscan ⟨9, 20, false, 0, 0x161, .v 6, .s 4, .v 0, .v 0, 0x0⟩),
    (0x361A60400000B00000000000, .match_ ⟨6, 19, false, 0, 0x040, .v 0, .v 11, .v 0, .v 0, 0x0⟩)] = true := by decide +kernel

theorem test_decode_words_6 : decodesAll [
    (0x400470000010100000000000, .bra ⟨1, 3, true, 0, 0x000, .v 0, .s 1, .v 0, .v 0, 0x0⟩),
    (0x414550000000A00078A68C0E, .brx ⟨1, 10, true, 1, 0x000, .v 0, .v 10, .v 0, .v 0, 0x78A68C0E⟩),
    (0x4266300001400000FFFFFFFF, .call ⟨9, 17, true, 1, 0x000, .v 5, .v 0, .v 0, .v 0, 0xFFFFFFFF⟩),
    (0x430470000010100000000000, .ret ⟨1, 3, true, 0, 0x000, .v 0, .s 1, .v 0, .v 0, 0x0⟩),
    (0x440470000000000000000000, .exit ⟨1, 3, true, 0, 0x000, .v 0, .v 0, .v 0, .v 0, 0x0⟩),
    (0x455D3000002060000000FF07, .pblk ⟨7, 9, true, 1, 0x000, .v 0, .p 6, .v 0, .v 0, 0xFF07⟩),
    (0x460470000000000000000000, .nop ⟨1, 3, true, 0, 0x000, .v 0, .v 0, .v 0, .v 0, 0x0⟩),
    (0xB84550000000000000008C0E, .brk ⟨1, 10, true, 1, 0x000, .v 0, .v 0, .v 0, .v 0, 0x8C0E⟩),
    (0xB92C60000010900000000000, .trap ⟨11, 3, false, 0, 0x000, .v 0, .s 9, .v 0, .v 0, 0x0⟩),
    (0x480DB0008400000000000000, .mjoin ⟨3, 13, true, 0, 0x000, .p 16, .v 0, .v 0, .v 0, 0x0⟩),
    (0x490DB0008400000000000000, .mleave ⟨3, 13, true, 0, 0x000, .p 16, .v 0, .v 0, .v 0, 0x0⟩)] = true := by decide +kernel

theorem test_decode_words_7 : decodesAll [
    (0x4A0DB0008400000000000000, .mwait ⟨3, 13, true, 0, 0x000, .p 16, .v 0, .v 0, .v 0, 0x0⟩),
    (0x4B0DB00181A1300000000000, .mpoll ⟨3, 13, true, 0, 0x001, .p 6, .p 19, .v 0, .v 0, 0x0⟩),
    (0x4C0B70010261B00000000000, .mrd ⟨2, 27, true, 0, 0x001, .v 9, .p 27, .v 0, .v 0, 0x0⟩),
    (0x475720000014100000000000, .reform ⟨5, 25, false, 1, 0x000, .v 0, .s 65, .v 0, .v 0, 0x0⟩),
    (0x4D6A000200000000000006D2, .bsync ⟨10, 16, false, 1, 0x002, .v 0, .v 0, .v 0, .v 0, 0x6D2⟩),
    (0x4E6A000200000000000006D2, .barv ⟨10, 16, false, 1, 0x002, .v 0, .v 0, .v 0, .v 0, 0x6D2⟩),
    (0x4F6A000200000000000006D2, .bwt ⟨10, 16, false, 1, 0x002, .v 0, .v 0, .v 0, .v 0, 0x6D2⟩),
    (0x506D200000108000A9597B09, .nbatt ⟨11, 9, false, 1, 0x000, .v 0, .s 8, .v 0, .v 0, 0xA9597B09⟩),
    (0x512C60000010900000000000, .nbarv ⟨11, 3, false, 0, 0x000, .v 0, .s 9, .v 0, .v 0, 0x0⟩),
    (0x522C60000010900000000000, .nbwt ⟨11, 3, false, 0, 0x000, .v 0, .s 9, .v 0, .v 0, 0x0⟩),
    (0x532C60000010900000000000, .nbdet ⟨11, 3, false, 0, 0x000, .v 0, .s 9, .v 0, .v 0, 0x0⟩)] = true := by decide +kernel

theorem test_decode_words_8 : decodesAll [
    (0x543350000000500000000000, .twait ⟨12, 26, true, 0, 0x000, .v 0, .v 5, .v 0, .v 0, 0x0⟩),
    (0x55B700053FC0000102000025, .waddr ⟨13, 24, false, 2, 0x005, .v 255, .v 0, .v 0, .s 2, 0x25⟩),
    (0x560470000010100000000000, .xacq ⟨1, 3, true, 0, 0x000, .v 0, .s 1, .v 0, .v 0, 0x0⟩),
    (0x570470000000000000000000, .xrel ⟨1, 3, true, 0, 0x000, .v 0, .v 0, .v 0, .v 0, 0x0⟩),
    (0x5815B0010000000000000000, .region ⟨5, 13, true, 0, 0x001, .v 0, .v 0, .v 0, .v 0, 0x0⟩),
    (0x592C60000010900000000000, .ppoint ⟨11, 3, false, 0, 0x000, .v 0, .s 9, .v 0, .v 0, 0x0⟩),
    (0xBA0470000000000000000000, .tret ⟨1, 3, true, 0, 0x000, .v 0, .v 0, .v 0, .v 0, 0x0⟩),
    (0x606780004190841800018A68, .ld ⟨9, 28, false, 1, 0x000, .s 6, .s 8, .s 6, .v 0, 0x18A68⟩),
    (0x6139D0000010400D04D4F11F, .st ⟨14, 14, true, 0, 0x000, .v 0, .s 4, .v 3, .s 4, 0xD4F11F⟩),
    (0x620B70A8000003FC058D3F15, .spill ⟨2, 27, true, 0, 0x0A8, .v 0, .v 0, .v 255, .v 5, 0x8D3F15⟩),
    (0x635A1128420003FC006BCDD5, .fill ⟨6, 16, true, 1, 0x128, .s 8, .v 0, .v 255, .v 0, 0x6BCDD5⟩)] = true := by decide +kernel

theorem test_decode_words_9 : decodesAll [
    (0x640320A3010004FD08FFFFFF, .atom ⟨0, 25, false, 0, 0x0A3, .v 4, .v 0, .s 63, .s 8, 0xFFFFFF⟩),
    (0x652250880014C001080B4A82, .cas ⟨8, 18, true, 0, 0x088, .v 0, .s 76, .v 0, .s 8, 0xB4A82⟩),
    (0x666630D40014D3FD06FFFFFF, .red ⟨9, 17, true, 1, 0x0D4, .v 0, .s 77, .v 255, .s 6, 0xFFFFFF⟩),
    (0x678660000000000000000000, .phaseRel ⟨1, 19, false, 2, 0x000, .v 0, .v 0, .v 0, .v 0, 0x0⟩),
    (0x67B6B0010000000000000000, .phaseAcq ⟨13, 21, true, 2, 0x001, .v 0, .v 0, .v 0, .v 0, 0x0⟩),
    (0x67AD50020000000000000000, .phaseAr ⟨11, 10, true, 2, 0x002, .v 0, .v 0, .v 0, .v 0, 0x0⟩),
    (0x688FF1540000000000000000, .pfence ⟨3, 31, true, 2, 0x154, .v 0, .v 0, .v 0, .v 0, 0x0⟩),
    (0x698660000000000000000000, .sbwait ⟨1, 19, false, 2, 0x000, .v 0, .v 0, .v 0, .v 0, 0x0⟩),
    (0x6A9370010000000000000000, .tsync ⟨4, 27, true, 2, 0x001, .v 0, .v 0, .v 0, .v 0, 0x0⟩),
    (0x6BAA40008080000000000000, .untaint ⟨10, 18, false, 2, 0x000, .p 2, .v 0, .v 0, .v 0, 0x0⟩),
    (0x6C1350000013F42400000000, .tfetch ⟨4, 26, true, 0, 0x000, .v 0, .s 63, .s 9, .v 0, 0x0⟩)] = true := by decide +kernel

theorem test_decode_words_10 : decodesAll [
    (0x6D1350000013F42400000000, .tevict ⟨4, 26, true, 0, 0x000, .v 0, .s 63, .s 9, .v 0, 0x0⟩),
    (0x6E07E0C0001024F800800000, .mdld ⟨1, 31, false, 0, 0x0C0, .v 0, .s 2, .s 62, .v 0, 0x800000⟩),
    (0x6F16D0C000105020007ABBD0, .mdst ⟨5, 22, true, 0, 0x0C0, .v 0, .s 5, .v 8, .v 0, 0x7ABBD0⟩),
    (0x8020B0034110800000000000, .cp ⟨8, 5, true, 0, 0x003, .s 4, .s 8, .v 0, .v 0, 0x0⟩),
    (0x81D740004170141000C00000, .cpq ⟨5, 26, false, 3, 0x000, .s 5, .q 1, .s 4, .v 0, 0xC00000⟩),
    (0x8245D0004FD0900000002AD0, .cpflag ⟨1, 14, true, 1, 0x000, .s 63, .s 9, .v 0, .v 0, 0x2AD0⟩),
    (0x830470000000000000000000, .cpcommit ⟨1, 3, true, 0, 0x000, .v 0, .v 0, .v 0, .v 0, 0x0⟩),
    (0x842C60000010900000000000, .cpwait ⟨11, 3, false, 0, 0x000, .v 0, .s 9, .v 0, .v 0, 0x0⟩),
    (0x850470004050700000000000, .cpst ⟨1, 3, true, 0, 0x000, .s 1, .s 7, .v 0, .v 0, 0x0⟩),
    (0x905762A0C00000000003FF1F, .scfg ⟨5, 27, false, 1, 0x2A0, .q 0, .v 0, .v 0, .v 0, 0x3FF1F⟩),
    (0x91D09001C030200008000C7A, .mma ⟨4, 4, true, 3, 0x001, .q 0, .q 2, .v 0, .v 8, 0xC7A⟩)] = true := by decide +kernel

theorem test_decode_words_11 : decodesAll [
    (0x922BC000C040000000000000, .szero ⟨10, 30, false, 0, 0x000, .q 1, .v 0, .v 0, .v 0, 0x0⟩),
    (0x93277006C080950000000000, .smovIn ⟨9, 27, true, 0, 0x006, .q 2, .v 9, .s 64, .v 0, 0x0⟩),
    (0x93A3A00502F023FC00000007, .smovOut ⟨8, 29, false, 2, 0x005, .v 11, .q 2, .v 255, .v 0, 0x7⟩),
    (0x94312280C080042206000000, .quant ⟨12, 9, false, 0, 0x280, .q 2, .v 0, .s 8, .p 6, 0x0⟩),
    (0x950470004050700000000000, .bexp ⟨1, 3, true, 0, 0x000, .s 1, .s 7, .v 0, .v 0, 0x0⟩),
    (0x96F3000141F0042000000027, .swb ⟨12, 24, false, 3, 0x001, .s 7, .q 0, .s 8, .v 0, 0x27⟩),
    (0x972BC0000130100000000000, .samax ⟨10, 30, false, 0, 0x000, .v 4, .q 1, .v 0, .v 0, 0x0⟩),
    (0xA0F180004210342104000000, .bput ⟨12, 12, false, 3, 0x000, .s 8, .s 3, .s 8, .s 4, 0x0⟩),
    (0xA194D000001020113F000001, .bputk ⟨5, 6, true, 2, 0x000, .v 0, .s 2, .v 4, .s 63, 0x1⟩),
    (0xA2F180004210342104000000, .bputv ⟨12, 12, false, 3, 0x000, .s 8, .s 3, .s 8, .s 4, 0x0⟩),
    (0xA345D0004FD0900000002AD0, .bcommit ⟨1, 14, true, 1, 0x000, .s 63, .s 9, .v 0, .v 0, 0x2AD0⟩)] = true := by decide +kernel

theorem test_decode_words_12 : decodesAll [
    (0xA445D0004FD0900000002AD0, .bsquash ⟨1, 14, true, 1, 0x000, .s 63, .s 9, .v 0, .v 0, 0x2AD0⟩),
    (0xA50470004290600000000000, .bcount ⟨1, 3, true, 0, 0x000, .s 10, .s 6, .v 0, .v 0, 0x0⟩),
    (0xA62770004093E00000000000, .bdrain ⟨9, 27, true, 0, 0x000, .s 2, .s 62, .v 0, .v 0, 0x0⟩),
    (0xA771A0044210300000000000, .bnext ⟨12, 13, false, 1, 0x004, .s 8, .s 3, .v 0, .v 0, 0x0⟩),
    (0xA82C60000010900000000000, .bclose ⟨11, 3, false, 0, 0x000, .v 0, .s 9, .v 0, .v 0, 0x0⟩),
    (0xA945D0004FD0900000000000, .bstat ⟨1, 14, true, 1, 0x000, .s 63, .s 9, .v 0, .v 0, 0x0⟩),
    (0xB08380010010400805000FFF, .xpost ⟨0, 28, false, 2, 0x001, .v 0, .s 4, .v 2, .v 5, 0xFFF⟩),
    (0xB1838001001040080500000F, .xbcast ⟨0, 28, false, 2, 0x001, .v 0, .s 4, .v 2, .v 5, 0xF⟩),
    (0xB22C60000010900000000000, .xfence ⟨11, 3, false, 0, 0x000, .v 0, .s 9, .v 0, .v 0, 0x0⟩),
    (0xB331C0004193E40800000000, .qlaunch ⟨12, 14, false, 0, 0x000, .s 6, .s 62, .s 2, .v 0, 0x0⟩)] = true := by decide +kernel

/-! ## The words of the spec's own examples (R53, R63, R67, R147, R165, R202, R259, R266, R268, R320) -/

theorem test_spec_words : decodesAll [
    (0x192891A801C0342400000000, .fadd ⟨10, 4, true, 0, 0x1A8, .v 7, .v 3, .s 9, .v 0, 0⟩),
    (0x455C00000020300000000302, .pblk ⟨7, 0, false, 1, 0, .v 0, .p 3, .v 0, .v 0, 0x302⟩),
    (0x325C00430100100000000001, .shfl ⟨7, 0, false, 1, 0x043, .v 4, .v 1, .v 0, .v 0, 1⟩),
    (0x4D1C00020010500000000000, .bsync ⟨7, 0, false, 0, 2, .v 0, .s 5, .v 0, .v 0, 0⟩),
    (0x4E5C00000000000000000000, .barv ⟨7, 0, false, 1, 0, .v 0, .v 0, .v 0, .v 0, 0⟩),
    (0x025C81600100200000000005, .mul ⟨7, 4, false, 1, 0x160, .v 4, .v 2, .v 0, .v 0, 5⟩),
    (0x314400000000300000000100, .wrsp ⟨1, 0, false, 1, 0, .v 0, .v 3, .v 0, .v 0, 0x100⟩),
    (0x641C02CF0190300807000008, .atom ⟨7, 0, false, 0, 0x2CF, .v 6, .s 3, .v 2, .v 7, 8⟩),
    (0x689C00480000000000000000, .pfence ⟨7, 0, false, 2, 0x048, .v 0, .v 0, .v 0, .v 0, 0⟩),
    (0x6B9C00004100000000000000, .untaint ⟨7, 0, false, 2, 0, .s 4, .v 0, .v 0, .v 0, 0⟩),
    (0x91DC0000C0B0005016000011, .mma ⟨7, 0, false, 3, 0, .q 2, .q 0, .v 20, .v 22, 0x11⟩)] = true := by decide +kernel

/-! ## Ill-formed terms, one for each check of `WellFormed` -/

abbrev F0 : Fields := ⟨7, 0, false, 0, 0, .v 0, .v 0, .v 0, .v 0, 0⟩
/-- `add.i32 v1, v2, v3`. -/
abbrev fAdd : Fields := ⟨7, 0, false, 0, 0x0A0, .v 1, .v 2, .v 3, .v 0, 0⟩

theorem test_wf_add : (Instr.add fAdd).wellFormed = true := by decide
theorem test_ill_event : (Instr.boot).wellFormed = false := by decide
theorem test_ill_slot : (Instr.mjoin { F0 with slot := 1, d := .p 16 }).wellFormed = false := by decide
theorem test_ill_fits : (Instr.add { fAdd with imm := 0x01000000 }).wellFormed = false := by decide
theorem test_ill_guard : (Instr.add { fAdd with guard := 15 }).cause DecodeCtx.widest = some .guard := by decide
theorem test_ill_reserved : (Instr.add { fAdd with c := .v 1 }).cause DecodeCtx.widest = some .reserved := by decide
theorem test_ill_mod : (Instr.add { fAdd with mod := 0x0A7 }).cause DecodeCtx.widest = some .mod := by decide
theorem test_ill_class : (Instr.add { fAdd with a := .q 1 }).cause DecodeCtx.widest = some .class_ := by decide
theorem test_ill_index : (Instr.add { fAdd with d := .s 70, slot := 2, a := .s 1, b := .s 2 }).cause DecodeCtx.widest = some .index := by decide
theorem test_ill_block : (Instr.ret { F0 with a := .v 1 }).cause { DecodeCtx.widest with covered := true } = some .block := by decide

/-- The decoder rejects a word with a sub-cause. -/
def rejects (w : IWord) (c : SubCause) : Bool := match decode DecodeCtx.widest w with | .error x => x == c | .ok _ => false

theorem test_ill_words : rejects 0xFFFFFFFFFFFFFFFFFFFFFFFF .opcode = true ∧ rejects 0x003C00A0004002000C000000 .guard = true ∧
    rejects 0x001C04A0004002000C000000 .reserved = true := by decide

/-! ## Small states

One gang, number 1, of block 2 and launch 3 on core 0, its 32 threads ready at PC 0, with bundle 0xFFFF_FFFF chosen. -/

def tGang : Gang :=
  { (default : Gang) with
    live := true, block := 2, active := true, nb := 64, base := some 0, cleared := true, acq := 1
    threads := (List.range 32).map (fun k => (k, { (default : Thread) with st := .ready, tid := BitVec.ofNat 32 k })) }

def tBlock : Block := { (default : Block) with live := true, launch := 3, gangs := [1], ngang := 1, blkmem := 1024, stack := 16, slabs := 16 }

def tS : State :=
  { State.reset with
    gangs := [(1, tGang)], blocks := [(2, tBlock)], launches := [(3, { (default : Launch) with phase := 2, regs := 64, blocks := [2] })]
    cur := { (default : Bundle) with gid := 1, mask := 0xFFFFFFFF, t := 100, iss := { clk := 100, core := 0, hi := 0 } } }

/-- `tS` with the gang changed. -/
abbrev tWith (f : Gang → Gang) : State := { tS with gangs := [(1, f tGang)] }
/-- `tS` with the block changed. -/
abbrev tBlk (f : Block → Block) : State := { tS with blocks := [(2, f tBlock)] }

theorem gang_one (s : State) (g : Gang) (h : s.gangs = [(1, g)]) (k : Nat) : s.gang k = if k = 1 then g else default := by
  unfold State.gang
  rw [h]
  simp only [kget]
  by_cases hk : k = 1
  · simp [hk]
  · simp [hk, Ne.symm hk]

/-- An unguarded word. -/
abbrev W (slot : BitVec 2) (mod : BitVec 10) (d a b c : Opnd) (imm : Word) : Fields := ⟨7, 0, false, slot, mod, d, a, b, c, imm⟩

def answers (o : Out) : Bool := match o with | .next _ => true | _ => false

def fBare : Fields := W 0 0 (.v 0) (.v 0) (.v 0) (.v 0) 0

/-! ## A small memory

ASID 5's context descriptor names a table of 8 buffers and page tables that map local address va to 0x400000 + va; core 0 caches the pages that the
buffers use. Buffer 1 is tiled, 2 the host's, 3 a bag, 4 tiled at pages that are neither mapped nor cached, 5 tiled with the right to read alone. -/

/-- A buffer-table entry of R227, generation 7 and ASID 5. -/
def tEnt (kind rights smask len kspec base : Nat) : Nat :=
  7 * 2 ^ 240 + 5 * 2 ^ 222 + smask * 2 ^ 200 + kind * 2 ^ 197 + rights * 2 ^ 191 + kspec * 2 ^ 168 + len * 2 ^ 128 + base * 2 ^ 64

/-- Bag descriptor 0 of R339: capacity 4, slack 0, records of 16 bytes, entry 3 of ASID 5. -/
def tDesc : Nat := 4 * 2 ^ 216 + 5 * 2 ^ 181 + 2 ^ 180 + 3 * 2 ^ 164

/-- Queue descriptor 0: a ring of 2 packets in buffer 1, ASID 5, that the device may write; trap vector at buffer 1. -/
def tQueue (head tail : Nat) : Nat := tail * 2 ^ 480 + head * 2 ^ 448 + 1 * 2 ^ 432 + 1 * 2 ^ 428 + 5 * 2 ^ 418 + 2 ^ 399 + 2 ^ 398 + 1 * 2 ^ 374

def tHbm : Memory :=
  let m := memWrite [] 0x10280 8 0x40000
  let m := memWrite m 0x10288 4 8
  let m := memWrite m 0x1028D 1 1
  let m := memWrite m 0x10290 8 0x50000
  let m := memWrite m 0x102F0 8 0x50000
  let m := memWrite m 0x20000 64 (tQueue 0 0)
  let m := memWrite m 0x30000 32 tDesc
  let m := memWrite m 0x40020 32 (tEnt 1 63 1 4096 0 0x100000)
  let m := memWrite m 0x40040 32 (tEnt 4 63 0 4096 0 0x100000)
  let m := memWrite m 0x40060 32 (tEnt 3 63 1 4096 0 0x110000)
  let m := memWrite m 0x40080 32 (tEnt 1 63 1 4096 0 0x40000000)
  let m := memWrite m 0x400A0 32 (tEnt 1 1 1 4096 0 0x100000)
  let m := memWrite m 0x50000 8 0x51003
  let m := memWrite m 0x51000 8 0x52003
  let m := memWrite m 0x52000 8 0x400001
  memWrite m 0x500014 4 0x60

def tBag : Bag := { (default : Bag) with bound := true, ent := entShape (tEnt 3 63 1 4096 0 0x110000), desc := tDesc, banks := [{ stack := 0, slots := [0, 64, 128, 192] }] }

/-- s4 holds buffer 1's handle, s5 buffer 2's, s6 buffer 3's, s7 buffer 4's, s10 buffer 5's; v3 holds 4 times the lane. -/
def tRegs : Regs :=
  { (default : Regs) with s := [(4, 0x70001), (5, 0x70002), (6, 0x70003), (7, 0x70004), (10, 0x70005)], v := (List.range 31).map (fun k => (97 + k, BitVec.ofNat 32 (4 * (k + 1)))) }

def tM : State :=
  { tS with
    mgmt := sset (sset (sset resetMgmt 0x40 0x10000) 0x48 0x20000) 0x58 0x30000, hbm := tHbm, bags := [(0, tBag)]
    gangs := [(1, { tGang with regs := tRegs })]
    launches := [(3, { (default : Launch) with phase := 2, asid := 5, regs := 64, blocks := [2] })]
    cores := [(0, { (default : Core) with xlat := [{ asid := 5, space := 0, vpn := 0x10, frame := 0x500000, grade := 1 }, { asid := 5, space := 12, vpn := 0x10, frame := 0x500000, grade := 0 }] })] }

/-- `tM` with the gang changed. -/
abbrev tMg (f : Gang → Gang) : State := { tM with gangs := [(1, f { tGang with regs := tRegs })] }

theorem no_watchers (s : State) (g : Gang) (h : s.gangs = [(1, g)]) (ht : g.threads = tGang.threads) : NoWatchers s := by
  have key : ∀ l, (kget tGang.threads l).wait = Wait.none ∧ (kget tGang.threads l).savedWait = Wait.none := by
    intro l
    by_cases hl : l < 32
    · have : ∀ l, l < 32 → (kget tGang.threads l).wait = Wait.none ∧ (kget tGang.threads l).savedWait = Wait.none := by decide +kernel
      exact this l hl
    · have : ∀ (n : Nat) (f : Nat → Thread) (lo : Nat), lo + n ≤ l → kget ((List.range' lo n).map (fun k => (k, f k))) l = default := by
        intro n f
        induction n with
        | zero => intro lo _; rfl
        | succ n ih =>
          intro lo hlo
          rw [List.range'_succ, List.map_cons, kget, if_neg (by omega), if_neg (by omega)]
          exact ih (lo + 1) (by omega)
      rw [show tGang.threads = (List.range' 0 32).map (fun k => (k, { (default : Thread) with st := .ready, tid := BitVec.ofNat 32 k })) from by
        rw [← List.range_eq_range']; rfl, this 32 _ 0 (by omega)]
      exact ⟨rfl, rfl⟩
  intro k l w
  rw [gang_one s g h]
  by_cases hk : k = 1
  · rw [if_pos hk]
    unfold Gang.thread
    rw [ht, (key l).1, (key l).2]
    exact ⟨nofun, nofun⟩
  · rw [if_neg hk]
    exact ⟨nofun, nofun⟩

/-- A list of the targets of a word's accesses. -/
def targets (s : State) (i : Instr) (chk : Nat → Chk) : List (Nat × Target) :=
  (s.askers i).filterMap (fun l => match chk l with | .ok t => some (l, t) | _ => none)

def isClear (s : State) (i : Instr) : Bool := decide (s.cur.stage ≠ 0) || (s.me.taintLoads (s.me.newTaint i (s.execLanes i.fields))).isEmpty

theorem clear_of {s : State} {i : Instr} (h : isClear s i = true) : s.taintClear i := by
  simpa [isClear, State.taintClear] using h

def exists_ (l : Loc) : Bool := match l with | .hbm pa => hbmExists pa | _ => true

/-- `Passes`, for targets that are those of `chk`. -/
def passesB (i : Instr) (m : Ask) (chk : Nat → Chk) (s : State) : Bool :=
  let oks := targets s i chk
  s.execLanes i.fields != 0 && isClear s i && oks.map Prod.fst == s.askers i &&
    oks.all (fun o => chk o.1 == .ok o.2 && exists_ o.2.loc && (List.range 4).all (fun k => !s.watchHit s.me.core (s.launchOf s.cur.gid).asid o.2 m k))

theorem passes_of {i : Instr} {m : Ask} {chk : Nat → Chk} {s : State} (h : passesB i m chk s = true) : Passes i m chk (targets s i chk) s := by
  simp only [passesB, Bool.and_eq_true, List.all_eq_true, bne_iff_ne, ne_eq, beq_iff_eq, Bool.not_eq_true', List.mem_range] at h
  exact ⟨h.1.1.1, clear_of h.1.1.2, h.1.2, fun o ho => (h.2 o ho).1.1, fun o ho pa hpa => by have := (h.2 o ho).1.2; rw [hpa] at this; exact this,
    fun o ho k hk => (h.2 o ho).2 k hk⟩

/-- A check answers a target that exists. -/
def thereB (c : Chk) : Bool := match c with | .ok t => exists_ t.loc | _ => false

theorem there_of {c : Chk} (h : thereB c = true) : ∃ t : Target, c = Chk.ok t ∧ ∀ pa, t.loc = .hbm pa → hbmExists pa = true := by
  cases c with
  | ok t => exact ⟨t, rfl, fun pa hpa => by simp only [thereB, hpa] at h; exact h⟩
  | fail => cases h
  | walk => cases h

theorem test_memory : Memory.wf tM.hbm = true ∧ (match tM.checkHandle 1 0x70001 8 { rights := 1, kinds := [1], width := 4, align := 4, write := false, blk := false } with
    | .ok t => t.loc == .hbm 0x500008 | _ => false) = true ∧ tM.trapEntry 1 5 = some 0x60 ∧ thereB (tM.checkBag 1 0x70003) = true := by decide +kernel
/-! ## Steps -/

/-- The fetched word of the chosen bundle is `i`. -/
def fetches (s : State) (i : Instr) : Bool := match s.wordAt s.cur.gid s.cur.pc s.cur.mask with | .ok x => x == i | .error _ => false

/-- The state in which a step reads its word. -/
def opened (s : State) : State :=
  let s1 := { s with issuing := false }
  ((if s.me.acq = 0 then s1.acquire s.cur.gid else s1).modGang s.cur.gid (fun g => { g with serial := g.serial + 1 })).readCode s.cur.gid s.cur.pc

/-- `add.n32 s8, s8, 1`. -/
def sAdd : State := State.reset.withFetchWord 96 0x00DC01604210800000000001

theorem test_fetch : fetches sAdd (.add ⟨7, 0, false, 3, 0x160, .s 8, .s 8, .v 0, .v 0, 1⟩) = true ∧ sAdd.err = none ∧ sAdd.issuing = true := by decide +kernel
theorem test_step_add : (match step sAdd with | .next t => (t.me.regs.codeVal (256 + 8) 0, (t.me.thread 0).pc) | _ => (0, 0)) = (1, 12) := by decide +kernel

/-! ## Single words, with results worked out by hand -/

/-- Lane `l` of register `c` after the word, from a state whose v2 and v3 hold `x` and `y` in every lane. -/
def after (i : Instr) (x y : Word) (c l : Nat) : Word :=
  match exec i (tWith (fun g => { g with regs := { g.regs with v := (List.range 32).map (fun k => (64 + k, x)) ++ (List.range 32).map (fun k => (96 + k, y)) } })) with
  | .next t => t.me.regs.codeVal c l
  | _ => 0xDEAD
def tOneBlk (x : Word) : State := tWith (fun g => { g with regs := { g.regs with v := [(64, x)] } })
def two (mod : BitVec 10) : Fields := W 0 mod (.v 1) (.v 2) (.v 3) (.v 0) 0

theorem test_add_wraps : after (.add (two 0x0E0)) 0x7FFFFFFF 1 1 31 = 0x80000000 := by decide +kernel
theorem test_add_sat : after (.add (two 0x0E1)) 0x7FFFFFFF 1 1 31 = 0x7FFFFFFF := by decide +kernel
theorem test_sub_order : after (.sub (two 0x0E0)) 3 5 1 0 = 0xFFFFFFFE := by decide +kernel
theorem test_mulh_signed : after (.mulh (two 0x0E0)) 0xFFFFFFFF 5 1 0 = 0xFFFFFFFF := by decide +kernel
theorem test_andn_order : after (.andn (two 0x040)) 0xFF 0x0F 1 7 = 0xF0 := by decide +kernel
theorem test_setp_signed : after (.setp (W 0 0x0E2 (.p 6) (.v 2) (.v 3) (.v 0) 0)) 0xFFFFFFFF 0 518 31 = 1 := by decide +kernel
/-- 1 + 2⁻²⁴ is a tie, which goes to the even 1. -/
theorem test_fadd_tie : after (.fadd (two 0x1A0)) 0x3F800000 0x33800000 1 0 = 0x3F800000 := by decide +kernel
theorem test_fsub_order : after (.fsub (two 0x1A0)) 0x3F800000 0x40000000 1 0 = 0xBF800000 := by decide +kernel
theorem test_store_bytes : (match exec (.st (W 0 152 (.v 0) (.v 0) (.v 3) (.v 2) 0)) { tOneBlk 0x11223344 with cur := { tS.cur with mask := 1 } } with
    | .next t => (t.reqs.length, memByte ((t.reqs.foldl State.perform t).block 2).mem 0, memByte ((t.reqs.foldl State.perform t).block 2).mem 3) | _ => (0, 0, 0)) = (1, 0x44, 0x11) := by decide +kernel
theorem test_load_sign : (loadValue tyI8 0x180).toNat = 0xFFFFFF80 := by decide
theorem test_trap_saves : (match exec (.trap (W 1 0 (.v 0) (.v 0) (.v 0) (.v 0) 9)) { tM with cur := { tM.cur with pc := 24 } } with
    | .next t => ((t.me.thread 31).pc, t.me.tCause, t.me.tPc, t.me.tInfo) | _ => (0, 0, 0, 0)) = (0x60, 5, 24, 9) := by decide +kernel
theorem test_exit : (match exec (.exit fBare) tS with | .next t => (t.me.thread 31).st | _ => .ready) = .exited := by decide +kernel

/-- The demonstration of R331: rows of 4-bit elements 1 and 2 under exponents 127 give 1.0, which makes 0.5 into 1.5; the exponent 0xFF makes a row NaN; the amax word is then the
canonical NaN, and its block exponent 0xFF. -/
theorem test_mma_demo :
    let slab := fun (b : Nat) => ({ ty := 0x12, rows := 32, rbytes := 16, data := (List.range 16).map (fun k => (k, BitVec.ofNat 8 b)), flaw := 0 } : Slab)
    fp32Add 0x3F000000 (mmaBlock (slab 0x11) (slab 0x22) 0 0 0 127 127) = 0x3FC00000 ∧ fp32Add 0x3F000000 (mmaBlock (slab 0x11) (slab 0x22) 0 0 0 255 127) = 0x7FC00000 ∧
      slabAbsMax { ty := tyF32, rows := 1, rbytes := 8, data := [(2, 0xC0), (3, 0x3F), (6, 0xC0), (7, 0x7F)], flaw := 0 } = 0x7FC00000 ∧
      memOpNew .max false 4 0 0x7FC00000 = 0x7FC00000 ∧ blockExp 0x7FC00000 = 0xFF := by decide +kernel

/-! ## Witnesses: encodings, steps, integers and floats
 -/

def assigned (w : IWord) : Bool :=
  (Instr.ofQuad (w.extractLsb' 88 8) (fieldsOf (fmtOf (opOf w)) w)).isSome &&
    (quadSlots (w.extractLsb' 88 8) (fieldsOf (fmtOf (opOf w)) w)).getLsbD (fieldsOf (fmtOf (opOf w)) w).slot.toNat

theorem wit_RejectedWords :
    assigned 0xFFFFFFFFFFFFFFFFFFFFFFFF = false ∧
    (assigned 0x00FC01604210800000000001 = true ∧ (0x00FC01604210800000000001 : IWord).extractLsb' 82 4 = 15) ∧
    (assigned 0x00DC05604210800000000001 = true ∧ (0x00DC05604210800000000001 : IWord).extractLsb' 82 4 = 7 ∧
      (0x00DC05604210800000000001 : IWord).extractLsb' 74 2 ≠ 0) := by decide +kernel

def iAdd : Instr := .add ⟨7, 0, false, 3, 0x160, .s 8, .s 8, .v 0, .v 0, 1⟩
def sAddWith (h : Gang → Gang) : State := sAdd.modGang sAdd.cur.gid h
def sChk : State := sAddWith (fun g => { g with chk := true, pend := [{ reg := 264, done := some 1000, id := 0, fixed := true, old := [] }] })

theorem wit_StepRunsDecodedWord :
    (sAdd.err = none ∧ sAdd.issuing = true ∧ fetches (opened sAdd) iAdd = true ∧ sAdd.me.arm = none ∧ sAdd.me.chk = false) ∧
    (let s := sAddWith (fun g => { g with arm := some 0 })
     s.err = none ∧ s.issuing = true ∧ fetches (opened s) iAdd = true ∧ s.me.arm ≠ none ∧ Instr.armedMma iAdd = false) ∧
    (sChk.err = none ∧ sChk.issuing = true ∧ fetches (opened sChk) iAdd = true ∧ sChk.me.arm = none ∧ sChk.me.chk = true ∧
      (sChk.me.earlyRead iAdd (sChk.execLanes iAdd.fields != 0) ((opened sChk).dynReads sChk.cur.gid sChk.cur.mask iAdd) sChk.cur.t).isSome = true ∧
      answers (exec iAdd ((opened sChk).occupy (beatsOf iAdd (sChk.execLanes iAdd.fields)) false 0)) = true) := by
  decide +kernel

theorem wit_StepTakesTheAgendasEvent :
    (let s : State := { State.reset with agenda := [(default, .boot)] }
     s.err = none ∧ s.issuing = false ∧ s.deadlocks.moves = [] ∧ s.deadlocks.agenda = (default, .boot) :: [] ∧ Instr.isWord .boot = false) ∧
    State.reset.cores.all (fun kv => kv.2.allocQ.isEmpty) = true ∧ ({ State.reset with err := some .noSuchAddress } : State).err = some .noSuchAddress := by decide +kernel

theorem wit_StepKeepsMemoryForm : MemoryForm sAdd ∧ answers (step sAdd) = true :=
  ⟨⟨by decide +kernel, by decide +kernel, by decide +kernel, by decide +kernel, by decide +kernel, by decide +kernel, by decide +kernel⟩,
    by decide +kernel⟩

theorem wit_MemoryFormAtReset : ∃ m n : Memory, Memory.wf m = true ∧ Memory.wf n = true ∧ ∀ a, memByte m a = memByte n a :=
  ⟨[(7, 1)], memSet [] 7 1, by decide, by decide, fun _ => rfl⟩

def sBad : State := State.reset.withFetchWord 96 0xFFFFFFFFFFFFFFFFFFFFFFFF

theorem wit_IllegalWordTraps : sBad.err = none ∧ sBad.issuing = true ∧
    (match (opened sBad).wordAt sBad.cur.gid sBad.cur.pc sBad.cur.mask with | .error c => c == .opcode | .ok _ => false) = true := by decide +kernel

theorem wit_DecodeOfEncode : WellFormed iAdd ∧ WellFormed (.mma (W 3 1 (.q 0) (.q 1) (.v 20) (.v 22) 0x802)) := by decide

theorem wit_EncodeOfDecode : (match decode DecodeCtx.widest 0x00DC01604210800000000001 with | .ok i => i == iAdd | .error _ => false) = true := by decide

theorem wit_BitwiseAndShiftResults :
    [Instr.and, .or, .xor, .andn, .shl, .shr, .sar].all (fun mk => (mk (W 0 0x160 (.v 1) (.v 2) (.v 3) (.v 0) 0)).wellFormed || (mk (W 0 0x040 (.v 1) (.v 2) (.v 3) (.v 0) 0)).wellFormed ||
      (mk (W 0 0x0E0 (.v 1) (.v 2) (.v 3) (.v 0) 0)).wellFormed) = true ∧
    [Instr.clz, .popc].all (fun mk => (mk (W 0 0x040 (.v 1) (.v 2) (.v 0) (.v 0) 0)).wellFormed) = true := by decide

theorem wit_BitFieldResults :
    WellFormed (.bfx (W 0 0x0E0 (.v 1) (.v 2) (.v 3) (.v 0) 0)) ∧ WellFormed (.bfi (W 0 0x040 (.v 1) (.v 2) (.v 3) (.v 4) 0)) ∧
      WellFormed (.bfi (W 1 0x040 (.v 1) (.v 2) (.v 0) (.v 0) 0x1F1F)) := by decide

theorem wit_SelectCompareMoveResults :
    WellFormed (.sel (W 0 0x046 (.v 1) (.v 2) (.v 3) (.v 0) 0)) ∧ WellFormed (.setp (W 0 0x0E5 (.p 6) (.v 2) (.v 3) (.v 0) 0)) ∧ WellFormed (.plop (W 0 4 (.p 1) (.p 7) (.p 4) (.v 0) 0)) ∧
      WellFormed (.p2v (W 0 0 (.v 4) (.p 6) (.v 0) (.v 0) 0)) ∧ WellFormed (.v2p (W 0 0 (.p 6) (.v 1) (.v 0) (.v 0) 0)) ∧ WellFormed (.mov (W 1 0x160 (.v 6) (.v 0) (.v 0) (.v 0) 0xFFFFFFFF)) := by decide

theorem wit_FloatResults :
    [Instr.fadd, .fsub, .fmul, .fmin, .fmax].all (fun mk => (mk (W 0 0x1A0 (.v 1) (.v 2) (.v 3) (.v 0) 0)).wellFormed) = true ∧ WellFormed (.ffma (W 0 0x1A0 (.v 1) (.v 2) (.v 3) (.v 4) 0)) ∧
      [Instr.frcp, .frsq, .fsqrt, .fex2, .flg2, .frnd].all (fun mk => (mk (W 0 0x1B8 (.v 1) (.v 2) (.v 0) (.v 0) 0)).wellFormed) = true := by decide

theorem wit_FloatCompareAndClassResults :
    [0, 1, 2, 3, 4, 5, 6, 7].all (fun k => (Instr.fsetp (W 0 (0x1A0 + k) (.p 6) (.v 2) (.v 3) (.v 0) 0)).wellFormed) = true ∧
      [0x1A0, 0x1C0, 0x1E0].all (fun m => (Instr.fclass (W 0 m (.v 1) (.v 2) (.v 0) (.v 0) 0)).wellFormed) = true := by decide

theorem wit_LaneOperationResults :
    [0, 1, 2, 3].all (fun k => (Instr.shfl (W 0 (0x040 + k) (.v 1) (.v 2) (.v 3) (.v 0) 0)).wellFormed) = true ∧ WellFormed (.vote (W 0 1 (.p 2) (.p 1) (.v 0) (.v 0) 0)) ∧
      WellFormed (.lred (W 0 0x1A7 (.v 1) (.v 5) (.v 0) (.v 0) 0)) ∧ WellFormed (.lscan (W 0 0x161 (.v 1) (.v 4) (.v 0) (.v 0) 0)) ∧
      WellFormed (.match_ (W 0 0x040 (.v 1) (.v 11) (.v 0) (.v 0) 0)) ∧ tS.execLanes fBare ≠ 0 := by decide +kernel

/-- At the ends of a type's range. -/
theorem wit_IntegerArithmeticResults :
    tySigned tyI32 = true ∧ (tyLo tyI32 ≤ -2147483648 ∧ (2147483647 : Int) ≤ tyHi tyI32) ∧ tyBits tyI8 ≤ 32 ∧ (-128 : Int) = tyLo tyI8 ∧ tyHi tyI8 = 127 := by
  decide

theorem wit_FloatSpecialCases :
    (isNaNBits fp32 0x7F800001 ∧ isSNaNBits fp32 0x7F800001 ∧ ¬ isNaNBits fp32 0x7F800000 ∧ ¬ isSNaNBits fp32 0x7FC00000 ∧ isNaNBits fp32 0xFFFFFFFF) ∧
    (0x7F800000 % 2 ^ 31 = 0x7F800000 ∧ 0xFF800000 % 2 ^ 31 = 0x7F800000 ∧ 0x80000000 % 2 ^ 31 = 0 ∧ 0x7F7FFFFF < 0x7F800000 ∧
      0x80000000 < 0x80000001 ∧ 0xFF800000 ≤ 0xFF800000) := by decide

theorem wit_RoundingKeepsNumbersAndOverflows :
    (∀ f ∈ [fp32, fp16, bf16], 1 < 2 * f.signBit ∧ Fp.read f 1 = .fin false 1 (match Fp.read f 1 with | .fin _ _ e => e | _ => 0) ∧
      (roundFp f 0 true 3 200 false).2.getLsbD 2 = true ∧ (roundFp f 3 true 3 200 true).2.getLsbD 2 = true) := by decide

/-- Words of `cvt` between two formats, from one to a type, from a type to one, and between types. -/
theorem wit_PackedAndConversionResults :
    WellFormed (.cvt (W 0 0x1E2 (.v 1) (.v 2) (.v 0) (.v 0) 0)) ∧ WellFormed (.cvt (W 0 0x0E2 (.v 1) (.v 2) (.v 0) (.v 0) 0)) ∧
    WellFormed (.cvt (W 0 0x1A0 (.v 1) (.v 2) (.v 0) (.v 0) 0)) ∧ WellFormed (.cvt (W 0 0x160 (.v 1) (.v 2) (.v 0) (.v 0) 0)) := by decide

theorem wit_SingleReadResults :
    (let f := W 2 0 (.s 9) (.s 7) (.s 6) (.v 0) 0
     let s := tWith (fun g => { g with regs := { g.regs with s := [(7, 64)] } })
     WellFormed (.vrd f) ∧ f.immForm = false ∧ s.execLanes f ≠ 0 ∧ (s.readReg s.view (lowLane (s.execLanes f)) 0 f.a).toNat % 256 = 64 ∧
       s.me.nb = 64 ∧ s.me.ext = .none) ∧
    (let f := W 3 0 (.s 9) (.v 0) (.v 0) (.v 0) 0x1F3F
     WellFormed (.vrd f) ∧ (f.imm.extractLsb' 0 8).toNat = 63 ∧ (tS.me.thread 31).st ≠ .vacant) := by decide +kernel

/-- The target of `bra` in and out of the space of 32 bits. -/
theorem wit_ControlTransfers :
    (let x : Int := ((0 : Word).toNat : Int) + 12 + 12 * (-1)
     0 ≤ x ∧ x < 2 ^ 32) ∧
    ((0 : Word).toNat : Int) + 12 + 12 * (-2) < 0 ∧ (2 : Int) ^ 32 ≤ ((0 : Word).toNat : Int) + 12 + 12 * 357913941 := by decide

theorem wit_ExitTrapAndBreakResults :
    (let f := W 0 0 (.v 0) (.v 0) (.v 0) (.v 0) 0
     tS.execLanes f ≠ 0 ∧ tS.execLanes { f with guard := 15 } = 0) ∧
    (let f := W 1 0 (.v 0) (.v 0) (.v 0) (.v 0) 5
     let s : State := { tS with hbm := memWrite [] 50 1 1 }
     WellFormed (.brk f) ∧ tS.debugOn tS.cur.gid = false ∧ s.execLanes f ≠ 0 ∧ s.debugOn s.cur.gid = true) ∧
    -- every other live member has arrived, with a waiter, and one member has not
    (let s := tWith (fun g => { g with mM := [(2, 7)], mA := [(2, 2)], threads := (kset g.threads 1 { g.thread 1 with st := .waiting, wait := .mask 2 }) })
     (s.me.thread 1).st = .waiting ∧ (s.me.thread 1).wait = .mask 2 ∧ (sget s.me.mM 2).getLsbD 2 = true ∧ (sget s.me.mA 2).getLsbD 2 = false) := by
  decide +kernel

/-! ## Witnesses: traps and synchronisation -/

theorem wit_TrapEntry : (tM.gang 1).trap = false ∧ tM.trapEntry 1 5 = some 0x60 ∧ ((tM.gang 1).thread 31).st = .ready ∧
    ((tMg (fun g => { g with threads := [(0, { g.thread 0 with st := .exited })] })).gang 1 |>.thread 0).st = .exited := by decide +kernel

/-- A trap in a handler, and a cause without an entry. -/
theorem wit_TrapEscalation :
    (let s := tWith (fun g => { g with trap := true })
     (s.gang 1).trap = true ∧ 1 ∈ (s.block (s.gang 1).block).gangs ∧ (s.gang 1).live = true) ∧
    ((tM.gang 1).trap = false ∧ tM.trapEntry 1 0 = none ∧ 1 ∈ (tM.block (tM.gang 1).block).gangs ∧ (tM.gang 1).live = true) := by decide +kernel

theorem wit_TrapReturn :
    (let s := tWith (fun g => { g with trap := true })
     tS.execLanes { fBare with guard := 15 } = 0 ∧ tS.execLanes fBare ≠ 0 ∧ tS.me.trap = false ∧ s.execLanes fBare ≠ 0 ∧ s.me.trap = true ∧ s.me.acks = [] ∧
       (∀ l, l < 32 → (s.me.thread l).savedWait = .none)) ∧
    (∀ g l w, ((tS.gang g).thread l).wait ≠ .waddr w) ∧
    (∀ g l, l < 32 → ∀ n w o, ((tS.gang g).thread l).wait ≠ .reform n w o) := by
  refine ⟨by decide +kernel, fun g l w => (no_watchers tS tGang rfl rfl g l w).1, fun g l hl n w o => ?_⟩
  have h : ∀ l, l < 32 → (tGang.thread l).wait = .none := by decide +kernel
  rw [gang_one tS tGang rfl]
  by_cases hg : g = 1
  · rw [if_pos hg, h l hl]; nofun
  · rw [if_neg hg]; nofun

/-- A filled and a full set of bins, members of a mask, and a load in the taint of a register to be carried. -/
theorem wit_ReformResults :
    (let f := W 1 0 (.v 0) (.v 3) (.v 0) (.v 0) 4
     let t := tWith (fun g => { g with mM := [(11, 0x80000000)] })
     WellFormed (.reform f) ∧ tS.execLanes f ≠ 0 ∧ (∃ k, k < 12 ∧ sget t.me.mM k &&& t.execLanes f ≠ 0) ∧ (∀ k, k < 12 → sget tS.me.mM k &&& tS.execLanes f = 0) ∧
       tS.me.taintLoads (tS.me.taintOf ((List.range 4) ++ (List.range 7).map (512 + ·))) = [] ∧ ∃ k, k < 32 ∧ kfind (tS.core tS.me.core).bins k = none) := by
  decide +kernel

/-- `mjoin`, `mleave` and `mwait` of m11, with and without a release. -/
theorem wit_MaskRegisterResults :
    (let f := W 0 0 (.p 27) (.v 0) (.v 0) (.v 0) 0
     WellFormed (.mjoin f) ∧ WellFormed (.mleave f) ∧ WellFormed (.mwait f) ∧ tS.execLanes f ≠ 0 ∧
       (let s := tWith (fun g => { g with mM := [(11, 0xFFFFFFFF)] })
        sget s.me.mA 11 ||| s.execLanes f = sget s.me.mM 11 ∧ sget s.me.mA 11 ||| s.execLanes f ≠ 0)) := by decide +kernel

def tBar : State := tBlk (fun b => { b with bars := [(2, { gen := 5, count := 0, n := 32, fixed := true })] })

/-- 32 arrivals at barrier 2 of one gang: the most that it can name, one too many, a number other than the barrier's, and a second arrival of a thread. -/
theorem wit_BlockBarrierResults :
    (let f := W 1 2 (.v 0) (.v 0) (.v 0) (.v 0) 32
     let g := W 1 2 (.v 0) (.v 0) (.v 0) (.v 0) 33
     let r := kget (tBar.block 2).bars 2
     WellFormed (.bsync f) ∧ WellFormed (.barv f) ∧ WellFormed (.bwt f) ∧ tBar.execLanes f ≠ 0 ∧ r.n = f.imm.toNat ∧ f.imm.toNat ≤ 32 * (tBar.block 2).ngang ∧
       32 * (tBar.block 2).ngang < g.imm.toNat ∧ (r.fixed = true ∧ g.imm.toNat ≠ r.n) ∧ tBar.cur.gid ∈ (tBar.block 2).gangs ∧ f.imm.toNat ≤ r.count + 32 ∧
       (∀ l, l < 32 → tBar.drainIds tBar.cur.gid l = [] ∧ (tBar.me.thread l).st = .ready ∧ (tBar.me.thread l).wait = .none ∧ (tBar.me.thread l).pend = [])) ∧
    (2, 5) ∈ ((tWith (fun g => { g with threads := kset g.threads 0 { g.thread 0 with pend := [(2, 5)] } })).me.thread 0).pend := by decide +kernel

def nBar (n : Nat) (att iss arr : List Nat) : NamedBar :=
  { asid := 5, launch := 3, stk := 0, clu := 0, name := 9, n := n, attached := att, issued := iss, arrived := arr, gen := 0 }
abbrev tNamed (l : KMap NamedBar) (next : Nat) : State := { tS with clusters := [(0, { (default : Cluster) with bars := l })], next := next }

/-- Named barrier 9 of record 4, in each case of the words, and full and empty tables. -/
theorem wit_NamedBarrierResults :
    (let f := W 1 0 (.v 0) (.v 0) (.v 0) (.v 0) 9
     let a := W 1 0 (.v 0) (.s 8) (.v 0) (.v 0) 768
     WellFormed (.nbatt a) ∧ WellFormed (.nbarv f) ∧ WellFormed (.nbwt f) ∧ WellFormed (.nbdet f) ∧ tS.execLanes f ≠ 0 ∧ a.imm.toNat = 768 ∧
       (∀ s ∈ [tNamed [(4, nBar 768 [1] [] [])] 5, tNamed [(4, nBar 768 [] [] [])] 5, tNamed [(4, nBar 1 [1] [1] [])] 5, tNamed [(4, nBar 2 [1] [] [7])] 5],
         s.namedId 1 9 = some 4) ∧ tS.namedId 1 9 = none ∧
       (let x := nBar 768 [1] [] []; x.n = 768 ∧ 1 ∈ x.attached ∧ 1 ∉ x.issued ∧ 0 < x.n ∧ x.arrived.length + 1 ≠ x.n ∧ 1 < x.n) ∧
       (let x := nBar 768 [] [] []; 1 ∉ x.attached ∧ x.attached.length < x.n) ∧ 1 ∈ (nBar 1 [1] [1] []).issued ∧ (nBar 1 [1] [1] []).n ≤ 1 ∧
       (nBar 2 [1] [] [7]).arrived.length + 1 = 2 ∧ (∀ l, l < 32 → tS.drainIds 1 l = [])) ∧
    (let full := (List.range 256).map (fun k => (k, nBar 1 [] [] []))
     let s : State := { tNamed full 256 with blocks := [(2, { tBlock with stk := 1 })] }
     s.namedId 1 9 = none ∧ 256 ≤ (kget s.clusters 0).bars.length ∧ (full.filter (fun kv => kv.2.attached.contains 1)).length < 8) ∧
    ((kget tS.clusters 0).bars.length < 256 ∧ ∀ kv ∈ (kget tS.clusters 0).bars, kv.1 ≤ tS.next) ∧
    (((kget (tNamed [(4, nBar 1 [1] [1] [])] 5).clusters 0).bars.map Prod.fst).Pairwise (· < ·)) := by decide +kernel

theorem wit_TimedWaitAndPointResults :
    (let s := tWith (fun g => { g with threads := kset g.threads 31 { g.thread 31 with st := .waiting, wait := .sleep 0 4 } })
     ((s.gang 1).thread 31).st = .waiting ∧ ((s.gang 1).thread 31).wait = .sleep 0 4 ∧ (s.gang 1).active = true ∧ 0 ≤ s.now (s.gang 1).core ∧
       (∀ k, k < 32 → k ≠ 31 → ((s.gang 1).thread k).sleepsFor 4 = false)) ∧
    (let f := W 1 0 (.v 0) (.v 0) (.v 0) (.v 0) 0x8001
     WellFormed (.ppoint f) ∧ tS.execLanes f ≠ 0 ∧ (tS.block 2).slabs = 16 ∧ (f.imm.setWidth 16 : BitVec 16).getLsbD 15 = true) ∧
    tS.execLanes { fBare with guard := 15 } = 0 := by decide +kernel

theorem wit_ExtendedRegisterResults :
    (let f := W 1 0 (.v 0) (.v 0) (.v 0) (.v 0)
     let s := tWith (fun g => { g with ext := .held, extK := 3 })
     let t := tWith (fun g => { g with regs := { g.regs with s := [(8, 4)] } })
     WellFormed (.xacq (f 3)) ∧ WellFormed (.xacq (W 0 0 (.v 0) (.s 8) (.v 0) (.v 0) 0)) ∧ tS.execLanes (f 3) ≠ 0 ∧ (t.readReg t.view 0 0 (.s 8)).toNat = 4 ∧
       tS.me.ext = .none ∧
       (s.me.ext = .held ∧ s.me.extK = (f 3).imm.toNat) ∧ (s.me.ext ≠ .none ∧ s.me.extK ≠ (f 2).imm.toNat) ∧
       2 ^ 3 ≤ freeGranules (tS.core tS.me.core).allocs ∧ (tS.core tS.me.core).allocQ = [] ∧ WellFormed (.xrel fBare) ∧ s.me.extBusy (s.now s.me.core) = false) := by
  decide +kernel

/-- A slab's configuration word is in order (R308). -/
def cfgOk (x : Word) : Bool :=
  let ty := x.extractLsb' 21 5
  let rb := (x.extractLsb' 0 10).toNat
  (ty == tyF32 || (decide (0x10 ≤ ty.toNat) && decide (ty.toNat ≤ 0x16))) && rb % 4 == 0 && decide (4 ≤ rb) && decide (rb ≤ 512) &&
    (ty == tyF32 || rb % (4 * (ty.toNat - 14)) == 0)

/-- Writes of each group of registers at its ends, and slab configurations at theirs. -/
theorem wit_ControlWriteResults :
    (let f := fun n => W 3 0 (.v 0) (.s 4) (.v 0) (.v 0) n
     let g := fun n => W 1 0 (.v 0) (.v 4) (.v 0) (.v 0) n
     [0x010, 0x012, 0x013, 0x014, 0x018, 0x030, 0x03B, 0x040, 0x04B, 0x050, 0x05F].all (fun n => (Instr.wrsp (f n)).wellFormed && (f n).ctlNum == n.toNat) = true ∧
       [0x100, 0x102].all (fun n => (Instr.wrsp (g n)).wellFormed && (g n).ctlNum == n.toNat) = true ∧
       tS.execLanes (f 0x30) ≠ 0 ∧ tS.execLanes { f 0x30 with guard := 15 } = 0 ∧ tS.me.trap = false ∧ (tWith (fun g => { g with trap := true })).me.trap = true) ∧
    cfgOk 0x01A00200 = true ∧ cfgOk 0x02DF0020 = true ∧ cfgOk 0x02000004 = false := by decide +kernel

/-! ## Witnesses: memory -/

def anEntry : LoadOp := { (default : LoadOp) with id := 6, tag := 15, dst := .v 8, ty := tyI8, lanes := 0x80000000, vals := [(31, 0xFF)] }

/-- An arrival whose drain is over at each kind of object, the barrier's last, the named barrier's last and one before it. -/
theorem wit_ArrivalEvents :
    (let s := tWith (fun g => { g with mM := [(11, 0x80000001)], mA := [(11, 1)], drains := [{ kind := 0, lane := 31, obj := 11, gen := 0, ids := [] }] })
     (s.doneDrain 1 (fun d => d.kind == 0 && d.lane == 31)).isSome = true ∧ tS.doneDrain 1 (fun d => d.kind == 0 && d.lane == 31) = none) ∧
    (let s : State := { tBar with
       blocks := [(2, { tBlock with bars := [(2, { gen := 5, count := 31, n := 32, fixed := true })] })]
       gangs := [(1, { tGang with drains := [{ kind := 1, lane := 31, obj := 2, gen := 5, ids := [] }], threads := kset tGang.threads 31 { tGang.thread 31 with pend := [(2, 5)], st := .waiting, wait := .bar 2 5 0 } })] }
     let r := kget (s.block 2).bars 2
     (s.doneDrain 1 (fun d => d.kind == 1 && d.lane == 31 && d.obj == 2)).isSome = true ∧ (2, 5) ∈ ((s.gang 1).thread 31).pend ∧ r.gen = 5 ∧ r.fixed = true ∧ r.n ≤ r.count + 1 ∧
       1 ∈ (s.block 2).gangs ∧ ((s.gang 1).thread 31).st = .waiting) ∧
    (∀ n ∈ [1, 2], let s : State := { tNamed [(4, nBar n [1] [1] [])] 5 with gangs := [(1, { tGang with drains := [{ kind := 2, lane := 0, obj := 4, gen := 0, ids := [] }] })] }
     s.namedId 1 (BitVec.ofNat 32 9) = some 4 ∧ 0 < (kget (kget s.clusters 0).bars 4).n ∧ (s.doneDrain 1 (fun k => k.kind == 2 && k.obj == 4)).isSome = true) := by
  decide +kernel

/-- A load of the highest tag that is performed, and a watched word that meets its condition and one that does not. -/
theorem wit_LoadStoreAndWatchCompletion :
    (let s := tWith (fun g => { g with loads := [anEntry], taint := [(8, 0x8000)] })
     ((s.gang 1).loads.find? (fun x => x.id == 6)) = some anEntry ∧ anEntry.tag ≠ 18 ∧ anEntry.reqs = [] ∧ swf (s.gang 1).taint = true ∧ anEntry.lanes ≠ 0) ∧
    ([0, 1].all (fun c =>
      let w : WaddrWait := { loc := .host 64, wide := false, cond := BitVec.ofNat 3 c, cmp := 0, dst := .v 9, load := 7, entry := false, next := 0, fresh := false, handle := 0x70002, off := 64, key := 0 }
      let s := tWith (fun g => { g with threads := kset g.threads 31 { g.thread 31 with st := .waiting, wait := .waddr w } })
      ((s.gang 1).thread 31).st == .waiting && ((s.gang 1).thread 31).wait == .waddr w && (s.gang 1).active && decide (w.next ≤ s.now (s.gang 1).core) &&
        waddrCond w.cond (s.waddrVal w) w.cmp == (c == 0)) = true) := by decide +kernel

def aR : Ask := { rights := rightR, kinds := [kindTiled, kindHost], width := 4, align := 4, write := false, blk := false }
def aW : Ask := { aR with rights := rightW, write := true, kinds := [kindTiled] }

/-- Buffers and offsets at which the checks first fail one by one, and at the last word that passes. -/
theorem wit_AccessChecks :
    (let s : State := { tM with hbm := memWrite tM.hbm 0x400C0 32 (tEnt 1 63 1 4096 0 0x100000 - 2 ^ 222) }
     let e := fun k => (s.bufEnt 5 k).getD default
     let ok1 := fun (e : BufEnt) (h : Nat) => (e.kind = 1 ∨ e.kind = 2 ∨ e.kind = 3 ∨ e.kind = 4) ∧ e.gran ≤ 8 ∧ (e.kind = 4 ∨ e.smask ≠ 0) ∧ e.gen = h / 2 ^ 16 % 2 ^ 16 ∧ (e.kind = 3 ∨ e.kspec = 0)
     let ok2 := fun (e : BufEnt) (off : Int) => 0 ≤ off ∧ off + 4 ≤ e.len
     (s.launchOf 1).asid = 5 ∧ s.bufEnt 5 8 = none ∧ (∀ k ∈ [1, 2, 4, 5, 6], (s.bufEnt 5 k).isSome = true ∧ ok1 (e k) (0x70000 + k)) ∧ ¬ ok1 (e 1) 0x80001 ∧
       ok2 (e 1) 4092 ∧ ok2 (e 1) 0 ∧ ¬ ok2 (e 1) 4093 ∧ ¬ ok2 (e 1) (-1) ∧ (e 5).rights &&& aW.rights ≠ aW.rights ∧ (e 1).rights &&& aW.rights = aW.rights ∧
       (e 6).asid ≠ 5 ∧ (∀ k ∈ [1, 2, 4, 5], (e k).asid = 5) ∧ aW.kinds.contains (e 2).kind = false ∧ aR.kinds.contains (e 2).kind = true ∧ (4090 : Int).toNat % aR.align ≠ 0 ∧
       s.cachedEnt 0 5 0 0x40000000 = none ∧ (0, 0x40000000 / 2 ^ 16) ∉ s.cur.absent ∧ (s.cachedEnt 0 5 0 0x100FFC).isSome = true ∧ (s.cachedEnt 0 5 12 0x100000).isSome = true ∧
       (kget s.keys (e 1).key).spent = false) ∧
    (0, 0x4000) ∈ ({ tM with cur := { tM.cur with absent := [(0, 0x4000)] } } : State).cur.absent ∧
    ((tM.block (tM.gang 1).block).blkmem = 1024 ∧ (1020 : Int) + 4 ≤ 1024 ∧ ¬ (1021 : Int) + 4 ≤ 1024 ∧ (1018 : Int).toNat % 4 ≠ 0) := by decide +kernel

/-- Words of 32 bits at address space 0, 1, 2 and block memory, lane l at offset 4 l. -/
def wLd (mod : BitVec 10) : Instr := .ld (W 0 mod (.v 9) (if mod = 152 then .v 0 else if mod = 144 then .s 5 else .s 4) (.v 3) (.v 0) 0)
def wSt (mod : BitVec 10) : Instr := .st (W 0 mod (.v 0) (if mod = 152 then .v 0 else if mod = 144 then .s 5 else .s 4) (.v 3) (.v 8) 0)

/-- `tM` with threads 0 and 31 in the bundle. -/
def tTwo : State := { tM with cur := { tM.cur with mask := 0x80000001 } }

theorem wit_FailedChecksParkThreads :
    (let i : Instr := .ld (W 0 128 (.v 9) (.s 4) (.v 3) (.v 0) 3972)
     let m := askOf i.fields rightR false
     let chk := fun l => tTwo.checkLane tTwo.view l i.fields m
     WellFormed i ∧ tTwo.execLanes i.fields ≠ 0 ∧ isClear tTwo i = true ∧ ((tTwo.askers i).filter (fun l => match chk l with | .fail _ _ _ => true | _ => false)) = [31] ∧
       chk 31 = .fail 3 0x70001 4096 ∧ (match chk 0 with | .ok t => exists_ t.loc && (List.range 4).all (fun k => !tTwo.watchHit 0 5 t m k) | _ => false) = true) := by
  decide +kernel

def sbOne : SbEntry := { handle := 0x70001, off := 0, width := 4, val := 77, loc := .hbm 0x500000, pin := false, key := 0, lanes := 1, pc := 0 }
/-- `tM` with thread 0 alone in the bundle. -/
def tOne (f : Gang → Gang) : State := { tMg f with cur := { tM.cur with mask := 1 } }
/-- The line of buffer 1's first bytes stands in the phase cache. -/
def tLine : State := { tOne id with cores := [(0, { tM.core 0 with lines := [(0x500000 / 64, [{ stamp := 1, data := [(0, 5)] }])] })] }

/-- A well-formed word meets `Passes` with the targets of its checks. -/
def passesWord (s : State) (i : Instr) (m : Ask) : Bool := i.wellFormed && passesB i m (fun l => s.checkLane s.view l i.fields m) s
def loads_ (s : State) (mod : BitVec 10) : Bool := passesWord s (wLd mod) (askOf (wLd mod).fields rightR false)
def stores_ (s : State) (mod : BitVec 10) : Bool := passesWord s (wSt mod) (askOf (wSt mod).fields rightW true)
def tgts (s : State) (i : Instr) (rights : Nat) (w : Bool) : List (Nat × Target) := targets s i (fun l => s.checkLane s.view l i.fields (askOf i.fields rights w))

/-- At each space, with an entry of the store buffer that forwards, and with a line of the phase cache. -/
theorem wit_LoadResults :
    (loads_ tTwo 128 = true ∧ loads_ tTwo 136 = true ∧ loads_ tTwo 144 = true ∧ loads_ tTwo 152 = true ∧ tTwo.me.sb = []) ∧
    (let s := tOne (fun g => { g with sb := [sbOne] })
     loads_ s 128 = true ∧ (tgts s (wLd 128) rightR false).all (fun o => s.me.sb.getLast?.any (fun x => x.loc == o.2.loc && x.width == 4)) = true) ∧
    (loads_ tLine 128 = true ∧ tLine.me.sb = [] ∧ (tgts tLine (wLd 128) rightR false).map (fun o => o.2.loc) = [.hbm 0x500000] ∧
      (tLine.lineHit 1 0x500000).isSome = true) := by decide +kernel

/-- At each space, and with room in the store buffer for the word's 2 stores or for one alone. -/
theorem wit_StoreResults :
    (stores_ tTwo 128 = true ∧ stores_ tTwo 136 = true ∧ stores_ tTwo 144 = true ∧ stores_ tTwo 152 = true ∧
      ((tgts tTwo (wSt 128) rightW true).map (fun o => o.2.off)) = [0, 124]) ∧
    [62, 63].all (fun n =>
      let s : State := { tMg (fun g => { g with sb := (List.range n).map (fun k => { sbOne with off := 1024 + 4 * k }) }) with cur := tTwo.cur }
      stores_ s 128 && s.me.sb.length == n) = true ∧ NoWatchers tTwo := ⟨by decide +kernel, by decide +kernel, no_watchers tTwo _ rfl rfl⟩

theorem wit_AtomicResults :
    (let ok := fun (i : Instr) => passesWord tTwo i (askOf i.fields rightA true)
     ok (.atom (W 0 139 (.v 9) (.s 4) (.v 3) (.v 8) 0)) = true ∧ ok (.atom (W 0 163 (.v 9) (.v 0) (.v 3) (.v 8) 0)) = true ∧ ok (.cas (W 0 136 (.v 9) (.s 4) (.v 3) (.v 8) 0)) = true ∧
       ok (.cas (W 0 160 (.v 9) (.v 0) (.v 3) (.v 8) 0)) = true ∧ ok (.red (W 0 139 (.v 0) (.s 4) (.v 3) (.v 8) 0)) = true ∧ ok (.red (W 0 163 (.v 0) (.v 0) (.v 3) (.v 8) 0)) = true) ∧
    NoWatchers tTwo := ⟨by decide +kernel, no_watchers tTwo _ rfl rfl⟩

/-- The first and the last word of a spill stack of 16 bytes, and the words beyond its ends and off a word. -/
theorem wit_SpillStackResults :
    (let sp := fun n => W 0 168 (.v 0) (.v 0) (.v 255) (.v 8) n
     let fi := fun n => W 0 168 (.v 8) (.v 0) (.v 255) (.v 0) n
     let s := tWith (fun g => { g with spSet := (List.range 32).map (fun l => (96 + l, 1)) })
     [0, 12, 16, 0xFFFFFC, 2].all (fun n => (Instr.spill (sp n)).wellFormed && (Instr.fill (fi n)).wellFormed) = true ∧ s.execLanes (sp 0) ≠ 0 ∧
       (s.block s.me.block).stack = 16 ∧ (sp 12).imm24.toInt + 4 ≤ 16 ∧ ¬ (sp 16).imm24.toInt + 4 ≤ 16 ∧ (sp 0xFFFFFC).imm24.toInt < 0 ∧ (sp 2).imm24.toInt % 4 ≠ 0 ∧
       mtyRegs (fi 12).mty = 1 ∧ (∀ l, l < 32 → sget s.me.spSet (32 * 3 + l) = 1)) := by decide +kernel

/-- Words without and with stores that are not acknowledged, and with a load in flight. -/
theorem wit_PhaseAndTaintResults :
    (let s := tWith (fun g => { g with out := [(5, false)] })
     let l := tWith (fun g => { g with loads := [anEntry], taint := [(8, 0x8000)] })
     let f := W 2 0 (.v 0) (.v 8) (.v 0) (.v 0) 0
     tS.execLanes fBare ≠ 0 ∧ tS.me.out = [] ∧ tS.me.sb = [] ∧ s.me.out ≠ [] ∧ s.cur.stage = 0 ∧ s.me.sb = [] ∧ (l.me.taintLoads (l.me.taintOf (opCodes 1 f.a)) = [6]) ∧
       tS.me.taintLoads (tS.me.taintOf (opCodes 1 f.a)) = [] ∧ swf l.me.taint = true ∧ ({ l with cur := { l.cur with stage := 1 } } : State).cur.stage ≠ 0) := by decide +kernel

theorem wit_TileMetadataAndWatchResults :
    (let s := tOne id
     let tile := fun (mk : Fields → Instr) => mk (W 0 0 (.v 0) (.s 4) (.v 3) (.v 0) 0)
     let ld := Instr.mdld (W 0 0x80 (.v 9) (.s 4) (.v 3) (.v 0) 0)
     let st := Instr.mdst (W 0 0x80 (.v 0) (.s 4) (.v 3) (.v 8) 0)
     let wa := Instr.waddr (W 2 0 (.v 9) (.s 4) (.v 3) (.v 8) 0)
     let wb := Instr.waddr (W 2 1 (.v 9) (.v 0) (.v 3) (.v 8) 0)
     let p := passesWord
     p tTwo (tile .tfetch) tileAsk = true ∧ p { tTwo with cur := { tTwo.cur with stage := 1 } } (tile .tevict) tileAsk = true ∧ p s ld (metaAsk ld.fields rightR false) = true ∧
       p s st (metaAsk st.fields rightW true) = true ∧ p tTwo wa (waddrAsk wa.fields) = true ∧ wa.fields.mod.getLsbD 0 = false ∧ p tTwo wb (waddrAsk wb.fields) = true ∧
       wb.fields.mod.getLsbD 0 = true) := by decide +kernel

/-! ## Witnesses: copies, slabs and the matrix array -/

/-- s16 to s22 hold a copy's operands: buffer 1 at offset 0 to buffer 1 at offset 64, 16 bytes; s24 to s27 a window of buffer 1 with stride 64. -/
def cpRegs : Regs := { (default : Regs) with s := [(8, 2048), (16, 0x70001), (17, 0x70001), (18, 64), (22, 16), (24, 0x70001), (25, 64)] }
def tCp (f : Gang → Gang) (x : KMap Copy) : State := { tMg (fun g => f { g with regs := cpRegs }) with copies := x }
def cpDone : Copy := { (default : Copy) with gid := 1, state := 0 }
def fullIds : KMap Copy := (List.range 512).map (fun k => (k, default))
def cp0 : Fields := W 0 0 (.s 4) (.s 16) (.v 0) (.v 0) 0
def cpq0 : Fields := W 0 16 (.s 4) (.q 1) (.s 24) (.v 0) 0

/-- Slabs 0 to 3: F32 of 32 rows, BFP of 4 bits of 256 elements twice, and F32 with a flaw. -/
def tSlabs : KMap Slab :=
  [(0, { ty := tyF32, rows := 32, rbytes := 128, data := [], flaw := 0 }), (1, { ty := 0x12, rows := 32, rbytes := 128, data := [], flaw := 0 }),
    (2, { ty := 0x12, rows := 32, rbytes := 128, data := [], flaw := 0 }), (3, { ty := tyF32, rows := 8, rbytes := 128, data := [], flaw := 2 })]

theorem wit_CopyCommandResults :
    (let s := tCp id []
     WellFormed (.cp cp0) ∧ s.execLanes cp0 ≠ 0 ∧ isClear s (.cp cp0) = true ∧ s.cur.cmd = none ∧
       ({ s with cur := { s.cur with cmd := some cpDone } } : State).cur.cmd = some cpDone ∧ thereB (s.checkEnd 1 false 0x70001 64 1 0 16 rightD) = true ∧
       thereB (s.checkEnd 1 false 0x70001 0 1 0 16 rightC) = true ∧ kfind s.copies (512 * s.me.core + 511) = none ∧
       (s.readReg s.view 0 0 (.s 16) = 0x70001 ∧ s.readReg s.view 0 2 (.s 16) = 64 ∧ s.readReg s.view 0 6 (.s 16) = 16) ∧
       (match s.checkEnd 1 false 0x70001 4090 1 0 16 rightD with | .fail k _ _ => k == 3 | _ => false) = true) ∧
    fullIds.all (fun kv => decide (kv.1 < 512)) = true ∧ fullIds.length = 512 ∧
    (let s : State := { tCp id [] with blocks := [(2, { tBlock with slab := tSlabs })] }
     let slab := kget (s.block s.me.block).slab 1
     WellFormed (.cpq cpq0) ∧ isClear s (.cpq cpq0) = true ∧ cpq0.mod.getLsbD 4 = true ∧ thereB (s.checkEnd 1 false 0x70001 0 slab.rows 64 slab.rbytes rightC) = true) := by
  decide +kernel

theorem full_ids (id : Nat) (h : id < 512) : kfind fullIds (512 * 0 + id) ≠ none := by
  have key : ∀ (n lo : Nat), lo ≤ id → id < lo + n → kfind ((List.range' lo n).map (fun k => (k, (default : Copy)))) id ≠ none := by
    intro n
    induction n with
    | zero => intro lo h1 h2; omega
    | succ n ih =>
      intro lo h1 h2
      rw [List.range'_succ, List.map_cons, kfind]
      by_cases h3 : lo = id
      · rw [if_pos h3]; nofun
      · rw [if_neg h3, if_neg (by omega)]
        exact ih (lo + 1) (by omega) (by omega)
  rw [Nat.mul_zero, Nat.zero_add, fullIds, List.range_eq_range']
  exact key 512 0 (by omega) (by omega)


/-- Copies held, with a record or none, complete or not; batches that are empty, unfinished, finished, and 16. -/
theorem wit_CopyBatchResults :
    (let f := W 1 0 (.s 4) (.s 9) (.v 0) (.v 0)
     let s := fun x => tCp id [(0, x)]
     WellFormed (.cpflag (f 1016)) ∧ tS.execLanes (f 8) ≠ 0 ∧ isClear (tCp id []) (.cpflag (f 8)) = true ∧ (tCp id []).heldCopy 1 0 = none ∧
       (s { cpDone with record := some (8, 9) }).heldCopy 1 0 = some (0, { cpDone with record := some (8, 9) }) ∧ (f 1016).imm.toNat % 8 = 0 ∧ (f 4).imm.toNat % 8 ≠ 0 ∧
       (tS.block 2).blkmem = 1016 + 8 ∧ (tS.block 2).blkmem < 1024 + 8 ∧ (s cpDone).heldCopy 1 0 = some (0, cpDone) ∧ cpDone.record = none ∧ cpDone.complete = true ∧
       ({ cpDone with state := 3 } : Copy).complete = false ∧ WellFormed (.cpst (W 0 0 (.s 4) (.s 9) (.v 0) (.v 0) 0))) ∧
    (let s := fun (o : List Nat) b st => tCp (fun g => { g with open_ := o, batches := b }) [(0, { cpDone with state := st })]
     isClear (s [] [] 0) (.cpcommit fBare) = true ∧ (s [] [] 0).me.open_ = [] ∧ ((s [0] [] 3).me.open_ ≠ [] ∧ [0].all (fun k => (kget (s [0] [] 3).copies k).complete) = false) ∧
       [0].all (fun k => (kget (s [0] [] 0).copies k).complete) = true ∧ 16 ≤ (s [0] (List.replicate 16 [0]) 3).me.batches.length ∧
       (List.replicate 15 [0]).length < 16) ∧
    (let f := W 1 0 (.v 0) (.v 0) (.v 0) (.v 0) 1
     let s := fun n => tCp (fun g => { g with batches := List.replicate n [0] }) [(0, { cpDone with state := 3 })]
     let o := fun n => tCp (fun g => { g with open_ := [0], batches := List.replicate n [0] }) [(0, { cpDone with state := 3 })]
     (o 0).me.open_ ≠ [] ∧ (o 0).me.batches.length + 1 ≤ 1 ∧ (1 < (o 1).me.batches.length + 1 ∧ (o 1).me.batches.length < 16) ∧ 16 ≤ (o 16).me.batches.length ∧ [0].all (fun k => (kget (o 0).copies k).complete) = false ∧
     WellFormed (.cpwait f) ∧ isClear (s 1) (.cpwait f) = true ∧ (s 1).me.open_ = [] ∧ (s 1).me.batches.length ≤ 1 ∧ 1 < (s 2).me.batches.length ∧ (s 2).cur.stage ≠ 2) := by
  decide +kernel

def tSl : State := { tS with blocks := [(2, { tBlock with slab := tSlabs })] }

/-- Configurations that are in order and not, the last row of a slab and the one after it, and slabs with a flaw, without, and of another type. -/
theorem wit_SlabResults :
    (let cf := W 1 0x2A0 (.q 0) (.v 0) (.v 0) (.v 0)
     WellFormed (.scfg (cf 0x1F81F)) ∧ WellFormed (.scfg (cf 0x3FF1F)) ∧ cfgOk (BitVec.ofNat 32 (0x15 * 2 ^ 21 + 31 * 2 ^ 16 + 504)) = true ∧
       cfgOk (BitVec.ofNat 32 (0x15 * 2 ^ 21 + 31 * 2 ^ 16 + 1023)) = false ∧ WellFormed (.szero (W 0 0 (.q 0) (.v 0) (.v 0) (.v 0) 0)) ∧
       WellFormed (.smovIn (W 2 6 (.q 3) (.v 3) (.v 255) (.v 0) 7)) ∧ WellFormed (.smovIn (W 2 6 (.q 3) (.v 3) (.v 255) (.v 0) 8)) ∧
       WellFormed (.smovOut (W 2 1 (.v 9) (.q 0) (.v 255) (.v 0) 31)) ∧ WellFormed (.smovOut (W 2 1 (.v 9) (.q 3) (.v 255) (.v 0) 7)) ∧
       WellFormed (.samax (W 0 0 (.v 9) (.q 1) (.v 0) (.v 0) 0)) ∧ tSl.execLanes fBare ≠ 0) ∧
    (let sl := fun k => kget (tSl.block tSl.me.block).slab k
     7 < (sl 3).rows ∧ (sl 3).rows ≤ 8 ∧ 2 ≤ (sl 3).flaw ∧ 31 < (sl 0).rows ∧ (sl 0).flaw < 2 ∧ (sl 0).ty = tyF32 ∧ (sl 1).ty ≠ tyF32 ∧ (sl 3).ty = tyF32) := by
  decide +kernel

/-- A multiplication of slabs 1 and 2 into 0 is in order, one of 1 and 0 is not; an armed one with and without its copy. -/
theorem wit_MmaResults :
    (let f := W 3 0 (.q 0) (.q 1) (.v 20) (.v 22) 0x002
     let g := W 3 0 (.q 0) (.q 1) (.v 20) (.v 22) 0x000
     let a := W 3 1 (.q 0) (.q 1) (.v 20) (.v 22) 0x802
     let s : State := { tSl with gangs := [(1, { tGang with arm := some 0 })], copies := [(0, { cpDone with state := 3, armed := true, serial := 6, dst := { cpDone.dst with sort := 2 } })] }
     let sl := fun k => kget (tSl.block tSl.me.block).slab k
     let bfp := fun (x : Slab) => 0x10 ≤ x.ty.toNat ∧ x.ty.toNat ≤ 0x16 ∧ x.rows = 32
     WellFormed (.mma f) ∧ WellFormed (.mma g) ∧ WellFormed (.mma a) ∧ tSl.execLanes f ≠ 0 ∧ bfp (sl 1) ∧ bfp (sl 2) ∧ ¬ bfp (sl 0) ∧ (sl 0).ty = tyF32 ∧ (sl 0).rows = 32 ∧ (sl 0).rbytes = 128 ∧
       8 * (sl 1).rbytes / ((sl 1).ty.toNat - 14) = 256 ∧ 8 * (sl 2).rbytes / ((sl 2).ty.toNat - 14) = 256 ∧ f.mod.getLsbD 0 = false ∧ a.mod.getLsbD 0 = true ∧ tSl.me.arm = none ∧
       s.me.arm = some 0 ∧ (sget s.view.s (a.imm.extractLsb' 8 6).toNat).toNat % 512 = 0 ∧ (kfind s.copies 0).isSome = true ∧ (kget s.copies 0).complete = false ∧
       s.copies.all (fun kv => kv.2.state != 1) = true ∧ (s.core s.me.core).armed = [] ∧ (kget s.copies 0).gid = s.cur.gid ∧ (kget s.copies 0).dst.sort = 2 ∧ s.me.slabEnds = []) := by decide +kernel

/-- `quant` to a slab at the last row and block that fit and one beyond, to a register, and `swb` in each form. -/
theorem wit_QuantiseAndWriteBackResults :
    (let q := fun n => W 1 0x240 (.q 1) (.v 3) (.v 0) (.v 0) n
     let v := W 1 0x240 (.v 9) (.v 3) (.v 0) (.v 0) 0x60000
     let sl := kget (tSl.block tSl.me.block).slab 1
     WellFormed (.quant (q 0xFF7F)) ∧ WellFormed (.quant v) ∧ tSl.execLanes v ≠ 0 ∧ (q 0xFF7F).d = .q (BitVec.ofNat 8 (q 0xFF7F).d.index) ∧ v.d ≠ .q (BitVec.ofNat 8 v.d.index) ∧
       (q 0xFF7F).ty = sl.ty ∧ (((0xFF7F : Word).extractLsb' 8 5).toNat < sl.rows ∧ 4 * 4 * (((0xFF7F : Word).extractLsb' 13 3).toNat + 1) ≤ sl.rbytes) ∧
       ¬ 4 * 4 * (((0xFF7F : Word).extractLsb' 13 3).toNat + 1) ≤ 124 ∧
       WellFormed (.bexp (W 0 0 (.s 4) (.s 7) (.v 0) (.v 0) 0))) ∧
    (let s : State := { tCp id [] with blocks := [(2, { tBlock with slab := tSlabs })] }
     let f := fun m q => W 3 m (.s 4) (.q q) (.s 24) (if m = 0 then .v 0 else .s 8) 0
     let x := kget (s.block s.me.block).slab 0
     WellFormed (.swb (f 0 0)) ∧ WellFormed (.swb (f 8 0)) ∧ WellFormed (.swb (f 8 1)) ∧ isClear s (.swb (f 8 0)) = true ∧ s.cur.cmd = none ∧ (f 0 0).sco = 0 ∧ (f 8 1).sco ≠ 0 ∧ (kget (s.block 2).slab 1).ty ≠ tyF32 ∧
       x.ty = tyF32 ∧ x.flaw < 2 ∧ thereB (s.checkEnd 1 false 0x70001 0 31 64 128 rightD) = true ∧ thereB (s.checkEnd 1 false 0x70001 0 x.rows 64 x.rbytes rightD) = true ∧
       (({ s with gangs := [(1, { tGang with regs := { cpRegs with s := (8, 8) :: cpRegs.s.tail } })] } : State).checkAmax (f 8 0) { cpRegs with s := (8, 8) :: cpRegs.s.tail } 0).all thereB = true) := by
  decide +kernel

/-! ## Witnesses: bags, the fabric and issue -/

def bg (slot : BitVec 2) (b : Opnd) (imm : Word) : Fields := W slot 0 (.v 8) (.s 6) b (.v 3) imm
def tCursor : Cursor := { stack := 0, bag := 0, block := 2, live := false, val := 9, cut := [], finished := [], spent := false }
def tCur (n : Nat) : State := { tMg (fun g => { g with regs := { tRegs with s := (2, 9) :: tRegs.s } }) with cursors := (List.range n).map (fun k => (k + 1, { tCursor with val := BitVec.ofNat 32 (9 + k) })) }
/-- The bag ranked, or with its bank in stack 1. -/
def tRanked : State := { tM with hbm := memWrite tM.hbm 0x30000 32 (tDesc + 2 ^ 192), bags := [(0, { tBag with desc := tDesc + 2 ^ 192 })] }
def tAway : State := { tM with bags := [(0, { tBag with banks := [{ stack := 1, slots := [0, 64, 128, 192] }] })] }

/-- A put whose last register is the last that the gang holds and one beyond, plain, ranked and provisional, into bags of both kinds; a handle that fails;
63 and 64 cursors; a cursor that is live and none; a batch that ends at the end of block memory and one beyond. -/
theorem wit_BagWordResults :
    (let put := Instr.bput (bg 2 (.v 60) 7)
     let far := Instr.bput (bg 2 (.v 64) 7)
     let key := Instr.bputk (bg 2 (.v 4) 0x307)
     let tok := Instr.bputv (bg 2 (.v 4) 0x507)
     WellFormed put ∧ WellFormed far ∧ WellFormed key ∧ WellFormed tok ∧ tM.execLanes put.fields ≠ 0 ∧ isClear tM put = true ∧ isClear tRanked key = true ∧ isClear tM tok = true ∧
       thereB (tM.checkBag 1 0x70003) = true ∧ thereB (tRanked.checkBag 1 0x70003) = true ∧ (BagDesc.ofBits (tM.descBits 0)).rs = 16 ∧ (BagDesc.ofBits (tM.descBits 0)).rank = false ∧
       (BagDesc.ofBits (tRanked.descBits 0)).rank = true ∧ put.fields.b.index + 4 ≤ tM.me.nb ∧ ¬ far.fields.b.index + 4 ≤ tM.me.nb ∧ tM.me.ext = .none) ∧
    (let set := W 1 0 (.s 8) (.s 6) (.v 0) (.v 0) 5
     WellFormed (.bcommit set) ∧ WellFormed (.bsquash set) ∧ isClear tM (.bcommit set) = true ∧ tM.putsOpen 1 0 = false ∧ ({ tM with bagOps := [(6, { (default : BagOp) with gid := 1 })], bags := [(0, { tBag with queue := [{ (default : HomeReq) with op := 6, kind := .putToken 5 }] })] } : State).putsOpen 1 9 = true ∧ WellFormed (.bcount (W 0 0 (.s 8) (.s 6) (.v 0) (.v 0) 0)) ∧
       WellFormed (.bstat (W 1 0 (.s 8) (.s 6) (.v 0) (.v 0) 8)) ∧ WellFormed (.bstat (W 0 0 (.s 8) (.s 6) (.s 4) (.v 0) 0)) ∧ 8 < (tM.readReg tM.view 0 0 (.s 4)).toNat ∧
       (match tM.checkBag 1 0x70001 with | .fail k _ _ => k == 6 | _ => false) = true) ∧
    (let d := W 0 0 (.s 8) (.s 6) (.v 0) (.v 0) 0
     WellFormed (.bdrain d) ∧ isClear (tCur 63) (.bdrain d) = true ∧ ((tCur 63).cursors.filter (fun kv => kv.2.stack == 0)).length < 64 ∧
       64 ≤ ((tCur 64).cursors.filter (fun kv => kv.2.stack == 0)).length ∧ thereB ((tCur 64).checkBag 1 0x70003) = true ∧ thereB (tAway.checkBag 1 0x70003) = true ∧
       ((tM.bag 0).banks.map (fun b => b.stack) = [0] ∧ (tAway.bag 0).banks.map (fun b => b.stack) = [1])) ∧
    (let n := W 1 0 (.s 8) (.s 2) (.v 0) (.v 0)
     WellFormed (.bnext (n 992)) ∧ WellFormed (.bnext (n 1008)) ∧ WellFormed (.bclose (W 0 0 (.v 0) (.s 2) (.v 0) (.v 0) 0)) ∧ isClear (tCur 1) (.bnext (n 992)) = true ∧
       (tCur 1).cursorOf 1 ((tCur 1).readReg (tCur 1).view 0 0 (.s 2)) = some (1, tCursor) ∧ (tCur 0).cursorOf 1 9 = none ∧ (BagDesc.ofBits ((tCur 1).bag 0).desc).rs = 16 ∧
       (992 % 16 = 0 ∧ 992 + 1 * (16 + 8) ≤ (tM.block 2).blkmem) ∧ ¬ 1008 + 1 * (16 + 8) ≤ (tM.block 2).blkmem) := by decide +kernel

/-- s16 to s19 hold a descriptor: buffer 1, offset 0, broadcast stride 256; partition 0 holds stack group 0 alone. -/
def tPost (f : Gang → Gang) : State :=
  { tMg (fun g => f { g with regs := { tRegs with s := tRegs.s ++ [(16, 0x70001), (18, 256)] } }) with cur := { tM.cur with mask := 0x8001 }, parts := [(0, { mask := 1, shape := 0, down := false })] }

/-- Posts of one word that end at the end of a line, of two that go beyond it, 254 and 255 posts outstanding, fences that wait and do not; launches that are turned away for each
reason, that find the ring full, and that take a place. -/
theorem wit_FabricWordResults :
    (let p := Instr.xpost (W 2 0 (.v 0) (.s 16) (.v 4) (.v 3) 0)
     let b := Instr.xbcast (W 2 0 (.v 0) (.s 16) (.v 4) (.v 3) 0)
     let two := Instr.xpost (W 2 0 (.v 0) (.s 16) (.v 4) (.v 3) 1)
     let s := tPost (fun g => { g with posts := List.range 254 })
     WellFormed p ∧ WellFormed b ∧ WellFormed two ∧ isClear s p = true ∧ s.askers p = [0, 15] ∧ (s.readReg s.view 15 0 (.v 3)).toNat % 64 + 4 = 64 ∧ 64 < (s.readReg s.view 15 0 (.v 3)).toNat % 64 + 8 ∧
       s.me.posts.length + (s.askers p).length ≤ 256 ∧ 256 < 255 + (s.askers p).length ∧ s.posts = [] ∧ s.cur.posts = [] ∧
       ({ s with cur := { s.cur with posts := [[default]] } } : State).cur.posts ≠ [] ∧ (Part.clusters (s.partOf 1)).length = 4 ∧
       (s.askers p).all (fun j => thereB (s.checkPost p.fields false s.view j)) = true ∧ (s.askers b).all (fun j => thereB (s.checkPost b.fields true s.view j)) = true) ∧
    (let f := W 1 0 (.v 0) (.v 0) (.v 0) (.v 0) 254
     WellFormed (.xfence f) ∧ (tPost (fun g => { g with posts := List.range 254 })).me.posts.length ≤ 254 ∧ 254 < (tPost (fun g => { g with posts := List.range 255 })).me.posts.length ∧
       tM.cur.stage = 0) ∧
    (let q := Instr.qlaunch (W 0 0 (.s 8) (.s 12) (.s 13) (.v 0) 0)
     let s := fun d => ({ tMg (fun g => { g with regs := { tRegs with s := tRegs.s ++ [(13, 896)] } }) with hbm := memWrite tHbm 0x20000 64 d } : State)
     let bad := s (tQueue 0 0 - 2 ^ 432)
     WellFormed q ∧ isClear (s 0) q = true ∧ (s 0).me.out = [] ∧ (s 0).me.sb = [] ∧ ((s 0).readReg (s 0).view 0 0 (.s 13)).toNat = 896 ∧ 896 % 128 = 0 ∧ 896 + 128 ≤ ((s 0).block 2).blkmem ∧
       ¬ 1024 + 128 ≤ ((s 0).block 2).blkmem ∧ 897 % 128 ≠ 0 ∧ qValid ((s 0).qdesc 0) = false ∧
       (let d := (s (tQueue 0 2)).qdesc 0; qValid d = true ∧ qAsid d = 5 ∧ qDevq d = true ∧ qCount d = 2 ^ qRingN d) ∧ qCount (bad.qdesc 0) ≠ 2 ^ qRingN (bad.qdesc 0) ∧
       (match bad.checkRing (bad.qdesc 0) rightW 0 with | .error k => k == 2 | .ok _ => false) = true ∧
       (match (s (tQueue 1 2)).checkRing ((s (tQueue 1 2)).qdesc 0) rightW 0 with | .ok _ => true | .error _ => false) = true) := by decide +kernel

/-- A core with a gang that may be chosen, under each policy, one that has starved, a slot that is busy, and a slot without a gang. -/
theorem wit_IssueChoices :
    (let s := sAdd
     let g := s.cur.gid
     (s.parkLong 0).candidates 0 0 = [g] ∧ (kget (s.core 0).slots 0).busy ≤ s.now 0 ∧ ((s.parkLong 0).gang g).starve < 512 ∧ s.mg (coreMg 0 0) = 0 ∧ (s.parkLong 0).candidates 0 1 = [] ∧
       ({ s with mgmt := sset s.mgmt (coreMg 0 0) 1 } : State).mg (coreMg 0 0) ≠ 0 ∧ (s.gang g).starve < 512) ∧
    (let s := sAddWith (fun g => { g with starve := 512 })
     let c := (s.gang s.cur.gid).core
     s.cur.gid ∈ s.candidates c ((s.gang s.cur.gid).place / 48) ∧ 512 ≤ (s.gang s.cur.gid).starve ∧ s.candidates c ((s.gang s.cur.gid).place / 48) = [s.cur.gid] ∧
       (kget (s.core c).slots ((s.gang s.cur.gid).place / 48)).busy ≤ s.now c) ∧
    (let s := sAdd.modCore 0 (fun c => { c with slots := [(0, { (default : Slot) with busy := 9 })] })
     s.now 0 < (kget (s.core 0).slots 0).busy) := by decide +kernel

/-! ## Witnesses: resources, memory service and faults -/

def tRdyOf (s : State) : State := { s with mgmt := sset s.mgmt 8 0x101 }
def noSpot (l : List Alloc) (n : Nat) : Bool :=
  (List.range 513).all (fun st => !(st % n == 0 && decide (st + n ≤ 512) && l.all (fun x => decide (x.start + x.size ≤ st) || decide (st + n ≤ x.start))))
def al (gid start size : Nat) : Alloc := { gid := gid, ext := false, start := start, size := size }
def tCore (f : Core → Core) : State := { tM with cores := [(0, f (tM.core 0))], clock := { d0 := 100, d1 := 100, d2 := 100, d3 := 100, mc := [] } }
def tBin : Bin := { block := 2, pc := 0, n := 4, packets := [{ v := [1, 2, 3, 4], p := 5, tid := 9, ten := 0, chk := false }], since := 3, aged := true }
def tBins (b : Bin) : State := { tCore (fun c => { c with bins := [(31, b)] }) with blocks := [(2, { tBlock with freeIdx := [7] })], next := 3 }

/-- No request; one that no place takes, one that the lowest place takes, and one that a move lets in; a clear that is not due, that goes on, and of each kind that is over; bins that are
ready, not, and absent; gangs that are over and not. -/
theorem wit_ResourceEvents :
    ((tM.core 0).allocQ = [] ∧ noSpot [al 1 0 512] 1 = true ∧ noSpot [] 512 = false) ∧
    (let s := tCore (fun c => { c with allocQ := [al 9 0 256], allocs := [al 1 0 128, al 8 256 128] })
     ((s.core 0).allocQ.head?).isSome = true ∧ (s.core 0).allocs.find? (fun a => a.start == 256) = some (al 8 256 128) ∧ noSpot (s.core 0).allocs 256 = true ∧
       256 ≤ freeGranules (s.core 0).allocs ∧ s.allocBusy 0 (al 8 256 128) = false ∧ 128 % 128 = 0 ∧ 128 + 128 ≤ 512 ∧
       ((s.core 0).allocs.filter (fun x => x.start != 256)).all (fun x => decide (x.start + x.size ≤ 128)) = true) ∧
    ([0, 1, 2, 3].all (fun k =>
      let s := tCore (fun c => { c with clearQ := [{ kind := k, owner := 2, left := 1, since := 98 }] })
      (s.core 0).clearQ.head?.any (fun x => decide (x.since + 2 ≤ s.now 0) && decide (x.left ≤ 1))) = true) ∧
    ((tCore (fun c => { c with clearQ := [{ kind := 1, owner := 1, left := 2, since := 99 }] })).now 0 < 99 + 2 ∧ 1 < 2) ∧
    (kfind (tM.core 0).bins 31 = none ∧ kfind ((tBins tBin).core 0).bins 31 = some tBin ∧ (tBins tBin).binReady 0 tBin = true ∧ (tBins tBin).binReady 0 { tBin with aged := false } = false ∧
      ((tBins tBin).gangs.all (fun kv => decide (kv.1 ≤ (tBins tBin).next))) = true ∧ tBin.packets.length ≤ 32 ∧ tBin.n ≤ ((tBins tBin).launch 3).regs) ∧
    (tM.gangDone 1 = false ∧ (tMg (fun g => { g with threads := [] })).gangDone 1 = true) := by decide +kernel

/-- Request of core 0 for bytes 8 to 11 of tile 0x500. -/
def rq (k : ReqKind) : Req := { (default : Req) with id := 9, gid := 1, kind := k, op := .add, loc := .hbm 0x500008, width := 4, val := 7 }
def cr (op : MemOp) : Crumb := { op := op, signed := false, width := 4, off := 8, val := 5, stamp := 1 }
def tTile (t : Tile) (rs : List Req) : State := { tM with tiles := [(0x500, t)], reqs := rs }
def ti (st : Resid) (log : List Crumb) : Tile := { (default : Tile) with st := st, log := log }
def sl0 : Nat := homeSlice 0x500

/-- `n` log entries in another tile of the slice. -/
def tPool (n : Nat) : State := { tTile (ti .absent []) [rq .store] with tiles := [(0x500, ti .absent []), (0x540, ti .absent (List.replicate n (cr .store)))] }
/-- An arriving tile with its frame, its chunks read, well or badly. -/
def tArrive (bad : Bool) (w : List Req) : Tile := { ti .arriving [] with framed := true, bad := bad, waiting := w, caused := !w.isEmpty }
def tPage (p : PageInfo) (t : Tile) : State := { tTile t [] with pages := [(0x500, p)] }
def hq0 : HbmReq := { chan := 3, tile := 0x500, chunk := 0, since := 0, resv := false }
def tLineInfo (grade : BitVec 2) (x : LineInfo) : State := { tM with lineInfo := [(0x14000, x)], grades := [(0x50, grade)] }

/-- Walks that are wanted, present and not, and one that is not wanted. -/
theorem wit_MemoryServiceEvents :
    (let h := fun p => tMg (fun g => { g with held := [{ bundle := default, cond := .walk [p] }] })
     tM.wantsWalk 0 5 (0, 0x11) = false ∧ tM.cachedEnt 0 5 0 0x110000 = none ∧ (h (0, 0x10)).wantsWalk 0 5 (0, 0x10) = true ∧ ((h (0, 0x10)).walk 5 0 (0x10 * 2 ^ 16)).isSome = true ∧
       (h (0, 0x4000)).wantsWalk 0 5 (0, 0x4000) = true ∧ (h (0, 0x4000)).walk 5 0 (0x4000 * 2 ^ 16) = none) := by decide +kernel

/-- A request at a resident, an arriving and an absent tile with room in its log, a full log, a log that answers, a full pool, and under a spent key. -/
theorem wit_MemoryServiceEvents_requests :
    ([ti .resident [], ti .arriving [], ti .absent (List.replicate 22 (cr .store)), ti .absent (List.replicate 32 (cr .add)), ti .absent []].all (fun t =>
      [ReqKind.load, .line, .store, .red, .atom, .cas, .mdld, .mdst, .waddr, .tfetch].all (fun k =>
        (tTile t [rq k]).reqs.find? (fun r => r.slice == some sl0 && r.src == 0) == some (rq k) && kfind (tTile t []).tiles 0x500 == some t)) = true ∧
      logServe [cr .store] 8 4 = some 5 ∧ logServe [cr .add] 8 4 = none ∧ (tTile (ti .absent []) []).poolUsed sl0 < 16384 ∧ 0x500008 % 4096 + 4 ≤ 4096 ∧
      16384 ≤ (tPool 16384).poolUsed sl0 ∧ ({ tM with keys := [(0, { (default : KeySlot) with spent := true })] } : State).keys.any (fun kv => kv.1 == 0 && kv.2.spent) = true ∧
      (kget tM.keys 0).spent = false ∧ tM.reqs.find? (fun r => r.slice == some sl0 && r.src == 0) = none) := by decide +kernel

/-- A request to the host, and two of one thread at the banks. -/
theorem wit_MemoryServiceEvents_banks :
    (let r := { rq .store with loc := .host 64 }
     ({ tM with reqs := [r] } : State).reqs.all (fun q => q == r && q.src == 0) = true ∧ tM.reqs = []) ∧
    (let q := fun id off => { rq .store with id := id, loc := .blk 2 off, who := [7] }
     let s : State := { tM with reqs := [q 9 0, q 10 4] }
     q 10 4 ∈ s.bankReady ∧ q 9 0 ∈ s.reqs ∧ (q 9 0).words = some (2, [0]) ∧ (q 10 4).words = some (2, [1]) ∧ s.reqs.filter (fun x => x.id == 9) = [q 9 0]) := by decide +kernel

/-- Tiles that arrive, well and badly, and that are evicted, clean and dirty. -/
theorem wit_MemoryServiceEvents_tiles :
    ((tTile (ti .arriving []) []).hbmQ.any (fun q => q.tile == 0x500) = false ∧ (ti .arriving []).framed = false ∧ ((tTile (ti .arriving []) []).frames sl0).length < 2048 ∧
      (tArrive true []).bad = true ∧ (tArrive true []).framed = true ∧ (tArrive true [rq .store]).caused = true ∧ (tArrive false [rq .load]).st = .arriving ∧ (rq .store).path = .t ∧ (rq .store).src < 192 ∧
      ({ tTile (tArrive false []) [] with hbmQ := [hq0] } : State).hbmQ.any (fun q => q.tile == 0x500) = true ∧
      (let s := tTile { ti .resident [] with dirty := true, data := [(8, 3)] } []
       (s.tile 0x500).st = .resident ∧ (s.tile 0x500).dirty = true ∧ (kget s.keys 0).spent = false ∧ s.chanOpen noQueue (0x500 * 4096) 4096 = true ∧ s.pageTurn (0x500 * 4096) (some (.evict 0x500)) = true ∧
         s.minorFull [(0x500 * 4096, 4096)] = false ∧ Memory.wf s.hbm = true ∧ Memory.wf (s.tile 0x500).data = true) ∧ (ti .resident []).dirty = false ∧
      (tPage { major := 0, reenc := true, key := 0, wait := [] } (ti .resident [])).pageTurn (0x500 * 4096) (some (.evict 0x500)) = false) := by decide +kernel

/-- The tracker. -/
theorem wit_MemoryServiceEvents_tracker :
    (let s := tTile { ti .absent [] with count := some 16 } []
     let h := s.hotSettle sl0
     (h.tile 0x500).st = .absent ∧ (s.mg (clusterMg sl0 0x0800)).getLsbD 31 = true ∧ (h.tile 0x500).barred = false ∧ (h.tile 0x500).count = some 16 ∧
       max 1 ((s.mg (clusterMg sl0 0x0800)).extractLsb' 8 8).toNat = 16 ∧ ((tM.hotSettle sl0).tile 0x500).count = none) := by decide +kernel

/-- Lines of the phase cache, kept and not. -/
theorem wit_MemoryServiceEvents_lines :
    (let s := tCore (fun c => { c with lines := [(5, [{ stamp := 1, data := [] }]), (6, [{ stamp := 0, data := [] }])] })
     s.lineKept 0 { stamp := 1, data := [] } = true ∧ s.lineKept 0 { stamp := 0, data := [] } = false ∧ ((s.core 0).lines.map (fun kv => kv.2.length)).sum < 6144 ∧ kget (s.core 0).lines 7 = [] ∧
       kget (s.core 0).lines 5 ≠ []) := by decide +kernel

/-- A channel with a request past the age cap, a reserved one, and one whose page is re-encrypted. -/
theorem wit_MemoryServiceEvents_channels :
    (let s : State := { tM with hbmQ := [hq0, { hq0 with resv := true }], clock := { d0 := 0, d1 := 0, d2 := 0, d3 := 0, mc := [1000] } }
     s.hbmQ.all (fun q => q.chan == 3 && !s.pageHeld q) = true ∧ max 16 ((s.mg (0x0100 + 16 * (3 / 32))).setWidth 8).toNat < s.mcNow (3 / 32) - 0 ∧
       max 16 ((tM.mg (0x0100 + 16 * (3 / 32))).setWidth 8).toNat ≥ tM.mcNow 0 - 0 ∧ s.pageTurn (0x500 * 4096) (some (.read 0x500 0)) = true ∧ (∀ r ∈ s.hbmQ, r.chan ≠ 4) ∧
       ({ s with pages := [(0x500, { major := 0, reenc := true, key := 0, wait := [] })] } : State).pageHeld hq0 = false) := by decide +kernel

/-- Lines with no flip, and with flips that each grade corrects, cannot correct, does not see, or leaves open. -/
theorem wit_MemoryServiceEvents_ecc :
    ((tM.mg 0x0100).getLsbD 31 = true ∧ (tLineInfo 0 default).gradeOf 0x14000 = 0 ∧ (tLineInfo 2 default).gradeOf 0x14000 = 2 ∧ eccClass 1 1 = .corrected 1 ∧ eccClass 1 3 = .uncorrectable ∧
      eccClass 2 3 = .undetected ∧ eccClass 1 7 = .open_ ∧ (kget (tLineInfo 1 { (default : LineInfo) with flips := 3 }).lineInfo 0x14000).flips = 3) ∧
    ([0, 2 ^ 56 - 1].all (fun n => (kget (tPage { major := n, reenc := true, key := 0, wait := [.read 0x500 0] } (ti .absent [])).pages 0x500).reenc) = true) := by decide +kernel

def rp (seq type : Nat) : Replay := { (default : Replay) with seq := seq, core := 0, lanes := 0x80000001, type := type, pc := 24 }
def fs : FailSet := { (default : FailSet) with lanes := 1, kind := 3 }
/-- The gang has the replay entries of `l`, and threads 0 and 31 parked. -/
def tFault (l : List Replay) (f : Gang → Gang) : State :=
  tRdyOf (tMg (fun g => f { g with replay := l, threads := kset (kset g.threads 0 { g.thread 0 with st := .parked }) 31 { g.thread 31 with st := .parked } }))

theorem wit_FaultServiceEvents :
    ((tM.gang 1).fails = [] ∧ 4 ≤ ((tFault [rp 0 1, rp 1 1, rp 2 1, rp 3 1] (fun g => { g with fails := [fs] })).gang 1 |>.replay.filter (fun r => r.type == 1)).length ∧
      ((tFault [rp 0 1, rp 1 1, rp 2 1, rp 4 2] (fun g => { g with fails := [fs] })).gang 1).fails.head? = some fs ∧ ([rp 0 1, rp 1 1, rp 2 1, rp 4 2].filter (fun r => r.type == 1)).length < 4) ∧
    (let s : State := { tCore (fun c => { c with recQ := [default] }) with mgmt := sset tM.mgmt 0x80 6 }
     let full : State := { s with mgmt := sset s.mgmt 0x7C 64 }
     (s.core 0).recQ.head?.isSome = true ∧ s.ringOn = true ∧ (s.mg 0x007C - s.mg 0x0078).toNat ≠ 2 ^ 6 ∧ (full.mg 0x007C - full.mg 0x0078).toNat = 2 ^ (full.mg 0x0080).toNat ∧
       tM.ringOn = false ∧ (tM.core 0).recQ = []) ∧
    (tM.isReady = false ∧ (tFault [] id).isReady = true ∧ (tFault [] id).replayOf 0 5 = none ∧ (tFault [rp 5 1] id).unposted 0 5 = false ∧ (tFault [] id).openReqs = [] ∧
      ({ tM with cores := [(0, { tM.core 0 with recQ := [{ (default : Frec) with seq := 5 }] })] } : State).unposted 0 5 = true ∧
      ({ tM with reqs := [rq .store] } : State).openReqs.any (fun q => q.gid == 1 && q.serial == fs.serial && q.path == .t) = true) ∧
    ([1, 2].all (fun type =>
      let s := tFault [rp 5 type] id
      s.isReady && s.replayOf 0 5 == some (1, rp 5 type) && !(s.gang 1).trap && (s.gang 1).active && (s.gang 1).live && (s.block (s.gang 1).block).gangs == [1]) = true) ∧
    ((tFault [rp 5 1] (fun g => { g with trap := true })).replayOf 0 5 = some (1, rp 5 1) ∧ ((tFault [rp 5 1] (fun g => { g with trap := true })).gang 1).trap = true ∧
      ((tFault [rp 5 1] (fun g => { g with active := false })).gang 1).active = false) := by decide +kernel

/-! ## Witnesses: the copy engine, the array, the bag's home and the fabric -/

def cpEnd (sort off : Nat) (base : Nat) : CopyEnd :=
  { sort := sort, handle := 0x70001, ent := { (default : BufEnt) with gen := 7, asid := 5, smask := 1, kind := 1, rights := 63, len := 4096, base := base }, off := off, stride := 512, slab := 0 }
/-- A copy of 2 rows of 300 bytes. -/
def cpRow (src dst : CopyEnd) : Copy := { (default : Copy) with gid := 1, block := 2, asid := 5, state := 3, src := src, dst := dst, rows := 2, len := 300, serial := 6 }
def tCopy (c : Copy) : State := { tM with copies := [(0, c)], hbm := memWrite tHbm 0x52008 8 0xC00000001, tiles := [(0x501, { (default : Tile) with st := .absent, log := [cr .store] })] }
def pieces (c : Copy) (chunk : Nat) : List Piece :=
  let s := tCopy c
  s.endPieces 0 c c.src (chunk / 2) (256 * (chunk % 2)) (min 256 (c.len - 256 * (chunk % 2))) false ++ s.endPieces 0 c c.dst (chunk / 2) (256 * (chunk % 2)) (min 256 (c.len - 256 * (chunk % 2))) true

/-- The last chunk of a copy from memory to block memory, where both places are there; from a place beyond every stack; from a page that is not present; from a tile that is to be
fetched; the amax chunk; and copies that are complete and failed. -/
theorem wit_CopyEngineEvents :
    (let c := cpRow (cpEnd 1 0 0x100000) (cpEnd 0 0 0)
     let s := tCopy c
     kfind s.copies 0 = some c ∧ kfind s.copies 1 = none ∧ c.complete = false ∧ c.failed = none ∧ c.perRow = 2 ∧ 3 < c.rows * c.perRow ∧ sget c.moved 3 ≠ 1 ∧ s.chunkMisses 0 c 3 = false ∧ s.lags = [] ∧ s.lineInfo = [] ∧
       (pieces c 3).all (fun p => match p.spot with
         | .ok (.hbm pa) m => m && s.chanOpen (s.queueOf c.gid) pa p.n && !(kget s.pages (pa / 4096)).reenc && (kget s.pages (pa / 4096)).wait.isEmpty && !s.minorFull [(pa, p.n)] && (linesOf pa p.n).all (fun x => !s.lineBad 0 x)
         | .ok l m => !m && l == .blk 2 768
         | _ => false) = true) ∧
    (let c := cpRow (cpEnd 1 0 0x100000) (cpEnd 0 0 0)
     (pieces c 3).any (fun p => match p.spot with | .ok (.hbm pa) m => m && (kget ({ tCopy c with pages := [(0x500, { major := 0, reenc := true, key := 0, wait := [] })] } : State).pages (pa / 4096)).reenc | _ => false) = true) ∧
    (let c := cpRow (cpEnd 1 0 0x200000) (cpEnd 0 0 0)
     (tCopy c).chunkMisses 0 c 3 = true) ∧
    (let c := cpRow (cpEnd 1 0 0x40000000) (cpEnd 0 0 0)
     (tCopy c).chunkMisses 0 c 3 = false ∧ ((pieces c 3).find? (fun p => match p.spot with | .fail _ => true | _ => false)).any (fun p => p.spot == .fail 1) = true) ∧
    (let c := cpRow (cpEnd 1 4096 0x100000) (cpEnd 0 0 0)
     (tCopy c).chunkMisses 0 c 3 = false ∧ ((pieces c 3).any (fun p => p.spot == .tile 0x501)) = true ∧ (pieces c 3).all (fun p => match p.spot with | .fail _ => false | _ => true) = true) ∧
    (let c := { cpRow (cpEnd 2 0 0) (cpEnd 0 0 0) with amax := some (1, cpEnd 0 8 0, 5) }
     c.complete = false ∧ c.failed = none ∧ 4 = c.rows * c.perRow ∧ sget c.moved 4 ≠ 1) ∧
    (cpDone.complete = true ∧ ({ cpDone with state := 3, failed := some 1 } : Copy).complete = false ∧
      (let c := { cpRow (cpEnd 1 0 0x100000) (cpEnd 0 0 0) with moved := (List.range 4).map (fun k => (k, 1)) }
       c.complete = false ∧ (∀ k, k < c.chunks → sget c.moved k = 1) ∧ (tM.core 0).armed = [])) := by decide +kernel

def mm (from_ : Nat) (a : Nat) : Mma := { (default : Mma) with id := 9, gid := 1, block := 2, from_ := from_, c := 0, a := a, b := 2 }
def tArr (f : Core → Core) : State := { tM with blocks := [(2, { tBlock with slab := tSlabs })], cores := [(0, f (tM.core 0))] }
def ar (needs : List Nat) : Armed := { mma := mm 4 1, copy := 6, needs := needs, counts := [], failed := none }

theorem wit_ArrayEvents :
    (let s := tArr (fun c => { c with armed := [ar [], ar [6]] })
     (s.core 0).armed[2]? = none ∧ (s.core 0).armed[1]? = some (ar [6]) ∧ (ar [6]).needs ≠ [] ∧ (s.core 0).armed[0]? = some (ar []) ∧ (ar []).failed = none ∧ (s.block 2).where_ = .active ∧
       s.slabHazard 0 (mm 4 1) = false ∧ (s.core 0).ready = [] ∧ ((s.core 0).mmaQ.filter (fun x => x.from_ == 4)).length < 4) ∧
    (let s := tArr (fun c => { c with mmaQ := [mm 0 1, mm 4 3], mmaLast := 4 })
     (s.core 0).mmaRun = none ∧ (s.core 0).mmaQ ≠ [] ∧ (s.core 0).mmaLast < 5 ∧ (∀ m ∈ (s.core 0).mmaQ, m.from_ < 5) ∧
       [1, 3].all (fun q => decide (2 ≤ (kget (s.block 2).slab q).flaw) == (q == 3)) = true ∧ (s.block 2).live = true ∧ (s.block 9).live = false ∧ (tM.core 0).mmaQ = []) ∧
    ((tArr (fun c => { c with mmaRun := some (mm 0 1) })).core 0).mmaRun = some (mm 0 1) := by decide +kernel

def hq (k : HomeKind) (score : Word) : HomeReq := { (default : HomeReq) with id := 8, op := 6, kind := k, score := score, lane := 31 }
def br (id slot : Nat) (score : Word) (tok : Option (BitVec 16)) : BagRec := { id := id, bank := 0, slot := slot, payload := 0, key := 5, score := score, token := tok, claim := 0 }
def bOp : BagOp := { (default : BagOp) with gid := 1, dst := .v 8, n := 1, pd := 6, lanes := 0x80000001, left := 0x80000001, full := 0x80000001 }
def tHome (b : Bag) (o : BagOp) (cs : KMap Cursor) : State := { tM with bags := [(0, b)], bagOps := [(6, o)], cursors := cs }
def fullBag : Bag := { tBag with recs := [br 1 0 0x40000000 none, br 2 64 0x3F800000 none, br 3 128 0x40400000 (some 5), br 4 192 0x40800000 none], r := 4 }

/-- What the home and the engine ask of the pages and channels of a slot. -/
def opensB (s : State) (pa : Nat) (tok : PageTok) : Bool := s.chanOpen (s.queueOf 1) pa 16 && s.pageTurn pa (some tok) && !s.minorFull [(pa, 16)]

/-- Admissions: each kind of request, into a bag with room and into a full one, with scores above, below and NaN; a request of the same home that is older and one that is not; the
answers of a put; and an update of the counts. -/
theorem wit_BagHomeEvents :
    ([HomeKind.count, .stat 8, .put, .putToken 5, .putRanked].all (fun k =>
      ({ tBag with queue := [hq k 0] } : Bag).queue.find? (fun r => r.src == 0) == some (hq k 0)) = true ∧ tBag.queue.all (fun r => r.src != 0) = true ∧ (BagDesc.ofBits tBag.desc).cap = 4 ∧
      tBag.r + tBag.p < 4 ∧ 4 ≤ fullBag.r + fullBag.p ∧ fullBag.placing = [] ∧ scoreNaN 0x7FC00000 = true ∧ scoreNaN 0x40000000 = false ∧
      (fullBag.recs.filter (fun r => r.claim == 0)).all (fun q => !ranksAbove 0x3F000000 9 q.score q.key) = true ∧ ranksAbove 0x3F900000 9 0x3F800000 5 = true ∧
      [br 1 0 0x40000000 none, br 3 128 0x40400000 none, br 4 192 0x40800000 none].all (fun o => ranksAbove o.score o.key 0x3F800000 5 && !ranksAbove 0x3F800000 5 o.score o.key) = true) ∧
    (let s : State := tHome { tBag with queue := [hq .put 0] } bOp []
     s.bags.all (fun kv => kv.2.queue.all (fun q => decide ((hq .put 0).id ≤ q.id))) = true ∧
       ({ s with bags := [(0, { tBag with queue := [hq .put 0] }), (384, { tBag with queue := [{ hq .put 0 with id := 4 }] })] } : State).homeOf 384 = s.homeOf 0 ∧ 4 < (hq .put 0).id) ∧
    (bOp.trapf = false ∧ 31 < 32 ∧ bOp.dst = .v 8 ∧ bOp.pd < 7 ∧ bOp.left &&& ~~~(laneBit 31) ≠ 0 ∧ bOp.lanes ≠ 0) ∧
    ({ tBag with upd := [{ op := 6, recs := [], r := 1, u := 0 }] } : Bag).upd[0]? = some { op := 6, recs := [], r := 1, u := 0 } ∧ tBag.upd[0]? = none := by decide +kernel

/-- Placements: with and without a free slot within the balance, at a page that is there, beyond every stack, not present, under a spent key, and one that waits. -/
theorem wit_BagHomeEvents_place :
    let s := fun base => ({ tHome { tBag with placing := [hq .put 0], p := 1 } bOp [] with
      hbm := memWrite (memWrite tHbm 0x40060 32 (tEnt 3 63 1 4096 0 base)) 0x52008 8 0xC00000001 } : State)
    ((s 0x110000).bag 0).placing.find? (fun r => r.id == 8) = some (hq .put 0) ∧ (tBag.banks.getD 0 default).stack = 0 ∧ 0 < tBag.banks.length ∧ 0 + 1 ≤ ceilDiv (0 + 1) 1 + 0 ∧
      (s 0x110000).slotLoc 0 192 = some (.hbm 0x5100C0) ∧ hbmExists 0x5100C0 = true ∧ (kget (s 0x110000).keys ((s 0x110000).bagEnt 0).2.2.key).spent = false ∧
      (kget ({ s 0x110000 with keys := [(0, { (default : KeySlot) with spent := true })] } : State).keys ((s 0x110000).bagEnt 0).2.2.key).spent = true ∧
      opensB (s 0x110000) 0x5100C0 (.place 0 8) = true ∧ opensB { s 0x110000 with pages := [(0x510, { major := 0, reenc := true, key := 0, wait := [] })] } 0x5100C0 (.place 0 8) = false ∧
      (s 0x110000).lineInfo = [] ∧ (s 0x200000).slotLoc 0 0 = some (.hbm 0xC00000000) ∧ hbmExists 0xC00000000 = false ∧ (s 0x40000000).slotLoc 0 0 = none := by decide +kernel

/-- Settlements and cuts. -/
theorem wit_BagHomeEvents_settle :
    (let o := { bOp with ended := true, banks := [0], token := 5 }
     kfind (tHome fullBag o []).bagOps 6 = some o ∧ o.bag = 0 ∧ o.want = 0 ∧ 0 ∈ o.banks ∧ fullBag.recs.any (fun r => r.token == some 5) = true ∧ kfind (tHome fullBag o []).bagOps 7 = none) ∧
    (let o := { bOp with banks := [0], cursor := 7 }
     (tHome fullBag o [(7, tCursor)]).bagOps.find? (fun kv => kv.2.bag == 0 && kv.2.cursor == 7 && kv.2.want == 0 && kv.2.banks.contains 0) = some (6, o) ∧
       kfind (tHome fullBag o [(7, tCursor)]).cursors 7 = some tCursor ∧ o.banks.filter (· != 0) = [] ∧ (∃ k ∈ [0, 1], k ≠ 0)) := by decide +kernel

/-- Claims: of a record that there is, is not, waits and cannot be read; a batch whose words stand at the banks, and one whose words are all performed; a killed gang. -/
theorem wit_BagHomeEvents_claim :
    let o := { bOp with cursor := 7, want := 2 }
    let s := tHome fullBag o [(7, { tCursor with cut := [1, 2] })]
    let can := fullBag.recs.filter (claimable fullBag { tCursor with cut := [1, 2] })
    can.find? (fun r => r.id == 2) = some (br 2 64 0x3F800000 none) ∧ o.ended = false ∧ s.slotLoc 0 64 = some (.hbm 0x510040) ∧ o.writes = [] ∧ tCursor.bag = 0 ∧ (s.gang 1).stop ≠ .ending ∧
      opensB s 0x510040 (.claim 6) = true ∧ opensB { s with pages := [(0x510, { major := 0, reenc := true, key := 0, wait := [] })] } 0x510040 (.claim 6) = false ∧
      (linesOf 0x510040 16).all (fun x => !s.lineBad 0 x) = true ∧ (linesOf 0x510040 16).any (fun x => ({ s with lineInfo := [(0x14401, { (default : LineInfo) with poison := true })] } : State).lineBad 0 x) = true ∧
      o.batch.length + 1 ≠ o.want ∧ fullBag.recs.filter (claimable fullBag tCursor) = [] ∧ { o with batch := [2] }.batch.length + 1 = o.want ∧
      (({ s with gangs := [(1, { s.gang 1 with stop := .ending })] } : State).gang 1).stop = .ending ∧
      (let w := { o with batch := [1, 2], writes := [9] }
       w.writes ≠ [] ∧ (({ s with reqs := [rq .store] } : State).openReqs.any (fun q => w.writes.contains q.id)) = true ∧ s.openReqs.all (fun q => !w.writes.contains q.id) = true) ∧
      fullBag.upd.all (fun u => u.op != 6) = true ∧ o.banks = [] ∧ (kfind s.cursors 7).isSome = true := by decide +kernel

def po (hops : List Nat) : Post := { (default : Post) with gid := 1, out := 5, loc := .hbm 0x500008, words := 1, hops := hops, queued := true, units := [(0, 4)], slot := 64 }
def tFab (ps : KMap Post) : State := { tMg (fun g => { g with posts := [5] }) with posts := ps }

theorem wit_FabricEvents :
    ((tFab [(9, po [4, 6])]).portQueue 4 = [(9, po [4, 6])] ∧ (tFab []).portQueue 4 = [] ∧ ((tFab [(9, po [4, 6])]).portQueue 6).length < 64 ∧
      64 ≤ ((tFab ((List.range 64).map (fun k => (k, po [6])))).portQueue 6).length ∧ (tFab []).routeDown 5 3 = true ∧
      ({ po [4] with route := 3 } : Post).route ≠ 0 ∧ ({ tFab [] with hbm := memWrite tHbm (8 * (256 * 5 + 3)) 8 1 } : State).routeDown 5 3 = false) ∧
    (kfind (tFab [(9, po [])]).posts 9 = some (po []) ∧ kfind (tFab [(9, po [])]).posts 8 = none ∧ (po []).hops = [] ∧ (po []).cut = none ∧ (po []).units ≠ [] ∧ (po [4]).hops ≠ [] ∧
      (po [4]).since + 1023 ≤ ({ tFab [(9, po [4])] with clock := { d0 := 1023, d1 := 0, d2 := 0, d3 := 0, mc := [] } } : State).portNow 4) ∧
    (let c := { po [] with units := [], add := true, ctr := some (.hbm 0x500010) }
     let q := { po [] with units := [], open_ := [77] }
     (tFab [(9, po [])]).postTurn 9 (po []).loc = true ∧ (tFab [(9, c)]).postTurn 9 (.hbm 0x500010) = true ∧ c.open_ = [] ∧ c.add = true ∧ ({ c with open_ := [3] } : Post).open_ ≠ [] ∧
       (tFab [(8, { q with loc := .hbm 0x500008 }), (9, po [])]).posts.length = 2 ∧ ({ po [] with units := [] } : Post).add = false ∧ q.open_ ≠ [] ∧
       (tFab [(9, po [])]).posts.all (fun kv => kv.1 == 9 || !(tFab [(9, po [])]).postBefore 9 kv.1) = true) ∧
    (let x := { po [] with route := 3 }
     x.route ≠ 0 ∧ (tFab [(9, x)]).routeDown 5 3 = true ∧ ({ tFab [(9, x)] with hbm := memWrite tHbm (8 * (256 * 5 + 3)) 8 1 } : State).routeDown 5 3 = false ∧
       (tFab [(9, x)]).posts.all (fun kv => kv.1 == 9) = true ∧ (tFab [(8, x), (9, x)]).postBefore 9 8 = true ∧ x.units ≠ [] ∧ ({ x with units := [] } : Post).add = false) ∧
    ((po []).bcast = false ∧ ({ po [4] with bcast := true, root := 7 } : Post).root ≠ 0 ∧ (po []).units = unitsOf (po []).off (4 * (po []).words) ∧ (po []).open_ = [] ∧
      ({ po [] with units := [] } : Post).units ≠ unitsOf (po []).off (4 * (po []).words) ∧ (tFab []).egressRank 4 (po [4, 6]) ≤ (tFab []).egressRank 4 (po [4, 6]) ∧
      ({ po [4] with cut := some 2 } : Post).cut = some 2) ∧
    ((∃ kv ∈ (tFab [(8, po []), (9, po [])]).posts, kv.1 ≠ 9 ∧ kv.2.gid = 1 ∧ kv.2.out = 5) ∧ ∀ kv ∈ (tFab [(9, po [])]).posts, kv.1 ≠ 9 → ¬ (kv.2.gid = 1 ∧ kv.2.out = 5)) := by decide +kernel

/-- Queue 0 of ASID 5 with `n` packets, its doorbell rung, in a slot or not. -/
def tQ (d : Nat) (slots : KMap HwSlot) : State :=
  { tRdyOf tM with hbm := memWrite tHbm 0x20000 64 d, queues := [(0, { bell := 1, stop := none })], hwslots := slots, parts := [(0, { mask := 1, shape := 0, down := false })] }
def inSlot : KMap HwSlot := [(0, { queue := 0, resv := [] })]
/-- The packet `p` at the ring's head. -/
def tPkt (p : Nat) : State := { tQ (tQueue 0 1) inSlot with hbm := memWrite (memWrite (memWrite tHbm 0x20000 64 (tQueue 0 1)) 0x40020 32 (tEnt 1 63 1 4096 0 0x100000)) 0x500000 128 p }
def tLaunch : Launch := { (default : Launch) with phase := 1, asid := 5, regs := 64, ngang := 1, nblk := 1, nclu := 1, nstk := 1 }
def tPlace (l : Launch) : State := { tQ 0 inSlot with launches := [(3, l)], blocks := [], gangs := [], next := 3 }
def tTray (w : Resides) : State := { tQ 0 inSlot with blocks := [(2, { tBlock with where_ := w })] }

theorem wit_QueueAndTrayEvents :
    (tM.isReady = false ∧ (tQ 0 []).isReady = true ∧ (kget (tQ 0 []).queues 0).bell ≠ 0 ∧ (kget (tQ 0 []).queues 7).bell = 0) ∧
    (let s := tQ (tQueue 0 1) []
     s.queueWaits 0 = true ∧ s.slotsFor 0 = [0] ∧ s.resvFits (s.profile 0) 0 = true ∧ s.queueWaits 3 = false ∧ kfind s.hwslots 0 = none ∧ s.queues.all (fun kv => kv.1 == 0) = true) ∧
    (let s := tPkt 0
     let d := s.qdesc 0
     kfind s.hwslots 0 = some { queue := 0, resv := [] } ∧ s.nextTurn = some 0 ∧ s.nextTurn ≠ some 1 ∧ s.isReady = true ∧ qValid d = true ∧ qValid ((tQ (tQueue 0 1 - 2 ^ 398) inSlot).qdesc 0) = false ∧ qCount d = 1 ∧ s.partShut (qPart d) = false ∧ s.queueStopped 0 = false ∧
       (match s.checkRing d rightR (qHeadSlot d) with | .ok _ => true | .error _ => false) = true ∧ qCount ((tQ (tQueue 0 0) inSlot).qdesc 0) = 0 ∧
       (let x := tQ (tQueue 0 1 - 2 ^ 432) inSlot
        (match x.checkRing (x.qdesc 0) rightR 0 with | .ok _ => false | .error k => k == 2) = true)) ∧
    -- packets that wait for the queue, for a dependence, are skipped, and fail their check
    (let dep := 0x200 + 1 * 2 ^ 192 + 1024 * 2 ^ 224 + 1 * 2 ^ 256
     let skip := 0x400 + 1 * 2 ^ 320 + 1024 * 2 ^ 352
     (tPkt 0x100).hbmRead 0x500000 128 = 0x100 ∧ pktField 0x100 1 1 % 2 = 1 ∧ ({ tPkt 0x100 with launches := [(3, { tLaunch with queue := 0 })] } : State).queueBusy 0 = true ∧
       pktField 0 1 1 % 2 = 0 ∧ ((tPkt dep).depMet dep 5).1 = false ∧ ((tPkt 0).depMet 0 5).1 = true ∧ ((tPkt skip).condSkips skip 5).1 = true ∧
       ((tPkt 0).condSkips 0 5).1 = false ∧ ((tPkt 0).checkPacket 0 (Launch.ofPacket 0 5 0 0 0 0)).isSome = true) := by decide +kernel

theorem wit_QueueAndTrayEvents_blocks :
    (let s := tPlace tLaunch
     (s.launch 3).phase = 1 ∧ (kget s.parts 0).down = false ∧ (s.slotOf 0).1 = 0 ∧ (maskBits (kget s.parts 0).mask)[0]? = some 0 ∧ (s.addInstance 3 0 0 0 1).isSome = true ∧
       ((tPlace { tLaunch with ngang := 200 }).addInstance 3 0 0 0 1).isNone = true) ∧
    (let s := tPlace { tLaunch with phase := 2, blocks := [2] }
     (s.launch 3).phase = 2 ∧ (∀ b ∈ (s.launch 3).blocks, (s.block b).live = false) ∧ s.openReqs = [] ∧ (({ s with stuck := false } : State).report (s.launch 3) 0 0).stuck = false) ∧
    ((∃ kv ∈ (tTray .active).activeBlocks 0, ((tTray .active).launch kv.2.launch).queue = 0) ∧ (∀ kv ∈ (tTray .saved).activeBlocks 0, ((tTray .saved).launch kv.2.launch).queue ≠ 7) ∧
      (let at_ := fun n => ({ tTray .active with clock := { d0 := 0, d1 := 0, d2 := 0, d3 := 0, mc := [n] } } : State)
       kget ((at_ 0).core 0).slices 0 + 1250 * qSlice ((at_ 0).qdesc 0) = 1250000 ∧ (at_ 1250000).mcNow 0 = 1250000 ∧ (at_ 1249999).mcNow 0 < 1250000)) ∧
    (let s : State := { tTray .active with blocks := [(2, { tBlock with where_ := .active, ngang := 1 }), (4, { tBlock with where_ := .shadowIn, gangs := [], launch := 5 })], hbm := memWrite tHbm 0x1028E 2 1, launches := [(3, { tLaunch with blocks := [2] }), (5, { tLaunch with prio := 4, blocks := [4] })] }
     s.shadowBlocks 0 .shadowOut = [] ∧ s.arrayDone 0 = true ∧ s.shadowBlocks 0 .shadowIn = [4] ∧ s.mayDisplace 0 (([4].map s.blockClass).foldl max 0) = true ∧
       s.blocks.all (fun kv => s.block kv.1 == kv.2) = true) ∧
    ((tTray .shadowIn).shadowBlocks 0 .shadowOut = [] ∧ (tTray .shadowOut).shadowBlocks 0 .shadowOut = [2] ∧ (tTray .active).mayDisplace 0 0 = false) ∧
    (let s : State := { tTray .saved with blocks := [(2, { tBlock with where_ := .saved }), (4, { tBlock with where_ := .shadowIn, gangs := [], slabs := 0 })] }
     (s.block 2).live = true ∧ (s.block 2).ending = false ∧ (s.block 2).where_ = .saved ∧ s.mayResume 2 0 = true ∧ s.blocks.all (fun kv => kv.1 == 2 || !(kv.2.live && kv.2.where_ == .saved)) = true ∧
       s.shadowBlocks 0 .shadowOut = [] ∧ s.shadowRoom 0 2 = true ∧ s.shadowBlocks 0 .shadowIn ≠ []) ∧
    ((∀ g ∈ ((tTray .shadowOut).block 2).gangs, ∀ x ∈ ((tTray .shadowOut).gang g).loads, x.tag = 18) ∧ (tTray .shadowOut).copies = [] ∧ (tTray .shadowOut).bagOps = [] ∧ (tTray .shadowOut).reqs = [] ∧
      ({ tTray .shadowOut with reqs := [{ rq .store with loc := .blk 2 0 }] } : State).reqs.any (fun r => r.kind != .waddr && r.words.any (fun w => w.1 == 2)) = true) := by decide +kernel

theorem wit_PlatformEvents :
    (let at8 := fun n => ({ State.reset with mgmt := sset resetMgmt 8 n } : State)
     State.reset.mg 8 = 0 ∧ (at8 2).mg 8 = 2 ∧ (at8 0x101).mg 8 ≠ 0 ∧ (at8 0x101).mg 8 ≠ 2 ∧ (at8 0x101).isReady = true ∧ State.reset.isReady = false) ∧
    (let s := fun (off : Nat) (x : Word) => ({ tRdyOf tM with mgmt := sset (tRdyOf tM).mgmt off x } : State)
     let r := tRdyOf tM
     r.isReady = true ∧ (r.mg 0x00F0).getLsbD 31 = false ∧ ((s 0x00F0 0x800003FF).mg 0x00F0).toNat = 1023 % 1024 + 2 ^ 31 ∧ ((s 0x00F0 0x800003FF).mg 0x00F0).getLsbD 31 = true ∧
       (r.mg 0x0640).getLsbD 31 = false ∧ ((s 0x0640 0x80000001).mg 0x0640).getLsbD 31 = true ∧ 0x80000001 % 16 = 1 ∧ (0x80000001 / 2 ^ 31 % 2 = 1 ∧ 1 / 2 ^ 31 % 2 = 0) ∧
       (∃ kv ∈ r.parts, kv.1 ≠ 1 ∧ kv.2.mask &&& 0xFFF ≠ 0) ∧ r.runsOn 0xFFF = true ∧ ({ r with launches := [] } : State).runsOn 0xFFF = false ∧
       ((s 0x0640 0x80000001).mg 0x0640).toNat % 16 = 1 ∧ (kget r.parts 1).down = false ∧ r.ringOn = false ∧ (s 0x0080 6).ringOn = true ∧ (s 0x007C 1).mg 0x0078 ≠ (s 0x007C 1).mg 0x007C ∧
       (s 0x0504 0xFFFFFFFF).mg 0x0504 = 0xFFFFFFFF) ∧
    -- clash is false where the mask in PART.MASK is 0, and true, at the command or at the stitch, where another partition holds a stack group of it
    ((tRdyOf tM).mg (0x0600 + 4 * 1) = 0) ∧
    (let s : State := { tRdyOf tM with launches := [], mgmt := sset (sset (tRdyOf tM).mgmt 0x0604 1) 0x0640 0x80000001 }
     (∃ kv ∈ s.parts, kv.1 ≠ 1 ∧ kv.2.mask &&& (s.mg 0x0604).toNat ≠ 0) ∧ (s.mg 0x0640).getLsbD 31 = true ∧ (s.mg 0x0640).toNat % 16 = 1 ∧ s.runsOn ((kget s.parts 1).mask ||| 1) = false) ∧
    (mgMask 0x0320 = none ∧ mgMask 0x00F0 = none ∧ (0x80000007 : Word).getLsbD 31 = true ∧ (0x00000007 : Word).getLsbD 31 = false) ∧
    -- words of the register map: two words that are one register, one word, a word that is not written, and one at an odd place
    (mgWide 0x0040 = true ∧ 0x0040 % 8 = 0 ∧ 0x0044 % 8 = 4 ∧ (0x0010 ≤ 0x0018 ∧ 0x001C < 0x0020) ∧ mgWide 0x0018 = true ∧ (mgMask 0x0100).isSome = true ∧ mgWide (0x0100 / 8 * 8) = false ∧
      mgMask 0x0000 = none ∧ mgWide 0x0000 = false ∧ 0x0101 % 4 ≠ 0) := by decide +kernel

/-! ## Further clauses of statements above -/

/-- A reserved bit under guard p0, outside a covered run and in one; and `pblk` under p0. -/
theorem wit_RejectedWords_guards :
    (let w : IWord := 0x00C005604210800000000001
     assigned w = true ∧ w.extractLsb' 82 4 = 0 ∧ w.extractLsb' 74 2 ≠ 0 ∧ (match Instr.ofQuad (w.extractLsb' 88 8) (fieldsOf (fmtOf (opOf w)) w) with | some (.pblk _) => true | _ => false) = false) ∧
    (let w := encode (.pblk { fBare with guard := 0, slot := 1, imm := 1 })
     assigned w = true ∧ w.extractLsb' 82 4 = 0 ∧ (match Instr.ofQuad (w.extractLsb' 88 8) (fieldsOf (fmtOf (opOf w)) w) with | some (.pblk _) => true | _ => false) = true) := by decide +kernel

/-- Infinity times 1 plus the other infinity, and a NaN operand without 0 times infinity. -/
theorem wit_FloatSpecialCases_fma :
    ¬ isNaNBits fp32 0x7F800000 ∧ ¬ isNaNBits fp32 0x3F800000 ∧ 0x3F800000 % 2 ^ 31 ≠ 0 ∧ 0xFF800000 % 2 ^ 31 = 0x7F800000 ∧
      (0x7F800000 / 2 ^ 31 + 0x3F800000 / 2 ^ 31 + 0xFF800000 / 2 ^ 31) % 2 = 1 ∧ isNaNBits fp32 0x7FC00000 := by decide

/-- Exact values that are rounded and that overflow, and a value of two bits more than the format keeps. -/
theorem wit_RoundingKeepsNumbersAndOverflows_nearest :
    ∀ f ∈ [fp32, fp16, bf16], (roundFp f 0 true (2 ^ 30 + 1) (f.qmin - 28) false).2.getLsbD 2 = false ∧ (roundFp f 0 true 3 200 false).2.getLsbD 2 = true ∧
      2 ^ (f.mbits + 1) ≤ 2 ^ 30 + 1 := by decide

/-- The other gangs of a block that ends. -/
theorem wit_TrapEscalation_gangs :
    let s : State := { tS with gangs := [(1, { tGang with trap := true }), (4, tGang)], blocks := [(2, { tBlock with gangs := [1, 4], ngang := 2 })] }
    (s.gang 1).trap = true ∧ 4 ∈ (s.block (s.gang 1).block).gangs ∧ (s.gang 4).live = true := by decide +kernel

/-- Saved waits of each kind. -/
theorem wit_TrapReturn_waits :
    [Wait.none, .bar 2 5 0, .named 4 0, .sleep 0 0, .xacq, .comp].all (fun w => match w with | .waddr _ => false | .mask _ => false | .reform _ _ _ => false | _ => true) = true := by decide

/-- No drain at a block barrier and at a named one. -/
theorem wit_ArrivalEvents_none :
    tS.doneDrain 1 (fun d => d.kind == 1 && d.lane == 0 && d.obj == 2) = none ∧ tS.doneDrain 1 (fun k => k.kind == 2 && k.obj == 4) = none := by decide +kernel

/-- An entry whose line is poisoned; and a state in which every line is whole. -/
theorem wit_AccessChecks_unread :
    ({ tM with lineInfo := [(0x40020 / 64, { (default : LineInfo) with poison := true })] } : State).entBad 5 1 = true ∧ tM.entBad 5 1 = false ∧ tM.lineInfo = [] := by decide +kernel

/-- A `.b128` load of buffer 1. -/
theorem wit_LoadResults_wide :
    let i : Instr := .ld (W 0 256 (.v 8) (.s 4) (.v 3) (.v 0) 0)
    passesWord (tOne id) i (askOf i.fields rightR false) = true ∧ tyBits i.fields.mty / 8 = 16 ∧ i.fields.ss = 0 ∧ (tOne id).me.sb = [] := by decide +kernel

/-- Entries in the store buffer, one of them of `.b128`; and a store of the gang at the banks. -/
theorem wit_PhaseAndTaintResults_stores :
    (let s := tMg (fun g => { g with sb := [sbOne, { sbOne with off := 16, width := 16 }] })
     s.execLanes fBare ≠ 0 ∧ s.me.sb ≠ [] ∧ s.cur.stage = 0) ∧
    (let s : State := { tM with reqs := [{ rq .store with loc := .blk 2 0 }] }
     s.bankStores 1 = [9] ∧ Path.t ∈ pathSet ((W 2 0x48 (.v 0) (.v 0) (.v 0) (.v 0) 0).mod.extractLsb' 6 4) ∧ tM.bankStores 1 = [] ∧ tM.lags = []) := by decide +kernel

/-- A block that is asked for, one being cleared, a queue and too few granules before a request, and nobody waiting. -/
theorem wit_ExtendedRegisterResults_queued :
    ([ExtState.queued, .clearing].all (fun x =>
      let s := tWith (fun g => { g with ext := x, extK := 3, threads := kset g.threads 0 { g.thread 0 with st := .waiting, wait := .xacq } })
      (s.me.ext == x && s.me.extK == 3 && (s.me.lanesWith (fun t => t.wait == .xacq)) == 1)) = true) ∧
    (let s := { tWith (fun g => { g with ext := .queued, extK := 3, base := some 1, threads := (List.range 32).map (fun k => (k, { g.thread k with st := .waiting, wait := .xacq })) }) with
       cores := [(0, { (default : Core) with allocQ := [{ gid := 1, ext := true, start := 0, size := 8 }], allocs := [al 1 0 512] })] }
     (s.core 0).allocQ = [{ gid := 1, ext := true, start := 0, size := 8 }] ∧ s.residents 0 = [1] ∧ freeGranules (s.core 0).allocs < 8 ∧
       (∀ g ∈ s.residents 0, (s.gang g).ext = .queued ∧ (∀ l, l < 32 → ((s.gang g).thread l).st ≠ .ready) ∧ ∃ l, l < 32 ∧ ((s.gang g).thread l).wait = .xacq)) := by decide +kernel

/-- A command that has waited, a `cpq` without a slot, and checks that fail: one, and two of which the first of R228's order counts. -/
theorem wit_CopyCommandResults_waits :
    (let s := tCp id fullIds
     isClear s (.cpq cpq0) = true ∧ s.cur.cmd = none ∧ ({ s with cur := { s.cur with cmd := some cpDone } } : State).cur.cmd = some cpDone ∧
       thereB (s.checkEnd 1 false 0x70001 0 (kget (s.block s.me.block).slab 1).rows 64 (kget (s.block s.me.block).slab 1).rbytes rightC) = true) ∧
    (let s := tCp id []
     (match s.checkEnd 1 false 0x70001 4090 1 0 16 rightC with | .fail k _ _ => k == fkBounds | _ => false) = true ∧
       (match s.checkEnd 1 false 0x80001 0 1 0 16 rightD with | .fail k _ _ => k == fkHandle | _ => false) = true ∧ checkRank fkHandle < checkRank fkBounds) := by decide +kernel

/-- A record is attached to a copy that is complete; sixteen committed batches before a `cpwait`; and one that has waited. -/
theorem wit_CopyBatchResults_room :
    let s := tCp (fun g => { g with open_ := [0], batches := List.replicate 16 [0] }) [(0, { cpDone with state := 3 })]
    isClear s (.cpwait (W 1 0 (.v 0) (.v 0) (.v 0) (.v 0) 1)) = true ∧ 16 ≤ s.me.batches.length ∧ s.me.open_ ≠ [] ∧ s.cur.stage ≠ 2 ∧
      ({ tS with cur := { tS.cur with stage := 2 } } : State).cur.stage = 2 := by decide +kernel

/-- A cursor whose `bdrain` has not answered, and one whose has; a descriptor and an entry that can be read; a settlement that has waited. -/
theorem wit_BagWordResults_more :
    (({ tCur 1 with bagOps := [(6, { (default : BagOp) with gid := 1, cursor := 1 })] } : State).cursorOf 1 9 = none ∧ (tCur 1).cursorOf 1 9 ≠ none ∧
      (tCur 1).cursors.length < 2 ^ 32 ∧ (∃ kv ∈ (tCur 1).cursors, kv.2.block = (tCur 1).me.block ∧ kv.2.val = 9)) ∧
    (let s : State := { tM with cur := { tM.cur with stage := 2, cmd := some default, pkt := 0x70003 } }
     s.cur.stage = 2 ∧ s.cur.cmd = some default ∧ s.cur.pkt / 2 ^ 32 = 0 ∧ s.cur.pkt % 2 ^ 32 = 0x70003) := by decide +kernel

/-- The line of route 3's entry poisoned; posts that have waited for room, on the local route. -/
theorem wit_FabricWordResults_routes :
    (let s := { tPost id with lineInfo := [((8 * (256 * 5 + 3)) / 64, { (default : LineInfo) with poison := true })] }
     let i := Instr.xpost (W 2 0 (.v 0) (.s 16) (.v 4) (.v 3) 0x30)
     WellFormed i ∧ isClear s i = true ∧ s.tableBad (s.routeAddr 5 3) 8 = true ∧ (i.fields.imm.extractLsb' 4 8).toNat = 3 ∧ (s.askers i).length ≤ 256 - s.me.posts.length ∧ s.posts = [] ∧ s.me.posts = []) ∧
    (let s : State := { tPost (fun g => { g with posts := List.range 255 }) with cur := { tM.cur with mask := 0x8001, posts := [[default], [default]] } }
     s.cur.posts ≠ [] ∧ (∀ l ∈ s.cur.posts, ∀ p ∈ l, p.route = 0) ∧ s.posts = [] ∧ 256 - s.me.posts.length = 1) := by decide +kernel

/-- `qlaunch` where the descriptor's line is poisoned; and where the checks of the ring are made with the entry read, for a packet in registers. -/
theorem wit_FabricWordResults_queues :
    (let s := fun d => ({ tMg (fun g => { g with regs := { tRegs with s := tRegs.s ++ [(13, 896)] } }) with hbm := memWrite tHbm 0x20000 64 d } : State)
     let poison := fun (x : State) => ({ x with lineInfo := [(0x20000 / 64, { (default : LineInfo) with poison := true })] } : State)
     let read := fun (x : State) => (({ x with stuck := false }).readTable (x.qaddr 0) 64).readEnt 5 (qRing (x.qdesc 0))
     ((s 0).readReg (s 0).view 0 0 (.s 12)).toNat % 2 ^ 16 = 0 ∧ (poison (s (tQueue 0 1))).tableBad ((s 0).qaddr 0) 64 = true ∧ (s (tQueue 0 1)).tableBad ((s 0).qaddr 0) 64 = false ∧
       (let bad := s (tQueue 0 0 - 2 ^ 432)
        (match (read bad).checkRing (bad.qdesc 0) rightW 0 with | .error k => k == fkHandle | .ok _ => false) = true) ∧
       (let ok := s (tQueue 1 2)
        (match (read ok).checkRing (ok.qdesc 0) rightW 0 with | .ok _ => true | .error _ => false) = true)) := by decide +kernel

/-- Walks that may be made, and not: at an entry's page that is being encrypted again; an address that gets two grades. -/
theorem wit_MemoryServiceEvents_walks :
    (tM.walkOpen noQueue 5 0 (0x10 * 2 ^ 16) = true ∧ ({ tM with pages := [(0x50, { major := 0, reenc := true, key := 0, wait := [] })] } : State).walkOpen noQueue 5 0 (0x10 * 2 ^ 16) = false) ∧
    (let s : State := { tM with cores := [(1, { (default : Core) with xlat := [{ asid := 6, space := 0, vpn := 3, frame := 0x500000, grade := 2 }] })] }
     ∀ pg ∈ s.walk 5 0 (0x10 * 2 ^ 16), pg.2 ≠ 2 ∧ locOf 0 pg.1 = .hbm 0x500000) ∧
    (tM.walk 5 0 (0x10 * 2 ^ 16)).isSome = true := by decide +kernel

/-- The two halves of an access at the port; and a read that fails with an append waiting and the pool full. -/
theorem wit_MemoryServiceEvents_halves :
    (let lo := { rq .load with id := 9, loc := .host 64, width := 8 }
     let hi := { rq .load with id := 10, loc := .host 72, width := 8, half := 9, order := lo.order }
     let s : State := { tM with reqs := [lo, hi] }
     (∀ x ∈ s.reqs, ∀ y ∈ s.reqs, y.id = x.half → y.gid = x.gid ∧ y.serial = x.serial ∧ y.order ≤ x.order ∧ y.id < x.id) ∧ s.reqs ≠ []) ∧
    (let s : State := { tTile (tArrive true [rq .store]) [] with tiles := [(0x500, tArrive true [rq .store]), (0x540, ti .absent (List.replicate 16384 (cr .store)))] }
     16384 < s.poolUsed sl0 + min ((s.tile 0x500).waiting.filter (fun r => r.kind == .store || r.kind == .red)).length (32 - (s.tile 0x500).log.length) ∧ (s.tile 0x500).bad = true ∧ (s.tile 0x500).framed = true) ∧
    (let s := tTile (tArrive true [rq .store]) []
     s.poolUsed sl0 + min 1 (32 - (s.tile 0x500).log.length) ≤ 16384) := by decide +kernel

/-- A set of failed lanes that only tells of them, with the replay buffer full; and parked lanes whose record a KILL posts. -/
theorem wit_FaultServiceEvents_told :
    (let s := tFault [rp 0 1, rp 1 1, rp 2 1, rp 3 1] (fun g => { g with fails := [{ fs with lanes := 0, told := 1 }] })
     (s.gang 1).fails.head? = some { fs with lanes := 0, told := 1 } ∧ s.openReqs = []) ∧
    (let s := tFault [rp 5 1] id
     (s.gang 1).parkings ≠ [] ∧ (s.gang 1).fails = [] ∧ (s.block (s.gang 1).block).gangs.Nodup ∧ (∃ x ∈ (s.gang 1).parkings, x.1.getLsbD 0 = true) ∧ (s.gang 1).acks = []) := by decide +kernel

/-- The state in which a chunk has begun and its walks are made. -/
def tWalked (c : Copy) (s : State) (chunk : Nat) : State :=
  let r := chunk / c.perRow
  let i := 256 * (chunk % c.perRow)
  let n := min 256 (c.len - i)
  let ends := fun (x : CopyEnd) => [x.off + r * x.stride + i, x.off + r * x.stride + i + (n - 1)]
  let walked := fun (u : State) (x : CopyEnd) => if x.sort = 1 then (ends x).foldl (fun u o => u.learn 0 (s.queueOf c.gid) c.asid x.ent o) u else u
  walked (walked (s.setCopy 0 { c with state := 3 }) c.src) c.dst
def wPieces (c : Copy) (s : State) (chunk : Nat) : List Piece :=
  let w := tWalked c s chunk
  w.endPieces 0 c c.src (chunk / 2) (256 * (chunk % 2)) (min 256 (c.len - 256 * (chunk % 2))) false ++ w.endPieces 0 c c.dst (chunk / 2) (256 * (chunk % 2)) (min 256 (c.len - 256 * (chunk % 2))) true
def endOpen (c : Copy) (s : State) (o : Nat) : Bool := s.pieceOpen 0 (s.queueOf c.gid) c.asid c.src.ent o

/-- A chunk whose walks may be made, whose pages are open, and whose lines are whole; one whose walk waits; and one whose page does. -/
theorem wit_CopyEngineEvents_walks :
    (let c := cpRow (cpEnd 1 0 0x100000) (cpEnd 0 0 0)
     let s := tCopy c
     [768, 811].all (endOpen c s) = true ∧ (tWalked c s 3).lineInfo = [] ∧ (tWalked c s 3).chunkMisses 0 c 3 = false ∧
       (wPieces c s 3).all (fun p => match p.spot with
         | .ok (.hbm pa) m => m && (tWalked c s 3).chanOpen (s.queueOf c.gid) pa p.n && !(kget (tWalked c s 3).pages (pa / 4096)).reenc && (kget (tWalked c s 3).pages (pa / 4096)).wait.isEmpty
         | .ok _ _ => true
         | _ => false) = true) ∧
    (let c := cpRow (cpEnd 1 0 0x110000) (cpEnd 0 0 0)
     let s : State := { tCopy c with pages := [(0x50, { major := 0, reenc := true, key := 0, wait := [] })] }
     [768, 811].any (fun o => !endOpen c s o) = true) ∧
    (let c := cpRow (cpEnd 1 0 0x100000) (cpEnd 0 0 0)
     let s : State := { tCopy c with pages := [(0x500, { major := 0, reenc := true, key := 0, wait := [] })] }
     [768, 811].all (endOpen c s) = true ∧ (wPieces c s 3).any (fun p => match p.spot with | .ok (.hbm pa) m => m && (kget (tWalked c s 3).pages (pa / 4096)).reenc | _ => false) = true) := by decide +kernel

/-- A ready follow-on, with room for it and behind four. -/
theorem wit_ArrayEvents_ready :
    ([mm 4 1].find? (fun m => ((tArr id).block m.block).where_ == .active) = some (mm 4 1) ∧ (tArr id).block 9 = default ∧
      ((tArr (fun c => { c with ready := [mm 4 1], mmaQ := List.replicate 4 (mm 4 3) })).core 0).ready = [mm 4 1] ∧
      ¬ (((tArr (fun c => { c with ready := [mm 4 1], mmaQ := List.replicate 4 (mm 4 3) })).core 0).mmaQ.filter (fun x => x.from_ == 4)).length < 4) := by decide +kernel

/-- Slots that can be reached, and not, and the walk made. -/
theorem wit_BagHomeEvents_reach :
    let s := fun base => ({ tHome { tBag with placing := [hq .put 0], p := 1 } bOp [] with
      hbm := memWrite (memWrite tHbm 0x40060 32 (tEnt 3 63 1 4096 0 base)) 0x52008 8 0xC00000001 } : State)
    let reach := fun (s : State) => s.pageOpen (s.queueOf 1) (s.bagEnt 0).1 (s.bagEnt 0).2.2 192
    let walked := fun (s : State) => s.readPage (s.queueOf 1) (s.bagEnt 0).1 (s.bagEnt 0).2.2 192
    reach (s 0x110000) = true ∧ reach { s 0x110000 with pages := [(0x50, { major := 0, reenc := true, key := 0, wait := [] })] } = false ∧
      (walked (s 0x110000)).slotLoc 0 192 = some (.hbm 0x5100C0) ∧ opensB (walked (s 0x110000)) 0x5100C0 (.place 0 8) = true ∧ (walked (s 0x40000000)).slotLoc 0 192 = none := by decide +kernel

/-- The line of a route's entry poisoned. -/
theorem wit_FabricEvents_routes :
    let s : State := { tFab [(9, po [4])] with lineInfo := [((8 * (256 * 5 + 3)) / 64, { (default : LineInfo) with poison := true })] }
    s.tableBad (s.routeAddr 5 3) 8 = true ∧ s.routeDown 5 3 = true := by decide +kernel

/-- A descriptor whose line is poisoned, of a queue stopped for it and of one that is not; the ring checked with its entry read; and the slot of a queue of lower class
whose blocks are all switched out, where no free slot takes the reservations. -/
theorem wit_QueueAndTrayEvents_unread :
    (let s : State := { tPkt 0 with lineInfo := [(0x20000 / 64, { (default : LineInfo) with poison := true })] }
     s.tableBad (s.qaddr 0) 64 = true ∧ (kget s.queues 0).stop ≠ some 0 ∧
       (kget ({ s with queues := [(0, { bell := 1, stop := some 0 })] } : State).queues 0).stop = some 0 ∧ (tPkt 0).tableBad ((tPkt 0).qaddr 0) 64 = false) ∧
    (let v := ({ tPkt 0 with turn := 0, stuck := false } : State).readTable ((tPkt 0).qaddr 0) 64
     (match (v.readEnt 5 (qRing (v.qdesc 0))).checkRing (v.qdesc 0) rightR (qHeadSlot (v.qdesc 0)) with | .ok _ => true | .error _ => false) = true) ∧
    (let x := tQ (tQueue 0 1 - 2 ^ 432) inSlot
     let v := ({ x with turn := 0, stuck := false } : State).readTable (x.qaddr 0) 64
     (match (v.readEnt 5 (qRing (v.qdesc 0))).checkRing (v.qdesc 0) rightR 0 with | .ok _ => false | .error k => k == fkHandle) = true) ∧
    (∀ n ∈ [mm 4 1], n.block ∉ ((tTray .saved).activeBlocks 0).map Prod.fst) := by decide +kernel

/-- Images that can be written, that wait, and under a spent key. -/
theorem wit_QueueAndTrayEvents_images :
    let s : State := { tTray .shadowOut with blocks := [(2, { tBlock with where_ := .shadowOut, imageAt := [3] })] }
    let key := s.saveKey (s.asidOf 2)
    s.shadowBlocks 0 .shadowOut = [2] ∧ s.imageOpen 2 = true ∧ (kget s.keys key).spent = false ∧ (∀ p ∈ s.imagePages 2, (kget s.pages p).major ≠ 2 ^ 56 - 1) ∧
      (∀ p ∈ s.imagePages 2, s.ctxAddr (s.asidOf 2) + 128 ≤ 4096 * p ∨ 4096 * p + 4096 ≤ s.ctxAddr (s.asidOf 2)) ∧ (s.block 2).imageAt ≠ [] ∧
      (kget ({ s with keys := [(key, { (default : KeySlot) with spent := true })] } : State).keys key).spent = true ∧
      ({ s with pages := (s.imagePages 2).map (fun p => (p, { major := 0, reenc := true, key := 0, wait := [] })) } : State).imageOpen 2 = false := by decide +kernel

/-- A tracker's register, a report that was asked for, and a step that may write it. -/
theorem wit_PlatformEvents_more :
    (clusterMg 47 0x0800 ≠ 0x00F0 ∧ (∀ c, c < 48 → (0x0100 : Nat) ≠ clusterMg c 0x0800) ∧ mgMask 0x0100 ≠ none) ∧
    (let s : State := { State.reset with mgmt := sset (sset resetMgmt 8 0x101) 0x0440 1 }
     s.err = none ∧ s.issuing = false ∧ s.cores = [] ∧ s.goers = [] ∧ s.bankReady = [] ∧ s.mg 0x0440 = 1) := by decide +kernel

end Sys2Proof.Tests
end

/-! ## Every step keeps every memory of the machine in canonical form

One lemma per operation of the model that answers a state: the operation keeps `MemoryForm`. `OutForm` says the same
of an outcome. Each proof follows the operation's own composition: `others` where only fields without a byte map
change, `ite` and `split` at its branches, `foldl` and `iter` at its loops, and the operation's lemma at each call. -/

namespace Sys2Proof.Machine

/-- An outcome that is a next state has its memories in canonical form. -/
def OutForm (o : Out) : Prop := ∀ t, o = .next t → MemoryForm t

theorem OutForm.next {t : State} (h : MemoryForm t) : OutForm (.next t) := by
  rintro _ ⟨⟩; exact h

theorem OutForm.fault (f : Fault) : OutForm (.fault f) := by
  rintro _ ⟨⟩

theorem OutForm.ite {c : Prop} [Decidable c] {a b : Out} (ha : OutForm a) (hb : OutForm b) :
    OutForm (if c then a else b) := by
  split
  · exact ha
  · exact hb

/-- The first `n` bytes of a function, zeros left out. -/
theorem listed_wf (f : Nat → Byte) (n : Nat) :
    Memory.wf (((List.range n).map (fun k => (k, f k))).filter (fun kb => kb.2 != 0)) = true := by
  induction n with
  | zero => rfl
  | succ n ih =>
    rw [List.range_succ, List.map_append, List.filter_append]
    refine sfrom_append (w := 8) _ _ 0 n ih ?_ ?_ (Nat.zero_le n)
    · intro kv hk
      obtain ⟨k, hr, rfl⟩ := List.mem_map.mp (List.mem_filter.mp hk).1
      exact List.mem_range.mp hr
    · by_cases hz : f n = 0
      · rw [List.map_singleton, List.filter_cons_of_neg (by simp [hz])]; rfl
      · rw [List.map_singleton, List.filter_cons_of_pos (by simpa using hz)]
        simpa [sfrom] using hz

/-- The `n` bytes from `a` on, moved to address 0. -/
theorem bytesFrom_wf {m : Memory} (h : Memory.wf m = true) (a n : Nat) :
    Memory.wf ((m.filter (fun kv => decide (a ≤ kv.1) && decide (kv.1 < a + n))).map (fun kv => (kv.1 - a, kv.2))) = true :=
  wf_window m _ a h fun _ hk => of_decide_eq_true (Bool.and_eq_true_iff.mp hk).1

namespace MemoryForm

/-- The fields that hold no byte map may be anything. -/
theorem others {s : State} (h : MemoryForm s) {clock cur issuing agenda free undefs err stuck next clusters gangs
    launches lags lineInfo grades pages keys reqs copies bags bagOps cursors hbmQ posts linkDown
    queues hwslots parts turn spent soft sag mgmt mgLow} :
    MemoryForm { s with
      clock := clock, cur := cur, issuing := issuing, agenda := agenda, free := free, undefs := undefs, err := err
      stuck := stuck, next := next, clusters := clusters, gangs := gangs, launches := launches, lags := lags
      lineInfo := lineInfo, grades := grades, pages := pages, keys := keys, reqs := reqs, copies := copies
      bags := bags, bagOps := bagOps, cursors := cursors, hbmQ := hbmQ, posts := posts, linkDown := linkDown
      queues := queues, hwslots := hwslots, parts := parts, turn := turn, spent := spent, soft := soft, sag := sag
      mgmt := mgmt, mgLow := mgLow } :=
  h.of_eq rfl rfl rfl rfl rfl rfl rfl

theorem ite {c : Prop} [Decidable c] {s t : State} (hs : MemoryForm s) (ht : MemoryForm t) :
    MemoryForm (if c then s else t) := by
  split
  · exact hs
  · exact ht

theorem foldl {α : Type} {f : State → α → State} {s : State} (h : MemoryForm s)
    (hf : ∀ s x, MemoryForm s → MemoryForm (f s x)) (l : List α) :
    MemoryForm (l.foldl f s) := by
  induction l generalizing s with
  | nil => exact h
  | cons a t ih => exact ih (hf s a h)

theorem iter {f : State → State} {s : State} (h : MemoryForm s) (hf : ∀ s, MemoryForm s → MemoryForm (f s))
    (n : Nat) :
    MemoryForm (iter f n s) := by
  induction n generalizing s with
  | zero => exact h
  | succ n ih => exact ih (hf s h)

theorem modGang {s : State} (h : MemoryForm s) (k : Nat) (f : Gang → Gang) :
    MemoryForm (s.modGang k f) := h.setGang k _

theorem modCore {s : State} (h : MemoryForm s) (k : Nat) {f : Core → Core} (hf : Core.bmem ∘ f = Core.bmem) :
    MemoryForm (s.modCore k f) :=
  h.setCore k _ ((congrArg (Memory.wf ·) (congrFun hf _)).trans (h.core k))

theorem modBlock {s : State} (h : MemoryForm s) (k : Nat) {f : Block → Block} (hf : Block.mem ∘ f = Block.mem) :
    MemoryForm (s.modBlock k f) :=
  h.setBlock k _ ((congrArg (Memory.wf ·) (congrFun hf _)).trans (h.block k))

theorem modTile {s : State} (h : MemoryForm s) (k : Nat) {f : Tile → Tile} (hf : Tile.data ∘ f = Tile.data) :
    MemoryForm (s.modTile k f) :=
  h.setTile k _ ((congrArg (Memory.wf ·) (congrFun hf _)).trans (h.tile k))

theorem foldl_snd {α β : Type} {f : β × State → α → β × State} {b : β} {s : State} (h : MemoryForm s)
    (hf : ∀ b x, MemoryForm b.2 → MemoryForm (f b x).2) (l : List α) : MemoryForm (l.foldl f (b, s)).2 := by
  induction l generalizing b s with
  | nil => exact h
  | cons a t ih => exact ih (hf (b, s) a h)

theorem foldl_snd_snd {α β γ : Type} {f : β × γ × State → α → β × γ × State} {b : β} {c : γ} {s : State}
    (h : MemoryForm s)
    (hf : ∀ b x, MemoryForm b.2.2 → MemoryForm (f b x).2.2) (l : List α) :
    MemoryForm (l.foldl f (b, c, s)).2.2 := by
  induction l generalizing b c s with
  | nil => exact h
  | cons a t ih => exact ih (hf (b, c, s) a h)

theorem pair {α : Type} {a : α} {t : State} (h : MemoryForm t) : MemoryForm (a, t).2 := h

theorem triple {α β : Type} {a : α} {b : β} {t : State} (h : MemoryForm t) : MemoryForm (a, b, t).2.2 := h

theorem of_pair {α : Type} {p : α × State} {a : α} {t : State} (e : p = (a, t)) (h : MemoryForm p.2) :
    MemoryForm t := by
  subst e; exact h

theorem of_triple {α β : Type} {p : α × β × State} {a : α} {b : β} {t : State} (e : p = (a, b, t))
    (h : MemoryForm p.2.2) :
    MemoryForm t := by
  subst e; exact h

theorem ite_snd {α : Type} {c : Prop} [Decidable c] {p q : α × State} (hp : MemoryForm p.2) (hq : MemoryForm q.2) :
    MemoryForm (if c then p else q).2 := by
  split
  · exact hp
  · exact hq

theorem ofHost {s : State} (h : MemoryForm s) (m : Memory) (hm : Memory.wf m = true) :
    MemoryForm { s with host := m } :=
  ⟨h.hbm, hm, h.flash, h.image, h.tiles, h.blocks, h.cores⟩

theorem ofImage {s : State} (h : MemoryForm s) (m : Memory) (hm : Memory.wf m = true) :
    MemoryForm { s with image := m } :=
  ⟨h.hbm, h.host, h.flash, hm, h.tiles, h.blocks, h.cores⟩

theorem ofTiles {s : State} (h : MemoryForm s) (m : KMap Tile) (hm : ∀ kv ∈ m, Memory.wf kv.2.data = true) :
    MemoryForm { s with tiles := m } :=
  ⟨h.hbm, h.host, h.flash, h.image, hm, h.blocks, h.cores⟩

theorem ofBlocks {s : State} (h : MemoryForm s) (m : KMap Block) (hm : ∀ kv ∈ m, Memory.wf kv.2.mem = true) :
    MemoryForm { s with blocks := m } :=
  ⟨h.hbm, h.host, h.flash, h.image, h.tiles, hm, h.cores⟩

theorem ofCores {s : State} (h : MemoryForm s) (m : KMap Core) (hm : ∀ kv ∈ m, Memory.wf kv.2.bmem = true) :
    MemoryForm { s with cores := m } :=
  ⟨h.hbm, h.host, h.flash, h.image, h.tiles, h.blocks, hm⟩

section Operations

variable {s : State}

/-! ### The operations of `Ops` -/

theorem setLaunch (h : MemoryForm s) (l x) : MemoryForm (s.setLaunch l x) := h.others

theorem modLaunch (h : MemoryForm s) (l f) : MemoryForm (s.modLaunch l f) := h.setLaunch _ _

theorem fresh (h : MemoryForm s) : MemoryForm s.fresh.2 := h.others

theorem undefCount (h : MemoryForm s) (asid) : MemoryForm (s.undefCount asid).2 := h.others

theorem undef (h : MemoryForm s) (asid w) : MemoryForm (s.undef asid w).2 := h.undefCount _

theorem choose (h : MemoryForm s) (n) : MemoryForm (s.choose n).2 := h.others

theorem setMg (h : MemoryForm s) (off x) : MemoryForm (s.setMg off x) := h.others

theorem setGrade (h : MemoryForm s) (space frame grade) : MemoryForm (s.setGrade space frame grade) := by
  unfold State.setGrade
  split
  · exact h.others
  · exact h

theorem learnPage (h : MemoryForm s) (asid e off) : MemoryForm (s.learnPage asid e off) := by
  unfold State.learnPage
  dsimp only
  split
  · exact h.setGrade _ _ _
  · exact h

theorem clearFlips (h : MemoryForm s) (l bad) : MemoryForm (s.clearFlips l bad) := h.others

theorem refetched (h : MemoryForm s) (lid pc) : MemoryForm (s.refetched lid pc) :=
  ite h ((h.undefCount _).modLaunch _ _)

theorem post (h : MemoryForm s) (c r) : MemoryForm (s.post c r).2 := h.setCore _ _ (h.core _)

theorem checkBar (h : MemoryForm s) (b bar) : MemoryForm (s.checkBar b bar) :=
  ite ((h.foldl (fun _ _ h => h.modGang _ _) _).modBlock _ (by rfl)) (h.foldl (fun _ _ h => h.modGang _ _) _)

theorem checkBars (h : MemoryForm s) (b) : MemoryForm (s.checkBars b) := h.foldl (fun _ _ h => h.checkBar _ _) _

theorem checkNamed (h : MemoryForm s) (cl id) : MemoryForm (s.checkNamed cl id) := by
  unfold State.checkNamed
  dsimp only
  split
  · exact h
  · exact ite (ite h.others.others h.others.others) h

theorem detach (h : MemoryForm s) (cl id gid) : MemoryForm (s.detach cl id gid) := by
  unfold State.detach
  dsimp only
  split
  · exact h
  · exact (h.others.modGang _ _).checkNamed _ _

theorem markOvf (h : MemoryForm s) (c stamp but) : MemoryForm (s.markOvf c stamp but) := h.others

theorem markCopies (h : MemoryForm s) (c ls but) : MemoryForm (s.markCopies c ls but) :=
  h.foldl (fun _ _ h => ite (h.markOvf _ _ _) h) _

theorem dropLine (h : MemoryForm s) (c l) : MemoryForm (s.dropLine c l) := by
  unfold State.dropLine
  split
  · split
    · exact h
    · exact (h.markCopies _ _ _).modCore _ (by rfl)
  · exact h

theorem updateLine (h : MemoryForm s) (c gid l w x) : MemoryForm (s.updateLine c gid l w x) := by
  unfold State.updateLine
  split
  · split
    · exact h
    · exact (h.markCopies _ _ _).modCore _ (by rfl)
  · exact h

theorem sendEntry (h : MemoryForm s) (gid e) : MemoryForm (s.sendEntry gid e) :=
  (h.updateLine _ _ _ _ _).foldl (fun _ _ h => h.fresh.others.modGang _ _) _

theorem sendAll (h : MemoryForm s) (gid n) : MemoryForm (s.sendAll gid n) := by
  induction n generalizing s with
  | zero => exact h
  | succ n ih =>
    unfold State.sendAll
    dsimp only
    refine .ite h ?_
    split
    · exact h.choose _
    · exact ih (((h.choose _).modGang _ _).sendEntry _ _)

theorem release (h : MemoryForm s) (gid) : MemoryForm (s.release gid) := h.sendAll _ _

theorem acquire (h : MemoryForm s) (gid) : MemoryForm (s.acquire gid) := by
  unfold State.acquire
  exact (h.modCore _ (by rfl)).modGang _ _

theorem closeGang (h : MemoryForm s) (gid) : MemoryForm (s.closeGang gid) := ite h ((h.release _).modGang _ _)

theorem lastRecord (h : MemoryForm s) (gid) : MemoryForm (s.lastRecord gid) := by
  unfold State.lastRecord
  dsimp only
  split
  · exact h
  · exact h.post _ _

theorem killBlock (h : MemoryForm s) (b) : MemoryForm (s.killBlock b) := by
  unfold State.killBlock
  exact (((h.foldl
      (fun _ _ h => ite h (((h.closeGang _).lastRecord _).modGang _ _)) _).modCore _ (by rfl)).modLaunch _ _).modBlock _ (by rfl)

theorem clearLast (h : MemoryForm s) (gid) : MemoryForm (s.clearLast gid) := by
  unfold State.clearLast
  exact h.modCore _ (by rfl)

theorem escalate (h : MemoryForm s) (gid cause code pc mask mf) :
    MemoryForm (s.escalate gid cause code pc mask mf) :=
  (h.post _ _).killBlock _

theorem takeTrap (h : MemoryForm s) (gid cause sub info pc mask mf) :
    MemoryForm (s.takeTrap gid cause sub info pc mask mf) := by
  unfold State.takeTrap
  dsimp only
  split
  · exact h.escalate _ _ _ _ _ _
  · exact (h.setGang _ _).clearLast _

theorem illop (h : MemoryForm s) (gid pc mask) : MemoryForm (s.illop gid pc mask) := h.takeTrap _ _ _ _ _ _ _

theorem illegal (h : MemoryForm s) (gid pc mask c) : MemoryForm (s.illegal gid pc mask c) :=
  h.takeTrap _ _ _ _ _ _ _

theorem trapReturn (h : MemoryForm s) (gid) : MemoryForm (s.trapReturn gid) := h.setGang _ _

/-! ### The operations of `Operands` -/

theorem advance (h : MemoryForm s) (m) : MemoryForm (s.advance m) := h.modGang _ _

theorem retire (h : MemoryForm s) : MemoryForm (s.retire) := h.advance _

theorem latchClk (h : MemoryForm s) (i e) : MemoryForm (s.latchClk i e) := ite (h.modGang _ _) h

theorem writeBack (h : MemoryForm s) (i e n vals lat fixed) : MemoryForm (s.writeBack i e n vals lat fixed) := by
  unfold State.writeBack
  exact h.modGang _ _

/-! ### The operations of `Flags` -/

theorem finishArith (h : MemoryForm s) (e fl) : MemoryForm (s.finishArith e fl) :=
  ite ((h.retire.modGang _ _).takeTrap _ _ _ _ _ _ _) (h.retire.modGang _ _)

theorem arithLane (h : MemoryForm s) (i lat fn) : OutForm (arithLane i lat fn s) :=
  .next ((ite h ((h.writeBack _ _ _ _ _ _).latchClk _ _)).finishArith _ _)

theorem arith (h : MemoryForm s) (i lat fn) : OutForm (arith i lat fn s) := by
  unfold Machine.arith
  exact h.arithLane _ _ _

/-! ### The operations of `Sync` -/

theorem pendId (h : MemoryForm s) : MemoryForm (s.pendId).2 := ite_snd h.fresh h

theorem hold (h : MemoryForm s) (e cond stage i) : MemoryForm (s.hold e cond stage i) := by
  unfold State.hold
  exact (h.pendId.advance _).modGang _ _

theorem maskMember (h : MemoryForm s) (join f) : OutForm (maskMember join f s) :=
  .next (ite h.retire (h.retire.modGang _ _))

theorem execMjoin (h : MemoryForm s) (f) : OutForm (execMjoin f s) := h.maskMember _ _

theorem execMleave (h : MemoryForm s) (f) : OutForm (execMleave f s) := h.maskMember _ _

theorem execMwait (h : MemoryForm s) (f) : OutForm (execMwait f s) := .next (ite h.retire (h.retire.modGang _ _))

theorem execMpoll (h : MemoryForm s) (f) : OutForm (execMpoll f s) := .next (ite h (h.writeBack _ _ _ _ _ _)).retire

theorem execMrd (h : MemoryForm s) (f) : OutForm (execMrd f s) := .next (ite h (h.writeBack _ _ _ _ _ _)).retire

theorem fileThread (h : MemoryForm s) (gid lane n target r) {t : State}
    (e : s.fileThread gid lane n target r = some t) : MemoryForm t := by
  unfold State.fileThread at e
  obtain ⟨kb, -, rfl⟩ := Option.map_eq_some_iff.mp e
  exact (h.modCore _ (by rfl)).modGang _ _

theorem lastGone (h : MemoryForm s) (gid) : MemoryForm (s.lastGone gid) := ite (h.closeGang _) h

theorem execReform (h : MemoryForm s) (f) : OutForm (execReform f s) := by
  unfold Machine.execReform
  refine .ite (.next h.retire) (.ite (.next (h.illop _ _ _))
      (.ite (.next ((h.hold _ _ _ _).latchClk _ _)) (.next
      (lastGone ((h.latchClk _ _).retire.foldl (fun s x h => ?_) _) _))))
  split
  · rename_i e
    exact h.fileThread _ _ _ _ _ e
  · exact (h.modCore _ (by rfl)).modGang _ _

theorem barCount (h : MemoryForm s) (b bar gid lane gen) : MemoryForm (s.barCount b bar gid lane gen) :=
  ite ((h.modBlock _ (by rfl)).checkBar _ _) h

theorem barArrive (h : MemoryForm s) (wait i) : OutForm (barArrive wait i s) :=
  .ite (.next h.retire) (.ite (.next (h.illop _ _ _)) (.next
      ((((h.latchClk _ _).retire.modBlock _ (by rfl)).modGang _ _).foldl (fun _ _ h => h.barCount _ _ _ _ _) _)))

theorem execBsync (h : MemoryForm s) (f) : OutForm (execBsync f s) := h.barArrive _ _

theorem execBarv (h : MemoryForm s) (f) : OutForm (execBarv f s) := h.barArrive _ _

theorem execBwt (h : MemoryForm s) (f) : OutForm (execBwt f s) :=
  .ite (.next h.retire) (.ite (.next (h.illop _ _ _)) (.next ((h.latchClk _ _).retire.modGang _ _)))

theorem setNamed (h : MemoryForm s) (gid id r) : MemoryForm (s.setNamed gid id r) := h.others

theorem execNbatt (h : MemoryForm s) (f) : OutForm (execNbatt f s) := by
  unfold Machine.execNbatt
  refine .ite (.next h.retire) ?_
  split
  · exact .ite (.next (h.illop _ _ _)) (.ite (.ite (.next (h.illop _ _ _)) (.next (h.latchClk _ _).retire))
      (.ite (.next (h.illop _ _ _)) (.next ((h.latchClk _ _).retire.setNamed _ _ _))))
  · exact .ite (.next (h.illop _ _ _)) (.ite (.next (h.takeTrap _ _ _ _ _ _ _))
      (.next (h.latchClk _ _).retire.fresh.others))

theorem namedArrive (h : MemoryForm s) (gid id) : MemoryForm (s.namedArrive gid id) :=
  (h.setNamed _ _ _).checkNamed _ _

theorem execNbarv (h : MemoryForm s) (f) : OutForm (execNbarv f s) := by
  unfold Machine.execNbarv
  refine .ite (.next h.retire) ?_
  split
  · exact .next (h.illop _ _ _)
  · exact .ite (.next (h.illop _ _ _)) (.ite (.next (((h.latchClk _ _).retire.setNamed _ _ _).namedArrive _ _))
      (.next (((h.latchClk _ _).retire.setNamed _ _ _).modGang _ _)))

theorem execNbwt (h : MemoryForm s) (f) : OutForm (execNbwt f s) := by
  unfold Machine.execNbwt
  refine .ite (.next h.retire) ?_
  split
  · exact .next (h.illop _ _ _)
  · exact .next (ite ((h.latchClk _ _).retire.modGang _ _) (h.latchClk _ _).retire)

theorem execNbdet (h : MemoryForm s) (f) : OutForm (execNbdet f s) := by
  unfold Machine.execNbdet
  refine .ite (.next h.retire) ?_
  split
  · exact .next (h.illop _ _ _)
  · exact .ite (.next (h.illop _ _ _)) (.next ((h.latchClk _ _).retire.detach _ _ _))

theorem execTwait (h : MemoryForm s) (f) : OutForm (execTwait f s) := .next ((h.latchClk _ _).retire.modGang _ _)

theorem withdraw (h : MemoryForm s) (gid) : MemoryForm (s.withdraw gid) := by
  unfold State.withdraw
  exact (h.modCore _ (by rfl)).modGang _ _

theorem allocDeadlock (h : MemoryForm s) (c) : MemoryForm (s.allocDeadlock c) := by
  unfold State.allocDeadlock
  dsimp only
  split
  · exact ite (((h.withdraw _).modGang _ _).takeTrap _ _ _ _ _ _ _) h
  · exact h

theorem execXacq (h : MemoryForm s) (f) : OutForm (execXacq f s) :=
  .ite (.next h.retire) (.ite (.next (h.illop _ _ _)) (.ite (.next (h.latchClk _ _).retire)
      (.ite (.next ((((((h.latchClk _ _).advance _).modGang _ _).modGang _ _).modCore _ (by rfl)).allocDeadlock _))
      (.next (((h.latchClk _ _).advance _).modGang _ _)))))

theorem freeExt (h : MemoryForm s) (gid) : MemoryForm (s.freeExt gid) := (h.withdraw _).modGang _ _

theorem execXrel (h : MemoryForm s) (f) : OutForm (execXrel f s) :=
  .ite (.next h.retire) (.ite (.ite (.next (h.hold _ _ _ _)) (.next (h.freeExt _).retire))
      (.ite (.next (h.withdraw _).retire) (.next (((h.withdraw _).retire.modGang _ _).illop _ _ _))))

theorem execRegion (h : MemoryForm s) (f) : OutForm (execRegion f s) := .next (h.retire.modGang _ _)

theorem execPpoint (h : MemoryForm s) (f) : OutForm (execPpoint f s) :=
  .next (ite h.retire ((h.latchClk _ _).retire.modGang _ _))

/-! ### The operations of `Control` -/

theorem transfer (h : MemoryForm s) (e target) : MemoryForm (s.transfer e target) := by
  unfold State.transfer
  exact h.retire.modGang _ _

theorem execBra (h : MemoryForm s) (f) : OutForm (execBra f s) := .next ((h.latchClk _ _).transfer _ _)

theorem execBrx (h : MemoryForm s) (f) : OutForm (execBrx f s) := .next ((h.latchClk _ _).transfer _ _)

theorem execCall (h : MemoryForm s) (f) : OutForm (execCall f s) :=
  .next ((ite h (((h.writeBack _ _ _ _ _ _).modGang _ _).latchClk _ _)).transfer _ _)

theorem execRet (h : MemoryForm s) (f) : OutForm (execRet f s) := .next ((h.latchClk _ _).transfer _ _)

theorem execExit (h : MemoryForm s) (f) : OutForm (execExit f s) :=
  .ite (.next h.retire) (.next (((h.retire.modGang _ _).lastGone _).checkBars _))

theorem execNop (h : MemoryForm s) (_f) : OutForm (execNop _f s) := .next h.retire

theorem execPblk (h : MemoryForm s) (f) : OutForm (execPblk f s) := .next (h.retire.modGang _ _)

theorem debugStop (h : MemoryForm s) (gid type kind pc lanes code) :
    MemoryForm (s.debugStop gid type kind pc lanes code) :=
  ((h.post _ _).modGang _ _).clearLast _

theorem execBrk (h : MemoryForm s) (f) : OutForm (execBrk f s) :=
  .next (ite (h.retire.debugStop _ _ _ _ _ _) h.retire)

theorem execTrap (h : MemoryForm s) (f) : OutForm (execTrap f s) :=
  .next (ite (h.latchClk _ _).retire ((h.latchClk _ _).retire.takeTrap _ _ _ _ _ _ _))

/-! ### The operations of `Mem` -/

theorem postFault (h : MemoryForm s) (core kind asid gang pc handle path off) :
    MemoryForm (s.postFault core kind asid gang pc handle path off) :=
  h.post _ _

theorem postRas (h : MemoryForm s) (kind stack off) : MemoryForm (s.postRas kind stack off) := h.post _ _

theorem modPage (h : MemoryForm s) (pa f) : MemoryForm (s.modPage pa f) := h.others

theorem gate (h : MemoryForm s) (pa key full tok) : MemoryForm (s.gate pa key full tok).2 :=
  ite_snd (h.modPage _ _) (ite_snd (h.modPage _ _) (ite_snd h (h.modPage _ _)))

theorem reencrypt (h : MemoryForm s) (page) : MemoryForm (s.reencrypt page) := ite h.others h.others

theorem readLines (h : MemoryForm s) (pa n key) : MemoryForm (s.readLines pa n key).2 :=
  (h.foldl (fun _ _ h => h.meetLine _) _).foldl (fun _ _ h => h.postRas _ _ _) _

theorem readTable (h : MemoryForm s) (pa n) : MemoryForm (s.readTable pa n) :=
  h.foldl (fun _ _ h => ite ((ite h (h.applyEcc _ _)).postRas _ _ _) (ite h (h.applyEcc _ _))) _

theorem readEnt (h : MemoryForm s) (asid idx) : MemoryForm (s.readEnt asid idx) :=
  ite ((h.readTable _ _).readTable _ _) (h.readTable _ _)

theorem takeBudget (h : MemoryForm s) (queue chan) : MemoryForm (s.takeBudget queue chan) := ite h.others h

theorem chanTake (h : MemoryForm s) (queue pa n) : MemoryForm (s.chanTake queue pa n) :=
  h.foldl (fun _ _ h => h.takeBudget _ _) _

theorem readWalk (h : MemoryForm s) (queue asid space va) : MemoryForm (s.readWalk queue asid space va) :=
  (h.readTable _ _).foldl (fun _ _ h => (h.readTable _ _).chanTake _ _ _) _

theorem readPage (h : MemoryForm s) (queue asid e off) : MemoryForm (s.readPage queue asid e off) :=
  (h.readWalk _ _ _ _).learnPage _ _ _

theorem meet (h : MemoryForm s) (l serial) : MemoryForm (s.meet l serial) := ite h h.others

theorem readByte (h : MemoryForm s) (p gid serial l) : MemoryForm (s.readByte p gid serial l).2 := by
  unfold State.readByte
  dsimp only
  refine ite_snd (h.meet _ _) ?_
  split <;> exact (h.choose _).meet _ _

theorem readPath (h : MemoryForm s) (p gid serial l n) : MemoryForm (s.readPath p gid serial l n).2 := by
  induction n generalizing s l with
  | zero => exact h
  | succ n ih => exact ih (h.readByte _ _ _ _) _

theorem order (h : MemoryForm s) (ws rs gid upto) : MemoryForm (s.order ws rs gid upto) := h.others

theorem observe (h : MemoryForm s) (gid serial) : MemoryForm (s.observe gid serial) := h.others

theorem observeRecord (h : MemoryForm s) (gid l n) : MemoryForm (s.observeRecord gid l n) := by
  unfold State.observeRecord
  split
  · exact h.foldl (fun _ _ h => ite (h.observe _ _) h) _
  · exact h

theorem wakeWaddr (h : MemoryForm s) (l n) : MemoryForm (s.wakeWaddr l n) := by
  unfold State.wakeWaddr
  refine h.foldl (fun s x h => (h.foldl (fun s x h => ?_) _)) _
  split
  · exact ite ((h.modGang _ _).observeRecord _ _ _) h
  · exact h

theorem sliceWatch (h : MemoryForm s) (l n p src) : MemoryForm (s.sliceWatch l n p src) := by
  unfold State.sliceWatch
  split
  · exact ite h (h.post _ _)
  · exact h

theorem meetWords (h : MemoryForm s) (l n write) : MemoryForm (s.meetWords l n write) :=
  ite h (h.others.iter (fun _ h => h.countMg _) _)

theorem markLogged (h : MemoryForm s) (p gid l n) : MemoryForm (s.markLogged p gid l n) := by
  unfold State.markLogged
  split
  · exact ite h.others h
  · exact h

theorem noteLag (h : MemoryForm s) (p gid serial l n) : MemoryForm (s.noteLag p gid serial l n) :=
  (ite h.others h).others

theorem write (h : MemoryForm s) (p src gid serial l n x key) : MemoryForm (s.write p src gid serial l n x key) :=
  (((((h.markLogged _ _ _ _).meetWords _ _ _).noteLag _ _ _ _ _).store _ _ _ _).sliceWatch _ _ _ _).wakeWaddr _ _

theorem hotSettle (h : MemoryForm s) (slice) : MemoryForm (s.hotSettle slice) := by
  unfold State.hotSettle
  refine .ite h (.ite h.others (h.others.ofTiles _ ?_))
  intro kv hk
  obtain ⟨x, hx, rfl⟩ := List.mem_map.mp hk
  split <;> exact h.tiles x hx

theorem hotCount (h : MemoryForm s) (tile pin) : MemoryForm (s.hotCount tile pin) := by
  have hs := h.hotSettle (homeSlice tile)
  unfold State.hotCount
  refine ite hs (ite (hs.countMg _) (ite hs ?_))
  split
  · exact hs.setTile _ _ (by exact hs.tile _)
  · refine ite (hs.setTile _ _ (by exact hs.tile _)) ?_
    split
    · exact (hs.modTile _ (by rfl)).setTile _ _ (by exact hs.tile _)
    · exact hs

theorem evict (h : MemoryForm s) (tile) : MemoryForm (s.evict tile).2 := by
  have drop : ∀ kv ∈ kdel s.tiles tile, Memory.wf kv.2.data = true := fun kv hk => h.tiles kv
      (List.mem_filter.mp hk).1
  unfold State.evict
  dsimp only
  refine ite_snd h (ite_snd ((h.meetWords _ _ _).ofTiles _ drop)
      (ite_snd ((h.postFault _ _ _ _ _ _ _ _).ofTiles _ drop) (ite_snd h ?_)))
  split
  · rename_i t e
    exact of_pair e (h.gate _ _ _ _)
  · rename_i t e
    have ht := of_pair e (h.gate _ _ _ _)
    exact (((ht.meetWords _ _ _).putTileMem _ _ (h.tile _)).touchLines _ _ _).ofTiles _ fun kv hk => ht.tiles kv
        (List.mem_filter.mp hk).1

theorem makeRoom (h : MemoryForm s) (slice) : MemoryForm (s.makeRoom slice).2 := by
  unfold State.makeRoom
  dsimp only
  refine ite_snd h ?_
  split
  · exact (h.choose _).evict _
  · exact pair (h.choose _)

theorem takeFrame (h : MemoryForm s) (tile) : MemoryForm (s.takeFrame tile) := by
  unfold State.takeFrame
  dsimp only
  refine ite h ?_
  split
  · rename_i e
    exact of_pair e (h.makeRoom _)
  · rename_i e
    exact (((of_pair e (h.makeRoom _)).foldl_snd (fun _ _ h => by exact h.chanTake _ _ _) _).modTile _ (by rfl)).others

theorem arrive (h : MemoryForm s) (tile cause gid reclaim) : MemoryForm (s.arrive tile cause gid reclaim) :=
  .ite ((h.setTile _ _ (by exact h.tile _)).takeFrame _) h

theorem reclaimLog (h : MemoryForm s) (slice) : MemoryForm (s.reclaimLog slice) := by
  unfold State.reclaimLog
  refine ite h ?_
  split
  · exact h.arrive _ _ _ _
  · exact h

theorem setPost (h : MemoryForm s) (k p) : MemoryForm (s.setPost k p) := h.others

theorem dropPost (h : MemoryForm s) (k) : MemoryForm (s.dropPost k) := ite h.others (h.others.modGang _ _)

theorem failPost (h : MemoryForm s) (k kind src named) : MemoryForm (s.failPost k kind src named) := by
  unfold State.failPost
  split
  · exact h
  · exact ((h.modGang _ _).post _ _).dropPost _

theorem answer (h : MemoryForm s) (r x) : MemoryForm (s.answer r x) := h.modGang _ _

theorem markPerformed (h : MemoryForm s) (r) : MemoryForm (s.markPerformed r) := by
  unfold State.markPerformed
  refine ite ?_ (ite (h.modGang _ _) h)
  split
  · exact h.setPost _ _
  · exact h

theorem dropCopy (h : MemoryForm s) (core line ln) : MemoryForm (s.dropCopy core line ln) :=
  (h.markCopies _ _ _).modCore _ (by rfl)

theorem lineRoom (h : MemoryForm s) (core) : MemoryForm (s.lineRoom core) := by
  unfold State.lineRoom
  dsimp only
  refine ite h ?_
  split
  · exact (h.choose _).dropCopy _ _ _
  · exact h.choose _

theorem fillLine (h : MemoryForm s) (core pa data) : MemoryForm (s.fillLine core pa data) := by
  unfold State.fillLine
  exact ((h.modCore _ (by rfl)).lineRoom _).modCore _ (by rfl)

theorem parkLane (h : MemoryForm s) (r kind) : MemoryForm (s.parkLane r kind) := h.setGang _ _

theorem longop (h : MemoryForm s) (gid lanes blks pc kind handle off path) :
    MemoryForm (s.longop gid lanes blks pc kind handle off path) :=
  ite (h.post _ _) ((h.post _ _).modGang _ _)

theorem failCopy (h : MemoryForm s) (key serial kind handle off) :
    MemoryForm (s.failCopy key serial kind handle off) := by
  unfold State.failCopy
  split
  · exact h
  · exact ite h (ite ((h.longop _ _ _ _ _ _ _ _).modGang _ _) (h.postFault _ _ _ _ _ _ _ _)).others

theorem watchLane (h : MemoryForm s) (gid load lane n) : MemoryForm (s.watchLane gid load lane n) := by
  unfold State.watchLane
  dsimp only
  split
  · exact h
  · exact ite h (ite ((h.modGang _ _).observeRecord _ _ _) (h.modGang _ _))

theorem watchRead (h : MemoryForm s) (r) : MemoryForm (s.watchRead r) :=
  h.foldl (fun _ _ h => h.watchLane _ _ _ _) _

theorem performAt (h : MemoryForm s) (r) : MemoryForm (s.performAt r) := by
  unfold State.performAt
  dsimp only
  split
  · exact (h.answer _ _).observeRecord _ _ _
  · split
    · split
      · exact h.answer _ _
      · exact (h.fillLine _ _ _).answer _ _
    · exact h.answer _ _
  · exact (h.write _ _ _ _ _ _ _ _).markPerformed _
  · exact (h.write _ _ _ _ _ _ _ _).markPerformed _
  · exact (h.write _ _ _ _ _ _ _ _).answer _ _
  · exact (ite (h.write _ _ _ _ _ _ _ _) h).answer _ _
  · split
    · exact ite (ite ((h.undef _ _).answer _ _) (h.answer _ _)) (h.others.markPerformed _)
    · exact h
  · split
    · exact ite (ite ((h.undef _ _).answer _ _) (h.answer _ _)) (h.others.markPerformed _)
    · exact h
  · exact h
  · exact h
  · exact h.watchRead _

theorem perform (h : MemoryForm s) (r) : MemoryForm (s.perform r) := by
  unfold State.perform
  refine performAt ?_ _
  split
  · exact h
  · exact h
  · exact h
  · exact h
  · exact h
  · exact h.meetWords _ _ _

theorem failReq (h : MemoryForm s) (r kind) : MemoryForm (s.failReq r kind) := by
  unfold State.failReq
  split
  · exact ite (h.failPost _ _ _ _) ((h.postFault _ _ _ _ _ _ _ _).markPerformed _)
  · exact ite (h.failPost _ _ _ _) ((h.postFault _ _ _ _ _ _ _ _).markPerformed _)
  · exact ite (h.failPost _ _ _ _) ((h.postFault _ _ _ _ _ _ _ _).markPerformed _)
  · exact h
  · exact h.failCopy _ _ _ _ _
  · exact h.parkLane _ _

theorem append (h : MemoryForm s) (tile r) : MemoryForm (s.append tile r) :=
  (((((((h.markLogged _ _ _ _).noteLag _ _ _ _ _).setTile _ _
      (by exact h.tile _)).others).sliceWatch _ _ _ _).wakeWaddr _ _).markPerformed _).hotCount _ _

theorem noteLogged (h : MemoryForm s) (gid pa n) : MemoryForm (s.noteLogged gid pa n) := h.modGang _ _

theorem serve (h : MemoryForm s) (r failed) : MemoryForm (s.serve r failed) := by
  unfold State.serve
  dsimp only
  split
  · refine ite (h.failReq _ _) ?_
    split
    · exact h.perform _
    · exact h.setTile _ _ (by exact h.tile _)
    · split
      · exact ite (ite (h.failReq _ _) (h.arrive _ _ _ _)) (ite (h.others.reclaimLog _) (h.append _ _))
      · exact ite (ite (h.failReq _ _) (h.arrive _ _ _ _)) (ite (h.others.reclaimLog _) (h.append _ _))
      · split
        · exact ((ite (h.noteLogged _ _ _) h).hotCount _ _).answer _ _
        · exact ite (h.failReq _ _) (h.arrive _ _ _ _)
      · split
        · exact ((ite (h.noteLogged _ _ _) h).hotCount _ _).answer _ _
        · exact ite (h.failReq _ _) (h.arrive _ _ _ _)
      · exact ite h ((h.setTile _ _ (by exact h.tile _)).arrive _ _ _ _)
      · exact ite (h.failReq _ _) (h.arrive _ _ _ _)
  · exact h.perform _

theorem bankServe (h : MemoryForm s) (r) : MemoryForm (s.bankServe r) := h.others.foldl (fun _ _ h => h.perform _) _

theorem bankFlush (h : MemoryForm s) (who block off n) : MemoryForm (s.bankFlush who block off n) := by
  unfold State.bankFlush
  dsimp only
  split
  · exact h
  · exact h.foldl (fun _ _ h => ite (h.bankServe _) h) _

theorem takeReq (h : MemoryForm s) (p) {r : Req} {t : State} (e : s.takeReq p = some (r, t)) : MemoryForm t := by
  unfold State.takeReq at e
  split at e
  · exact absurd e (by simp)
  · obtain ⟨-, rfl⟩ := Prod.mk.inj (Option.some.inj e)
    exact h.others

theorem flushBlock (h : MemoryForm s) (b) : MemoryForm (s.flushBlock b) :=
  h.others.foldl (fun _ _ h => h.perform _) _

theorem endBlock (h : MemoryForm s) (b) : MemoryForm (s.endBlock b) := by
  unfold State.endBlock
  have hf := h.flushBlock b
  refine .ite h (setBlock (others (ite (hf.setCore _ _ ?_) hf)) _ _ rfl)
  exact foldl_memSet_wf _ _ _ (swf_filter (w := 8) _ _ (hf.core _))

/-! ### The operations of `Access` -/

theorem takeWatch (h : MemoryForm s) (gid idx pc lanes) : MemoryForm (s.takeWatch gid idx pc lanes) :=
  ite (h.takeTrap _ _ _ _ _ _ _) (ite (h.escalate _ _ _ _ _ _) (h.debugStop _ _ _ _ _ _))

theorem failLanes (h : MemoryForm s) (i lanes kind handle off path) :
    MemoryForm (s.failLanes i lanes kind handle off path) := by
  unfold State.failLanes
  exact h.modGang _ _

theorem suspend (h : MemoryForm s) (i e) : MemoryForm (s.suspend i e) := by
  unfold State.suspend
  exact h.modGang _ _

theorem readHandles (h : MemoryForm s) (asid hs) : MemoryForm (s.readHandles asid hs) :=
  h.foldl (fun _ _ h => h.readEnt _ _) _

theorem readEnts (h : MemoryForm s) (asid cs) : MemoryForm (s.readEnts asid cs) := h.readHandles _ _

theorem checked (h : MemoryForm s) (i asks cs) : MemoryForm (s.checked i asks cs) :=
  (ite ((h.latchClk _ _).suspend _ _) (h.latchClk _ _)).readEnts _ _

theorem memBundle (h : MemoryForm s) (i m waits path chk) {act}
    (hact : ∀ s r e l, MemoryForm s → MemoryForm (act s r e l)) :
    OutForm (memBundle i m waits path chk act s) := by
  unfold Machine.memBundle
  extract_lets e gid g ids r cs walks fails oks bad good asid s1 s2 s3 s4
  clear_value fails
  have h1 : MemoryForm s1 := h.checked _ _ _
  have h2 : MemoryForm s2 := by
    unfold s2
    split
    · exact h1
    · exact h1.failLanes _ _ _ _ _ _
  have h4 : MemoryForm s4 := advance (.ite h2 (hact _ _ _ _ h2)) _
  refine .ite (.next (h.retire)) (.ite (.next ((h.hold _ _ _ _).latchClk _ _))
      (.ite (.next ((h.hold _ _ _ _).latchClk _ _)) (.ite (.fault _) ?_)))
  split
  · exact .next h4
  · exact .next (h4.takeWatch _ _ _ _)

theorem cmdBundle (h : MemoryForm s) (i path illop ends) {act}
    (hact : ∀ s r e l, MemoryForm s → OutForm (act s r e l)) :
    OutForm (cmdBundle i path illop ends act s) := by
  unfold Machine.cmdBundle
  dsimp only
  refine .ite (.next (h.retire)) (.ite (.next ((h.hold _ _ _ _).latchClk _ _)) (.ite (.next (h.illop _ _ _)) ?_))
  split
  · exact .next (((h.checked _ _ _).failLanes _ _ _ _ _ _).advance _)
  · exact .ite (hact _ _ _ _ h) (.ite (.next ((h.hold _ _ _ _).latchClk _ _))
      (.ite (.fault _) (hact _ _ _ _ (h.checked _ _ _))))

theorem result (h : MemoryForm s) (i e x) : MemoryForm (s.result i e x) := h.writeBack _ _ _ _ _ _

/-! ### The operations of `MemIsa` -/

theorem send (h : MemoryForm s) (r) : MemoryForm (s.send r).2 := ite (h.fresh.others.modGang _ _) h.fresh.others

theorem startLoad (h : MemoryForm s) (i n l t) : MemoryForm (s.startLoad i n l t) := by
  unfold State.startLoad
  exact h.modGang _ _

theorem loadLane (h : MemoryForm s) (f id width lane lanes t) :
    MemoryForm (s.loadLane f id width lane lanes t).2.2 := by
  unfold State.loadLane
  dsimp only
  split
  · exact h.foldl_snd_snd (fun _ _ h => by exact triple (h.send _)) _
  · split
    · refine foldl_snd_snd h (fun b x h => ?_) _
      split
      · exact h
      · split
        · exact h
        · exact triple (h.send _)
    · exact triple (h.send _)

theorem loadAll (h : MemoryForm s) (i good oks n tag t) {one}
    (hone : ∀ s id l t, MemoryForm s → MemoryForm (one s id l t).2.2) :
    MemoryForm (s.loadAll i good oks n tag t one) :=
  startLoad (h.fresh.foldl_snd_snd (fun _ _ h => by exact hone _ _ _ _ h) _) _ _ _ _

theorem execLd (h : MemoryForm s) (f) : OutForm (execLd f s) := by
  unfold Machine.execLd
  exact h.memBundle _ _ _ _ _ (fun _ _ _ _ h => h.loadAll _ _ _ _ _ _
      (fun _ _ _ _ h => by exact h.loadLane _ _ _ _ _ _))

theorem enterStores (h : MemoryForm s) (gid es) : MemoryForm (s.enterStores gid es) :=
  ite (h.setGang _ _) ((h.release _).modGang _ _)

theorem execSt (h : MemoryForm s) (f) : OutForm (execSt f s) := by
  unfold Machine.execSt
  exact h.memBundle _ _ _ _ _ (fun _ _ _ _ h => ite (h.foldl (fun _ _ h => h.foldl (fun _ _ h => h.send _) _) _)
      (ite (h.enterStores _ _) (h.foldl (fun _ _ h => (h.dropLine _ _).send _) _)))

theorem execSpill (h : MemoryForm s) (f) : OutForm (execSpill f s) := by
  unfold Machine.execSpill
  refine h.memBundle _ _ _ _ _ (fun _ _ _ _ h => ?_)
  split
  · exact h
  · exact (h.foldl (fun _ _ h => h.foldl (fun _ _ h => h.write _ _ _ _ _ _ _ _) _) _).modGang _ _

theorem fillWord (h : MemoryForm s) (gid lane word) : MemoryForm (s.fillWord gid lane word).2 := by
  have hu := h.undef (s.launchOf gid).asid 32
  unfold State.fillWord
  dsimp only
  exact ite_snd h (pair (modGang (hu.setBlock _ _ (by exact memWrite_wf _ _ _ _ (hu.block _))) _ _))

theorem execFill (h : MemoryForm s) (f) : OutForm (execFill f s) := by
  unfold Machine.execFill
  exact h.memBundle _ _ _ _ _ (fun _ _ _ _ h => h.loadAll _ _ _ _ _ _
      (fun _ _ _ _ h => by exact h.foldl_snd_snd (fun _ _ h => by exact h.fillWord _ _ _) _))

theorem sendPoint (h : MemoryForm s) (r) : MemoryForm (s.sendPoint r).2 := (h.dropLine _ _).send _

theorem execAtom (h : MemoryForm s) (f) : OutForm (execAtom f s) := by
  unfold Machine.execAtom
  dsimp only
  exact h.memBundle _ _ _ _ _ (fun _ _ _ _ h => h.loadAll _ _ _ _ _ _
      (fun _ _ _ _ h => by exact triple (h.sendPoint _)))

theorem execCas (h : MemoryForm s) (f) : OutForm (execCas f s) := by
  unfold Machine.execCas
  dsimp only
  exact h.memBundle _ _ _ _ _ (fun _ _ _ _ h => h.loadAll _ _ _ _ _ _
      (fun _ _ _ _ h => by exact triple (h.sendPoint _)))

theorem execRed (h : MemoryForm s) (f) : OutForm (execRed f s) := by
  unfold Machine.execRed
  exact h.memBundle _ _ _ _ _ (fun _ _ _ _ h => h.foldl (fun _ _ h => h.sendPoint _) _)

theorem stWait (h : MemoryForm s) (i send) {after} (hafter : ∀ s, MemoryForm s → MemoryForm (after s)) :
    OutForm (stWait i send after s) := by
  unfold Machine.stWait
  have hs := ite (c := send && s.cur.stage == 0) (h.release s.cur.gid) h
  exact .ite (.next h.retire) (.ite (.next (hs.hold _ _ _ _)) (.next (hafter _ hs).retire))

theorem execPhaseRel (h : MemoryForm s) (f) : OutForm (execPhaseRel f s) := h.stWait _ _ (fun _ h => h)

theorem execPhaseAcq (h : MemoryForm s) (f) : OutForm (execPhaseAcq f s) :=
  .next (ite h.retire (h.acquire _).retire)

theorem execPhaseAr (h : MemoryForm s) (f) : OutForm (execPhaseAr f s) := h.stWait _ _ (fun _ h => h.acquire _)

theorem execSbwait (h : MemoryForm s) (f) : OutForm (execSbwait f s) := h.stWait _ _ (fun _ h => h)

theorem execPfence (h : MemoryForm s) (f) : OutForm (execPfence f s) :=
  .ite (.next h.retire) (.ite (.next (h.others.hold _ _ _ _)) (.next (h.order _ _ _ _).retire))

theorem execTsync (h : MemoryForm s) (f) : OutForm (execTsync f s) :=
  .ite (.next h.retire) (.ite (.next (h.hold _ _ _ _)) (.next ((h.latchClk _ _).modGang _ _).retire))

theorem execUntaint (h : MemoryForm s) (f) : OutForm (execUntaint f s) :=
  .next (ite h.retire (h.modGang _ _).retire)

theorem execTfetch (h : MemoryForm s) (f) : OutForm (execTfetch f s) := by
  unfold Machine.execTfetch
  exact h.memBundle _ _ _ _ _ (fun _ _ _ _ h => h.foldl (fun _ _ h => h.send _) _)

theorem execTevict (h : MemoryForm s) (f) : OutForm (execTevict f s) :=
  h.memBundle _ _ _ _ _ (fun _ _ _ _ h => h.foldl (fun _ _ h => ite (h.modTile _ (by rfl)) h) _)

theorem execMdld (h : MemoryForm s) (f) : OutForm (execMdld f s) := by
  unfold Machine.execMdld
  dsimp only
  exact h.memBundle _ _ _ _ _ (fun _ _ _ _ h => h.loadAll _ _ _ _ _ _ (fun _ _ _ _ h => by exact triple (h.send _)))

theorem execMdst (h : MemoryForm s) (f) : OutForm (execMdst f s) := by
  unfold Machine.execMdst
  exact h.memBundle _ _ _ _ _ (fun _ _ _ _ h => h.foldl (fun _ _ h => (h.dropLine _ _).send _) _)

theorem readWatched (h : MemoryForm s) (gid lanes w pc serial) : MemoryForm (s.readWatched gid lanes w pc serial) :=
  h.send _

theorem readAgain (h : MemoryForm s) (gid ws) : MemoryForm (s.readAgain gid ws) :=
  h.foldl (fun _ _ h => h.readWatched _ _ _ _ _) _

theorem startWaddr (h : MemoryForm s) (i r id lane t) : MemoryForm (s.startWaddr i r id lane t).2 := by
  unfold State.startWaddr
  dsimp only
  exact h.modGang _ _

theorem execWaddr (h : MemoryForm s) (f) : OutForm (execWaddr f s) := by
  unfold Machine.execWaddr
  exact h.memBundle _ _ _ _ _ (fun _ _ _ _ h => ((h.fresh.startLoad _ _ _ _).foldl_snd
      (fun _ _ h => by exact h.startWaddr _ _ _ _ _) _).foldl (fun _ _ h => h.readWatched _ _ _ _ _) _)

/-! ### The operations of `System` -/

theorem execRdsp (h : MemoryForm s) (f) : OutForm (execRdsp f s) :=
  .next (ite h ((h.writeBack _ _ _ _ _ _).modGang _ _)).retire

theorem slabWritten (h : MemoryForm s) (b) : MemoryForm (s.slabWritten b) := h.foldl (fun _ _ h => h.modGang _ _) _

theorem setCtlGang (h : MemoryForm s) (gid n x) : MemoryForm (s.setCtlGang gid n x) := by
  unfold State.setCtlGang
  split
  · exact h.modGang _ _
  · exact h.modGang _ _
  · exact h.modGang _ _
  · exact h.modGang _ _
  · exact ite (h.modGang _ _) (ite ((h.modBlock _ (by rfl)).slabWritten _) h)

theorem execWrsp (h : MemoryForm s) (f) : OutForm (execWrsp f s) :=
  .ite (.next h.retire) (.ite (.next (h.illop _ _ _)) (.next
      (ite (((ite h (h.modGang _ _)).latchClk _ _).retire.setCtlGang _ _ _)
      (((ite h (h.modGang _ _)).latchClk _ _).retire.modGang _ _))))

/-! ### The operations of `Copy` -/

theorem setCopy (h : MemoryForm s) (key c) : MemoryForm (s.setCopy key c) := h.others

theorem retireBatches (h : MemoryForm s) (gid n) : MemoryForm (s.retireBatches gid n) := by
  induction n generalizing s with
  | zero => exact h
  | succ n ih =>
    unfold State.retireBatches
    split
    · exact h
    · exact .ite (ih (h.others.modGang _ _)) h

theorem commitBatch (h : MemoryForm s) (gid) : MemoryForm (s.commitBatch gid) :=
  ite h ((h.setGang _ _).retireBatches _ _)

theorem waitedCopies (h : MemoryForm s) (gid) : MemoryForm (s.waitedCopies gid) :=
  (h.foldl (fun _ _ h => h.observe _ _) _).modGang _ _

theorem writeRecord (h : MemoryForm s) (key c) : MemoryForm (s.writeRecord key c) := by
  unfold State.writeRecord
  split
  · exact h
  · exact ((h.write _ _ _ _ _ _ _ _).modBlock _ (by rfl)).write _ _ _ _ _ _ _ _

theorem takeSlot (h : MemoryForm s) (i e c) {after} (hafter : ∀ s k, MemoryForm s → MemoryForm (after s k)) :
    OutForm (s.takeSlot i e after c) := by
  unfold State.takeSlot
  dsimp only
  exact .ite (.next (h.others.hold _ _ _ _)) (.next (hafter _ _
      ((((h.choose _).fresh.setCopy _ _).modGang _ _).result _ _ _)).retire)

theorem execCp (h : MemoryForm s) (f) : OutForm (execCp f s) := by
  unfold Machine.execCp
  exact h.cmdBundle _ _ _ _ (fun _ _ _ _ h => h.takeSlot _ _ _ (fun _ _ h => h))

theorem execCpq (h : MemoryForm s) (f) : OutForm (execCpq f s) := by
  unfold Machine.execCpq
  exact h.cmdBundle _ _ _ _ (fun _ _ _ _ h => h.pendId.takeSlot _ _ _ (fun _ _ h => (h.modGang _ _).slabWritten _))

theorem execCpflag (h : MemoryForm s) (f) : OutForm (execCpflag f s) := by
  unfold Machine.execCpflag
  refine h.cmdBundle _ _ _ _ (fun _ _ _ _ h => ?_)
  split
  · exact .next h.retire
  · exact .next (ite ((h.setCopy _ _).retire.writeRecord _ _) (h.setCopy _ _).retire)

theorem execCpcommit (h : MemoryForm s) (f) : OutForm (execCpcommit f s) := by
  unfold Machine.execCpcommit
  exact h.cmdBundle _ _ _ _ (fun _ _ _ _ h => .ite (.next (h.hold _ _ _ _)) (.next (h.commitBatch _).retire))

theorem execCpwait (h : MemoryForm s) (f) : OutForm (execCpwait f s) := by
  unfold Machine.execCpwait
  exact h.cmdBundle _ _ _ _ (fun _ _ _ _ h => .ite (.next (h.waitedCopies _).retire)
      (.ite (.next (h.hold _ _ _ _)) (.ite (.next ((h.commitBatch _).waitedCopies _).retire)
      (.next ((h.commitBatch _).hold _ _ _ _)))))

theorem execCpst (h : MemoryForm s) (f) : OutForm (execCpst f s) := by
  unfold Machine.execCpst
  refine h.cmdBundle _ _ _ _ (fun _ _ _ _ h => ?_)
  split
  · exact .next (h.result _ _ _).retire
  · exact .next ((ite (h.observe _ _) h).result _ _ _).retire

/-! ### The operations of `Matrix` -/

theorem modSlab (h : MemoryForm s) (b k f) : MemoryForm (s.modSlab b k f) := h.modBlock _ (by rfl)

theorem slabWrite (h : MemoryForm s) (i e k lat f) : MemoryForm (s.slabWrite i e k lat f) :=
  ((h.modSlab _ _ _).modGang _ _).slabWritten _

theorem meetSlab (h : MemoryForm s) (b k) : MemoryForm (s.meetSlab b k).2 := by
  unfold State.meetSlab
  split
  · exact h
  · exact (h.modSlab _ _ _).countMg _
  · exact h

theorem execScfg (h : MemoryForm s) (f) : OutForm (execScfg f s) :=
  .ite (.next h.retire) (.ite (.next (h.illop _ _ _)) (.next ((h.latchClk _ _).slabWrite _ _ _ _ _).retire))

theorem execSzero (h : MemoryForm s) (f) : OutForm (execSzero f s) :=
  .next (ite h.retire (h.slabWrite _ _ _ _ _).retire)

theorem execSmovIn (h : MemoryForm s) (f) : OutForm (execSmovIn f s) :=
  .ite (.next h.retire) (.ite (.next (h.illop _ _ _)) (.next ((h.latchClk _ _).slabWrite _ _ _ _ _).retire))

theorem slabFault (h : MemoryForm s) (e) : MemoryForm (s.slabFault e) := h.takeTrap _ _ _ _ _ _ _

theorem slabResult (h : MemoryForm s) (i e vals lat) : MemoryForm (s.slabResult i e vals lat) := by
  unfold State.slabResult
  exact (h.writeBack _ _ _ _ _ _).modGang _ _

theorem execSmovOut (h : MemoryForm s) (f) : OutForm (execSmovOut f s) := by
  unfold Machine.execSmovOut
  refine .ite (.next h.retire) (.ite (.next (h.illop _ _ _)) ?_)
  split
  · rename_i e
    exact .next ((of_pair e (h.meetSlab _ _)).slabFault _)
  · rename_i e
    exact .next (((of_pair e (h.meetSlab _ _)).latchClk _ _).slabResult _ _ _ _).retire

theorem scalePairs (h : MemoryForm s) (r o) : MemoryForm (s.scalePairs r o).2 :=
  h.foldl_snd (fun _ _ h => by exact ite_snd (h.undef _ 64) h) _

theorem withdrawArm (h : MemoryForm s) (gid) : MemoryForm (s.withdrawArm gid) := by
  unfold State.withdrawArm
  dsimp only
  split
  · exact h
  · split
    · exact (h.modGang _ _).setCopy _ _
    · exact h.modGang _ _

theorem settleArmed (h : MemoryForm s) (core) : MemoryForm (s.settleArmed core) := by
  unfold State.settleArmed
  dsimp only
  refine h.foldl (fun s x h => ?_) _
  split
  · exact h
  · split
    · exact (h.modCore _ (by rfl)).modGang _ _
    · exact ((h.modCore _ (by rfl)).modGang _ _).setCopy _ _

theorem execMma (h : MemoryForm s) (f) : OutForm (execMma f s) := by
  unfold Machine.execMma
  dsimp only
  refine .ite (.next h.retire) (.ite (.next ((h.withdrawArm _).illop _ _ _)) (.ite (.next (h.illop _ _ _)) ?_))
  split
  · exact .next (((((h.scalePairs _ _).scalePairs _ _).fresh.modGang _ _).slabWritten _).retire.modCore _ (by rfl))
  · exact .next
      (((((((h.scalePairs _ _).scalePairs _ _).fresh.modGang _ _).slabWritten _).retire.modGang _ _).modCore _ (by rfl)).settleArmed _)

theorem execQuant (h : MemoryForm s) (f) : OutForm (execQuant f s) := by
  unfold Machine.execQuant
  refine .ite (.next h.retire) (.ite (.next (h.illop _ _ _)) (.next (finishArith (ite ?_ ?_) _ _)))
  · split
    · exact (h.latchClk _ _).slabWrite _ _ _ _ _
    · exact (h.latchClk _ _).writeBack _ _ _ _ _ _
  · refine modGang ?_ _ _
    split
    · exact (h.latchClk _ _).slabWrite _ _ _ _ _
    · exact (h.latchClk _ _).writeBack _ _ _ _ _ _

theorem execBexp (h : MemoryForm s) (f) : OutForm (execBexp f s) :=
  .next (ite h.retire ((h.writeBack _ _ _ _ _ _).latchClk _ _).retire)

theorem execSamax (h : MemoryForm s) (f) : OutForm (execSamax f s) := by
  unfold Machine.execSamax
  refine .ite (.next h.retire) (.ite (.next (h.illop _ _ _)) ?_)
  split
  · rename_i e
    exact .next ((of_pair e (h.meetSlab _ _)).slabFault _)
  · rename_i e
    exact .next ((of_pair e (h.meetSlab _ _)).slabResult _ _ _ _).retire

theorem execSwb (h : MemoryForm s) (f) : OutForm (execSwb f s) := by
  unfold Machine.execSwb
  refine h.cmdBundle _ _ _ _ (fun _ _ _ _ h => (h.takeSlot _ _ _ (fun _ _ h => ?_)))
  split
  · rename_i e
    exact (of_pair e (h.meetSlab _ _)).failCopy _ _ _ _ _
  · rename_i e
    exact of_pair e (h.meetSlab _ _)

/-! ### The operations of `Bag` -/

theorem setBag (h : MemoryForm s) (b x) : MemoryForm (s.setBag b x) := h.others

theorem modBag (h : MemoryForm s) (b f) : MemoryForm (s.modBag b f) := h.setBag _ _

theorem bindBag (h : MemoryForm s) (b ent desc) : MemoryForm (s.bindBag b ent desc) := ite h (h.setBag _ _)

theorem readBag (h : MemoryForm s) (gid handle) : MemoryForm (s.readBag gid handle) := by
  unfold State.readBag
  dsimp only
  split
  · exact ite (h.readTable _ _) h
  · exact h

theorem useBag (h : MemoryForm s) (gid handle b) : MemoryForm (s.useBag gid handle b).2 :=
  (h.readBag _ _).bindBag _ _ _

theorem setBagOp (h : MemoryForm s) (id x) : MemoryForm (s.setBagOp id x) := h.others

theorem modBagOp (h : MemoryForm s) (id f) : MemoryForm (s.modBagOp id f) := h.setBagOp _ _

theorem startBagOp (h : MemoryForm s) (i e x) : MemoryForm (s.startBagOp i e x).2 := by
  unfold State.startBagOp
  dsimp only
  exact (h.fresh.setBagOp _ _).modGang _ _

theorem endBagOp (h : MemoryForm s) (id x) : MemoryForm (s.endBagOp id x) := (h.modGang _ _).others

theorem putResult (h : MemoryForm s) (r status dk) : MemoryForm (s.putResult r status dk) :=
  ite ((h.modGang _ _).setBagOp _ _) (ite (((h.modGang _ _).others.modGang _ _).takeTrap _ _ _ _ _ _ _)
      ((h.modGang _ _).others.modGang _ _))

theorem bagTrap (h : MemoryForm s) (sub e) : MemoryForm (s.bagTrap sub e) := h.takeTrap _ _ _ _ _ _ _

theorem putBundle (h : MemoryForm s) (i ranked kind n pd score) :
    OutForm (putBundle i ranked kind n pd score s) := by
  unfold Machine.putBundle
  exact h.cmdBundle _ _ _ _ (fun _ _ _ _ h => .ite (.next ((h.useBag _ _ _).illop _ _ _))
      (.ite (.next ((h.useBag _ _ _).bagTrap _ _)) (.next (((h.useBag _ _ _).startBagOp _ _ _).foldl
      (fun _ _ h => h.fresh.modBag _ _) _).retire)))

theorem execBput (h : MemoryForm s) (f) : OutForm (execBput f s) := h.putBundle _ _ _ _ _ _

theorem execBputk (h : MemoryForm s) (f) : OutForm (execBputk f s) := h.putBundle _ _ _ _ _ _

theorem execBputv (h : MemoryForm s) (f) : OutForm (execBputv f s) := h.putBundle _ _ _ _ _ _

theorem settleBundle (h : MemoryForm s) (i squash) : OutForm (Machine.settle i squash s) := by
  unfold Machine.settle
  dsimp only
  exact h.cmdBundle _ _ _ _ (fun _ _ _ _ h => .ite (.next (h.others.hold _ _ _ _))
      (.next (((h.useBag _ _ _).startBagOp _ _ _).retire)))

theorem execBcommit (h : MemoryForm s) (f) : OutForm (execBcommit f s) := h.settleBundle _ _

theorem execBsquash (h : MemoryForm s) (f) : OutForm (execBsquash f s) := h.settleBundle _ _

theorem askHome (h : MemoryForm s) (i n kind) : OutForm (askHome i n kind s) := by
  unfold Machine.askHome
  exact h.cmdBundle _ _ _ _ (fun _ _ _ _ h => .next (((h.useBag _ _ _).startBagOp _ _ _).fresh.modBag _ _).retire)

theorem execBcount (h : MemoryForm s) (f) : OutForm (execBcount f s) := h.askHome _ _ _

theorem execBstat (h : MemoryForm s) (f) : OutForm (execBstat f s) := h.askHome _ _ _

theorem newCursorVal (h : MemoryForm s) (block) : MemoryForm (s.newCursorVal block).2 := by
  unfold State.newCursorVal
  dsimp only
  exact h.undef _ _

theorem execBdrain (h : MemoryForm s) (f) : OutForm (execBdrain f s) := by
  unfold Machine.execBdrain
  exact h.cmdBundle _ _ _ _ (fun _ _ _ _ h => .ite (.next (h.bagTrap _ _))
      (.next (ite ((((h.useBag _ _ _).newCursorVal _).fresh.others.startBagOp _ _ _).endBagOp _ _)
      (((h.useBag _ _ _).newCursorVal _).fresh.others.startBagOp _ _ _)).retire))

theorem execBnext (h : MemoryForm s) (f) : OutForm (execBnext f s) := by
  unfold Machine.execBnext
  refine h.cmdBundle _ _ _ _ (fun _ _ _ _ h => ?_)
  split
  · exact .next h.retire
  · exact .next (h.startBagOp _ _ _).retire

theorem closeCursor (h : MemoryForm s) (cid) : MemoryForm (s.closeCursor cid) := h.others

theorem execBclose (h : MemoryForm s) (f) : OutForm (execBclose f s) := by
  unfold Machine.execBclose
  refine h.cmdBundle _ _ _ _ (fun _ _ _ _ h => ?_)
  split
  · exact .next h.retire
  · exact .next (h.closeCursor _).retire

/-! ### The operations of `Fabric` -/

theorem inject (h : MemoryForm s) (port) : MemoryForm (s.inject port) := by
  unfold State.inject
  split
  · exact h
  · exact ite (h.setPost _ _) h

theorem sendPost (h : MemoryForm s) (p) : MemoryForm (s.sendPost p) := by
  unfold State.sendPost
  refine ite (((h.fresh.setPost _ _).readTable _ _).failPost _ _ _ _) ?_
  split
  · exact h.fresh.setPost _ _
  · exact (h.fresh.setPost _ _).inject _

theorem sendLanes (h : MemoryForm s) (gid ls) : MemoryForm (s.sendLanes gid ls).2 := by
  induction ls generalizing s with
  | nil => exact h
  | cons l rest ih => exact ite_snd h (ih ((h.fresh.modGang _ _).foldl (fun _ _ h => h.sendPost _) _))

theorem sendPosts (h : MemoryForm s) (i ps) : MemoryForm (s.sendPosts i ps) := by
  unfold State.sendPosts
  split
  · rename_i e
    exact of_pair e (h.sendLanes _ _)
  · rename_i e
    exact ((of_pair e (h.sendLanes _ _)).others.hold _ _ _ _).others

theorem postBundle (h : MemoryForm s) (i bcast) : OutForm (postBundle i bcast s) :=
  .ite (.next h.retire) (.ite (.next (h.sendPosts _ _).retire)
      (.ite (.next ((h.hold _ _ _ _).latchClk _ _)) (.ite (.next (h.illop _ _ _))
      (h.memBundle _ _ _ _ _ (fun _ _ _ _ h => (h.readHandles _ _).others.sendPosts _ _)))))

theorem execXpost (h : MemoryForm s) (f) : OutForm (execXpost f s) := h.postBundle _ _

theorem execXbcast (h : MemoryForm s) (f) : OutForm (execXbcast f s) := h.postBundle _ _

theorem execXfence (h : MemoryForm s) (f) : OutForm (execXfence f s) :=
  .ite (.next h.retire) (.ite (.next ((h.hold _ _ _ _).latchClk _ _)) (.next (h.latchClk _ _).retire))

theorem execEgressArbitration (h : MemoryForm s) (port idx) : OutForm (execEgressArbitration port idx s) := by
  unfold Machine.execEgressArbitration
  dsimp only
  split
  · exact .next h
  · exact .ite (.next h) (.ite (.next ((h.failPost _ _ _ _).inject _))
      (.next ((ite ((ite h.fresh.others h.fresh).setPost _ _).others
      ((ite h.fresh.others h.fresh).setPost _ _)).inject _)))

theorem execPacketAgeSaturation (h : MemoryForm s) (pkt) : OutForm (execPacketAgeSaturation pkt s) := by
  unfold Machine.execPacketAgeSaturation
  refine .next ?_
  split
  · exact ite (h.setPost _ _) h
  · exact h

theorem rootOrder (h : MemoryForm s) (p) : MemoryForm (s.rootOrder p) := ite h.fresh.others h

theorem execPostDelivery (h : MemoryForm s) (pkt unit) : OutForm (execPostDelivery pkt unit s) := by
  unfold Machine.execPostDelivery
  dsimp only
  refine .next ?_
  split
  · exact h
  · refine ite h ?_
    split
    · exact h.failPost _ _ _ _
    · refine ite (ite h (ite (h.failPost _ _ _ _) (ite h (ite ((h.choose _).setPost _ _)
        ((h.choose _).failPost _ _ _ _))))) ?_
      split
      · exact ite h (((h.rootOrder _).setPost _ _).others.serve _ _)
      · split
        · exact ite h ((h.setPost _ _).others.serve _ _)
        · exact h

theorem execPostAck (h : MemoryForm s) (pkt) : OutForm (execPostAck pkt s) := by
  unfold Machine.execPostAck
  refine .next ?_
  split
  · exact ite (h.dropPost _) h
  · exact h

theorem killLaunch (h : MemoryForm s) (l) : MemoryForm (s.killLaunch l) := by
  unfold State.killLaunch
  exact (h.foldl (fun _ _ h => ite ((h.killBlock _).endBlock _) h) _).modLaunch _ _

theorem execFlitUncorr (h : MemoryForm s) (pkt) : OutForm (execFlitUncorr pkt s) := by
  unfold Machine.execFlitUncorr
  refine .next ?_
  split
  · exact ite ((h.failPost _ _ _ _).killLaunch _) h
  · exact h

theorem execCorruptHeader (h : MemoryForm s) (pkt) : OutForm (execCorruptHeader pkt s) := by
  unfold Machine.execCorruptHeader
  refine .next ?_
  split
  · exact h
  · exact ((h.foldl (fun _ _ h => h.failPost _ _ _ _) _).foldl (fun _ _ h => h.killLaunch _) _).others

theorem execClusterReset (h : MemoryForm s) (cluster) : OutForm (execClusterReset cluster s) := by
  unfold Machine.execClusterReset
  dsimp only
  refine .next ?_
  split
  · exact (h.choose _).setPost _ _
  · exact h.choose _

theorem execPostanLinkDown (h : MemoryForm s) (port) : OutForm (execPostanLinkDown port s) := .next h.others

theorem execPostanLinkUp (h : MemoryForm s) (port) : OutForm (execPostanLinkUp port s) := .next h.others

theorem execReservationBudgetRefill (h : MemoryForm s) : OutForm (execReservationBudgetRefill s) := .next h.others

/-! ### The operations of `Traps` -/

theorem retry (h : MemoryForm s) (gid r) : MemoryForm (s.retry gid r) := ite (h.modGang _ _) (h.modGang _ _)

theorem deliver (h : MemoryForm s) (gid r) : MemoryForm (s.deliver gid r) := (h.setGang _ _).takeTrap _ _ _ _ _ _ _

theorem applyAck (h : MemoryForm s) (core seq disp) : MemoryForm (s.applyAck core seq disp) := by
  unfold State.applyAck
  split
  · exact h
  · split
    · exact h.retry _ _
    · exact h.deliver _ _
    · exact h.killBlock _

theorem drainAcks (h : MemoryForm s) (gid n) : MemoryForm (s.drainAcks gid n) := by
  induction n generalizing s with
  | zero => exact h
  | succ n ih =>
    unfold State.drainAcks
    dsimp only
    split
    · exact h
    · exact .ite h (ih ((h.setGang _ _).applyAck _ _ _))

theorem ack (h : MemoryForm s) (core seq disp) : MemoryForm (s.ack core seq disp) := by
  unfold State.ack
  refine ite h ?_
  split
  · exact h
  · exact ite (h.setGang _ _) (h.applyAck _ _ _)

theorem execFaultAckRetry (h : MemoryForm s) (core seq) : OutForm (execFaultAckRetry core seq s) :=
  .next (h.ack _ _ _)

theorem execFaultAckDeliver (h : MemoryForm s) (core seq) : OutForm (execFaultAckDeliver core seq s) :=
  .next (h.ack _ _ _)

theorem execFaultAckKill (h : MemoryForm s) (core seq) : OutForm (execFaultAckKill core seq s) :=
  .next (h.ack _ _ _)

theorem execMemoryFaultPark (h : MemoryForm s) (gid) : OutForm (execMemoryFaultPark gid s) := by
  unfold Machine.execMemoryFaultPark
  refine .next ?_
  split
  · exact h
  · exact ite h ((h.post _ _).modGang _ _)

theorem execDbgResume (h : MemoryForm s) (core seq) : OutForm (execDbgResume core seq s) := .next (ite h h.others)

theorem fileWaiting (h : MemoryForm s) (core) : MemoryForm (s.fileWaiting core) := by
  unfold State.fileWaiting
  refine h.foldl (fun s x h => ?_) _
  split
  · rename_i e
    exact (h.fileThread _ _ _ _ _ e).lastGone _
  · exact h

theorem retestWaddr (h : MemoryForm s) (gid) : MemoryForm (s.retestWaddr gid) := by
  unfold State.retestWaddr
  refine h.foldl (fun s x h => ?_) _
  split
  · exact ite ((h.modGang _ _).observeRecord _ _ _) h
  · exact h

theorem execTret (h : MemoryForm s) (f) : OutForm (execTret f s) :=
  .ite (.next h.retire) (.ite (.next (h.illop _ _ _)) (.next
      ((((h.trapReturn _).retestWaddr _).fileWaiting _).drainAcks _ _)))

/-! ### The operations of `Progress` -/

theorem execMaskArrival (h : MemoryForm s) (gid lane) : OutForm (execMaskArrival gid lane s) := by
  unfold Machine.execMaskArrival
  refine .next ?_
  split
  · exact h.modGang _ _
  · exact h

theorem execBarrierArrival (h : MemoryForm s) (gid lane bar) : OutForm (execBarrierArrival gid lane bar s) := by
  unfold Machine.execBarrierArrival
  refine .next ?_
  split
  · exact (h.modGang _ _).barCount _ _ _ _ _
  · exact h

theorem execNamedBarrierArrival (h : MemoryForm s) (gid name) : OutForm (execNamedBarrierArrival gid name s) := by
  unfold Machine.execNamedBarrierArrival
  refine .next ?_
  split
  · exact h
  · split
    · exact (h.modGang _ _).namedArrive _ _
    · exact h

theorem execTwaitExpiry (h : MemoryForm s) (gid lane) : OutForm (execTwaitExpiry gid lane s) := by
  unfold Machine.execTwaitExpiry
  refine .next ?_
  split
  · exact ite h (ite ((h.setGang _ _).acquire _) (h.setGang _ _))
  · exact h

theorem execWaddrReread (h : MemoryForm s) (gid lane) : OutForm (execWaddrReread gid lane s) := by
  unfold Machine.execWaddrReread
  refine .next ?_
  split
  · exact h
  · exact (h.modGang _ _).readAgain _ _

theorem execLoadPerform (h : MemoryForm s) (gid id) : OutForm (execLoadPerform gid id s) := by
  unfold Machine.execLoadPerform
  refine .next ?_
  split
  · exact h
  · exact ite h (h.setGang _ _)

theorem execStoreAck (h : MemoryForm s) (gid) : OutForm (execStoreAck gid s) := .next (ite h (h.modGang _ _))

/-! ### The operations of `Resource` -/

theorem queueClear (h : MemoryForm s) (core a) : MemoryForm (s.queueClear core a) := by
  unfold State.queueClear
  exact (h.modBlock _ (by rfl)).modCore _ (by rfl)

theorem grant (h : MemoryForm s) (core a start) : MemoryForm (s.grant core a start) :=
  ((h.modCore _ (by rfl)).modGang _ _).queueClear _ _

theorem execAllocatorGrant (h : MemoryForm s) (core) : OutForm (execAllocatorGrant core s) := by
  unfold Machine.execAllocatorGrant
  refine .next ?_
  split
  · exact h
  · split
    · exact h
    · exact (h.modCore _ (by rfl)).grant _ _ _

theorem execCompactorMove (h : MemoryForm s) (core start target) :
    OutForm (execCompactorMove core start target s) := by
  unfold Machine.execCompactorMove
  dsimp only
  refine .next ?_
  split
  · exact ite (((h.choose _).modCore _ (by rfl)).modGang _ _) h
  · exact h

theorem cleared (h : MemoryForm s) (c) : MemoryForm (s.cleared c) := by
  unfold State.cleared
  split
  · exact h.modBlock _ (by rfl)
  · exact h.modGang _ _
  · exact h.modGang _ _

theorem execClearEngineGranule (h : MemoryForm s) (core) : OutForm (execClearEngineGranule core s) := by
  unfold Machine.execClearEngineGranule
  refine .next ?_
  split
  · exact h
  · exact ite h (ite (h.modCore _ (by rfl)) ((h.modCore _ (by rfl)).cleared _))

theorem execSifterAgeCapExpiry (h : MemoryForm s) (core bin) : OutForm (execSifterAgeCapExpiry core bin s) := by
  unfold Machine.execSifterAgeCapExpiry
  refine .next ?_
  split
  · exact h
  · exact ite (h.modCore _ (by rfl)) h

theorem undefFrom (h : MemoryForm s) (asid lo n m) : MemoryForm (s.undefFrom asid lo n m).2 := by
  induction n generalizing s lo m with
  | zero => exact h
  | succ n ih => exact ih (h.undef _ 32) _ _

theorem newThreads (h : MemoryForm s) (asid f) : MemoryForm (s.newThreads asid f).2 :=
  h.foldl_snd (fun _ _ h => by exact h.undef _ 32) _

theorem newShadow (h : MemoryForm s) (asid stack) : MemoryForm (s.newShadow asid stack).2 :=
  h.foldl_snd (fun _ _ h => by exact h.undef _ 17) _

theorem execSifterBinDraw (h : MemoryForm s) (core bin) : OutForm (execSifterBinDraw core bin s) := by
  unfold Machine.execSifterBinDraw
  dsimp only
  refine .next ?_
  split
  · exact h
  · refine ite h (fileWaiting (acquire ?_ _) _)
    split
    · exact ((((((((h.choose _).newThreads _ _).newShadow _ _).undefFrom _ _ _ _).undefFrom _ _ _ _).fresh.setGang _ _).modBlock _ (by rfl)).modCore _ (by rfl)).grant _ _ _
    · exact (((((((h.choose _).newThreads _ _).newShadow _ _).undefFrom _ _ _ _).undefFrom _ _ _ _).fresh.setGang _ _).modBlock _ (by rfl)).modCore _ (by rfl)

theorem execGangEnd (h : MemoryForm s) (gid) : OutForm (execGangEnd gid s) :=
  .next
      (ite h
      (((((((h.foldl
      (fun _ _ h => h.detach _ _ _) _).clearLast _).modCore _ (by rfl)).others.modGang _ _).modBlock _ (by rfl)).endBlock _).allocDeadlock _))

/-! ### The operations of `Slice` -/

theorem cacheIn (h : MemoryForm s) (l cap x) : MemoryForm (s.cacheIn l cap x).2 := by
  unfold State.cacheIn
  dsimp only
  exact ite_snd h (pair (h.choose _))

theorem cacheXlat (h : MemoryForm s) (core x) : MemoryForm (s.cacheXlat core x) :=
  (((h.cacheIn _ _ _).modCore _ (by rfl)).cacheIn _ _ _).others

theorem pageAbsent (h : MemoryForm s) (core asid page) : MemoryForm (s.pageAbsent core asid page) := h.others

theorem execTranslationWalk (h : MemoryForm s) (core asid space va) :
    OutForm (execTranslationWalk core asid space va s) := by
  unfold Machine.execTranslationWalk
  dsimp only
  refine .next (ite h ?_)
  split
  · exact ((h.readWalk _ _ _ _).cacheXlat _ _).setGrade _ _ _
  · exact (h.readWalk _ _ _ _).pageAbsent _ _ _

theorem execSliceRequest (h : MemoryForm s) (slice src) : OutForm (execSliceRequest slice src s) := by
  refine .next ?_
  split
  · rename_i e
    exact (h.takeReq _ e).serve _ _
  · exact h

theorem execTileEviction (h : MemoryForm s) (tile) : OutForm (execTileEviction tile s) := .next (h.evict _)

theorem failArrival (h : MemoryForm s) (tile) : MemoryForm (s.failArrival tile) := by
  unfold State.failArrival
  refine ite ?_ (((h.setTile _ _ (by exact h.tile _)).postRas _ _ _).foldl (fun _ _ h => h.serve _ _) _)
  split
  · exact h.setTile _ _ (by exact h.tile _)
  · exact ((h.setTile _ _ (by exact h.tile _)).failReq _ _).foldl (fun _ _ h => h.serve _ _) _

theorem settle (h : MemoryForm s) (tile) : MemoryForm (s.settle tile) :=
  foldl (h.setTile _ _ (by exact foldl_applyCrumb_wf _ _ (s.tileMem_wf _ h.hbm)))
      (fun _ _ h => .ite (h.failReq _ _) (h.perform _)) _

theorem execTileArrival (h : MemoryForm s) (tile) : OutForm (execTileArrival tile s) :=
  .next (ite h (ite (h.takeFrame _) (ite h (ite (ite (h.failArrival _) ((h.modTile _ (by rfl)).reclaimLog _))
      (h.settle _)))))

theorem execHotTilePromotion (h : MemoryForm s) (tile) : OutForm (execHotTilePromotion tile s) :=
  .next (ite (((h.hotSettle _).arrive _ _ _ _).countMg _) (h.hotSettle _))

theorem execHotTileDecay (h : MemoryForm s) (slice) : OutForm (execHotTileDecay slice s) := .next (h.hotSettle _)

theorem execPhaseCacheEviction (h : MemoryForm s) (core line) : OutForm (execPhaseCacheEviction core line s) := by
  unfold Machine.execPhaseCacheEviction
  dsimp only
  refine .next ?_
  split
  · exact h.choose _
  · exact ite (h.choose _) ((h.choose _).dropCopy _ _ _)

theorem execHbmRequest (h : MemoryForm s) (chan idx) : OutForm (execHbmRequest chan idx s) := by
  unfold Machine.execHbmRequest
  dsimp only
  refine .next ?_
  split
  · exact h
  · split
    · rename_i e
      exact of_pair e (h.gate _ _ _ _)
    · rename_i e
      have ht := of_pair e (h.gate _ _ _ _)
      exact ite ((ht.readLines _ _ _).others.modTile _ (by rfl)) (ht.readLines _ _ _).others

theorem execScrubLine (h : MemoryForm s) (line) : OutForm (execScrubLine line s) :=
  .next (ite h (ite ((h.meetLine _).postRas _ _ _) (h.meetLine _)))

theorem runEvicts (h : MemoryForm s) (page n) : MemoryForm (s.runEvicts page n) := by
  induction n generalizing s with
  | zero => exact h
  | succ n ih =>
    unfold State.runEvicts
    split
    · split
      · rename_i t e
        exact ih (of_pair e (h.evict _))
      · rename_i t e
        exact of_pair e (h.evict _)
    · exact h

theorem execPageReencrypt (h : MemoryForm s) (page) : OutForm (execPageReencrypt page s) :=
  .next (ite h (((h.reencrypt _).modPage _ _).runEvicts _ _))

theorem execFabricPortAccess (h : MemoryForm s) (src) : OutForm (execFabricPortAccess src s) := by
  unfold Machine.execFabricPortAccess
  dsimp only
  refine .next ?_
  split
  · exact (h.choose _).others.perform _
  · exact h.choose _

/-! ### The operations of `Engine` -/

theorem awaitTile (h : MemoryForm s) (key c x p) : MemoryForm (s.awaitTile key c x p) := by
  unfold State.awaitTile
  split
  · exact ite (ite h (h.setTile _ _ (by exact h.tile _))) (h.arrive _ _ _ _)
  · exact h

theorem learn (h : MemoryForm s) (core queue asid e off) : MemoryForm (s.learn core queue asid e off) :=
  ite h (h.readPage _ _ _ _)

theorem gates (h : MemoryForm s) (l key write tok) : MemoryForm (s.gates l key write tok).2 :=
  ite_snd (h.foldl (fun _ _ h => ite (h.gate _ _ _ _) h) _) (h.foldl (fun _ _ h => h.gate _ _ _ _) _)

theorem readPieces (h : MemoryForm s) (c ps) : MemoryForm (s.readPieces c ps).2 := by
  refine h.foldl_snd (fun b p hb => ?_) _
  split
  · dsimp only
    split
    · split
      · exact pair (hb.readLines _ _ _)
      · exact pair ((MemoryForm.ite (hb.readLines _ _ _) ((hb.readLines _ _ _).meetWords _ _ _)).readPath _ _ _ _ _)
    · exact ite_snd hb (pair ((MemoryForm.ite hb (hb.meetWords _ _ _)).readPath _ _ _ _ _))
  · exact hb

theorem writePieces (h : MemoryForm s) (core c ps x) : MemoryForm (s.writePieces core c ps x) := by
  unfold State.writePieces
  refine h.foldl (fun s x h => ?_) _
  split
  · exact (ite (h.dropLine _ _) h).write _ _ _ _ _ _ _ _
  · exact h

theorem blur (h : MemoryForm s) (asid p n x) : MemoryForm (s.blur asid p n x).2 :=
  h.foldl_snd (fun _ _ h => by exact ite_snd (h.undef _ 8) h) _

theorem moved (h : MemoryForm s) (key chunk) : MemoryForm (s.moved key chunk) := h.setCopy _ _

theorem amaxChunk (h : MemoryForm s) (core key chunk c sort x v) :
    MemoryForm (s.amaxChunk core key chunk c sort x v) := by
  unfold State.amaxChunk
  dsimp only
  split
  · exact h.failCopy _ _ _ _ _
  · exact h.awaitTile _ _ _ _
  · exact (((h.meetWords _ _ _).dropLine _ _).write _ _ _ _ _ _ _ _).moved _ _

theorem rowChunk (h : MemoryForm s) (core key chunk c) : MemoryForm (s.rowChunk core key chunk c) := by
  unfold State.rowChunk
  dsimp only
  split
  · split
    · exact h.failCopy _ _ _ _ _
    · exact h
  · split
    · exact h.failCopy _ _ _ _ _
    · exact h
  · refine ite ((h.foldl (fun _ _ h => h.awaitTile _ _ _ _) _).foldl (fun _ _ h => h.awaitTile _ _ _ _) _)
      (ite h ?_)
    split
    · rename_i e
      exact of_pair e (h.gates _ _ _ _)
    · rename_i e
      have ht := of_pair e (h.gates _ _ _ _)
      split
      · rename_i e
        exact of_pair e (ht.gates _ _ _ _)
      · rename_i e
        have ht := of_pair e (ht.gates _ _ _ _)
        split
        · rename_i e
          exact (of_pair e (ite_snd (ht.foldl (fun _ _ h => h.chanTake _ _ _) _)
              ((ht.foldl (fun _ _ h => h.chanTake _ _ _) _).readPieces _ _))).failCopy _ _ _ _ _
        · rename_i e
          have ht := of_pair e (ite_snd (ht.foldl (fun _ _ h => h.chanTake _ _ _) _)
              ((ht.foldl (fun _ _ h => h.chanTake _ _ _) _).readPieces _ _))
          exact (ite ((ht.blur _ _ _ _).modSlab _ _ _) ((ht.blur _ _ _ _).writePieces _ _ _ _)).moved _ _

theorem execCopyChunk (h : MemoryForm s) (core id chunk) : OutForm (execCopyChunk core id chunk s) := by
  unfold Machine.execCopyChunk
  dsimp only
  split
  · exact .next h
  · refine .ite (.next h) (.ite ?_ (.ite (.next (h.setCopy _ _))
      (.ite (.fault _) (.next ((ite ((ite ((h.setCopy _ _).foldl (fun _ _ h => h.learn _ _ _ _ _) _)
      (h.setCopy _ _)).foldl (fun _ _ h => h.learn _ _ _ _ _) _)
      (ite ((h.setCopy _ _).foldl (fun _ _ h => h.learn _ _ _ _ _) _) (h.setCopy _ _))).rowChunk _ _ _ _)))))
    split
    · exact .ite (.next (h.setCopy _ _)) (.ite (.fault _) (.next
        ((ite ((h.setCopy _ _).foldl (fun _ _ h => h.learn _ _ _ _ _) _) (h.setCopy _ _)).amaxChunk _ _ _ _ _ _ _)))
    · exact .next (h.setCopy _ _)

theorem undefSlab (h : MemoryForm s) (asid x) : MemoryForm (s.undefSlab asid x).2 := h.others

theorem blurSlab (h : MemoryForm s) (b k) : MemoryForm (s.blurSlab b k) := by
  unfold State.blurSlab
  dsimp only
  exact (h.undefSlab _ _).modSlab _ _ _

theorem execCopyComplete (h : MemoryForm s) (core id) : OutForm (execCopyComplete core id s) := by
  unfold Machine.execCopyComplete
  refine .next ?_
  split
  · exact h
  · exact ite h (((((ite ((h.setCopy _ _).modGang _ _) (ite (((h.setCopy _ _).modGang _ _).blurSlab _ _)
      (((h.setCopy _ _).modGang _ _).modSlab _ _ _))).writeRecord _ _).modCore _ (by rfl)).retireBatches _ _).settleArmed _)

theorem refill (h : MemoryForm s) (core) : MemoryForm (s.refill core) := by
  unfold State.refill
  dsimp only
  split
  · exact ite (h.setCore _ _ (by exact h.core _)) h
  · exact h

theorem execMmaHandover (h : MemoryForm s) (core idx) : OutForm (execMmaHandover core idx s) := by
  unfold Machine.execMmaHandover
  refine .next ?_
  split
  · exact h
  · exact ite h (((h.modCore _ (by rfl)).refill _).slabWritten _)

theorem meetOperands (h : MemoryForm s) (m) : MemoryForm (s.meetOperands m).2 :=
  h.foldl_snd (fun _ _ h => by exact h.meetSlab _ _) _

theorem execMmaAccept (h : MemoryForm s) (core) : OutForm (execMmaAccept core s) := by
  unfold Machine.execMmaAccept
  refine .next ?_
  split
  · refine ite ((h.modCore _ (by rfl)).refill _) ?_
    split
    · rename_i e
      exact (of_pair e (((h.modCore _ (by rfl)).refill _).meetOperands _)).modCore _ (by rfl)
    · rename_i e
      exact (((of_pair e
          (((h.modCore _ (by rfl)).refill _).meetOperands _)).blurSlab _ _).modGang _ _).longop _ _ _ _ _ _ _ _
  · exact h

theorem execMmaComplete (h : MemoryForm s) (core) : OutForm (execMmaComplete core s) := by
  unfold Machine.execMmaComplete
  refine .next ?_
  split
  · exact h
  · exact ite (h.modCore _ (by rfl)) (((h.modCore _ (by rfl)).modSlab _ _ _).modGang _ _)

/-! ### The operations of `BagHome` -/

theorem homeServe (h : MemoryForm s) (b r) : MemoryForm (s.homeServe b r) := by
  unfold State.homeServe
  split
  · exact h.endBagOp _ _
  · exact h.endBagOp _ _
  · exact ite (h.setBag _ _) (h.putResult _ _ _)
  · exact ite (h.setBag _ _) (h.putResult _ _ _)
  · refine ite (h.putResult _ _ _) (ite (h.setBag _ _) ?_)
    split
    · exact ite (h.setBag _ _) (h.putResult _ _ _)
    · exact h.putResult _ _ _

theorem execBagAdmit (h : MemoryForm s) (bag src) : OutForm (execBagAdmit bag src s) := by
  unfold Machine.execBagAdmit
  refine .next ?_
  split
  · exact h
  · exact ite h ((h.setBag _ _).homeServe _ _)

theorem execBagPlace (h : MemoryForm s) (bag put stack bank) : OutForm (execBagPlace bag put stack bank s) := by
  unfold Machine.execBagPlace
  dsimp only
  split
  · exact .next h
  · refine .ite (.next h) (.ite (.next (h.choose _)) ?_)
    split
    · exact .next (((((h.choose _).readPage _ _ _ _).setBag _ _).postFault _ _ _ _ _ _ _ _).putResult _ _ _)
    · refine .ite (.fault _)
        (.ite (.next (((((h.choose _).readPage _ _ _ _).setBag _ _).postFault _ _ _ _ _ _ _ _).putResult _ _ _))
        (.ite (.next ((h.choose _).readPage _ _ _ _)) ?_))
      split
      · rename_i e
        exact .next (of_pair e (((h.choose _).readPage _ _ _ _).gates _ _ _ _))
      · rename_i e
        exact .next
            ((((((of_pair e
            (((h.choose _).readPage _ _ _ _).gates _ _ _ _)).chanTake _ _ _).fresh.setBag _ _).touchLines _ _ _).sliceWatch _ _ _ _).putResult _ _ _)
    · exact .next (((((h.choose _).readPage _ _ _ _).setBag _ _).postFault _ _ _ _ _ _ _ _).putResult _ _ _)

theorem finishBagOp (h : MemoryForm s) (id) : MemoryForm (s.finishBagOp id) := by
  unfold State.finishBagOp
  split
  · exact h
  · exact ite (h.endBagOp _ _) h

theorem execBagSettle (h : MemoryForm s) (bag op steward) : OutForm (execBagSettle bag op steward s) := by
  unfold Machine.execBagSettle
  refine .next ?_
  split
  · exact h
  · exact ite h (((h.setBag _ _).setBagOp _ _).finishBagOp _)

theorem execBagCut (h : MemoryForm s) (bag cursor bank) : OutForm (execBagCut bag cursor bank s) := by
  unfold Machine.execBagCut
  refine .next ?_
  split
  · exact h
  · split
    · exact h
    · exact ite ((h.others.setBagOp _ _).endBagOp _ _) (h.others.setBagOp _ _)

theorem execBagFree (h : MemoryForm s) (bag idx) : OutForm (execBagFree bag idx s) := by
  unfold Machine.execBagFree
  refine .next ?_
  split
  · exact h
  · exact (h.setBag _ _).finishBagOp _

theorem finishBanks (h : MemoryForm s) (cid all) : MemoryForm (s.finishBanks cid all) := by
  unfold State.finishBanks
  dsimp only
  exact ite h (h.foldl (fun _ _ h => ite (h.choose _).others (h.choose _)) _)

theorem endClaims (h : MemoryForm s) (id) : MemoryForm (s.endClaims id) := by
  unfold State.endClaims
  dsimp only
  have hf := h.finishBanks (s.bagOp id).cursor (s.bagOp id).batch.isEmpty
  exact .ite (((MemoryForm.ite hf hf.others).setBagOp _ _).finishBagOp _)
      ((hf.foldl_snd (fun _ _ h => by exact pair (h.send _)) _).setBagOp _ _)

theorem freeBatch (h : MemoryForm s) (id) : MemoryForm (s.freeBatch id) :=
  ((h.modBag _ _).setBagOp _ _).finishBagOp _

theorem dropClaims (h : MemoryForm s) (id) : MemoryForm (s.dropClaims id) := ((h.modBag _ _).modGang _ _).others

theorem abandonClaims (h : MemoryForm s) (id off) : MemoryForm (s.abandonClaims id off) :=
  (h.dropClaims _).longop _ _ _ _ _ _ _ _

theorem loseRec (h : MemoryForm s) (id r) : MemoryForm (s.loseRec id r) := (h.modBag _ _).postFault _ _ _ _ _ _ _ _

theorem claim (h : MemoryForm s) (op r) : MemoryForm (s.claim op r) := by
  unfold State.claim
  dsimp only
  refine ite h ?_
  split
  · refine ite (h.readPage _ _ _ _) ?_
    split
    · rename_i e
      exact of_pair e ((h.readPage _ _ _ _).gates _ _ _ _)
    · rename_i e
      have ht := of_pair e ((h.readPage _ _ _ _).gates _ _ _ _)
      exact ite (((ht.chanTake _ _ _).readLines _ _ _).loseRec _ _)
          (ite (((((ht.chanTake _ _ _).readLines _ _ _).modBag _ _).setBagOp _ _).endClaims _)
          ((((ht.chanTake _ _ _).readLines _ _ _).modBag _ _).setBagOp _ _))
  · exact (h.readPage _ _ _ _).abandonClaims _ _

theorem execBagClaim (h : MemoryForm s) (bag op rec_) : OutForm (execBagClaim bag op rec_ s) := by
  unfold Machine.execBagClaim
  refine .next ?_
  split
  · exact h
  · refine ite h (ite (h.dropClaims _) (ite (ite (h.freeBatch _) h)
      (ite (ite ((h.finishBanks _ _).endClaims _) (h.finishBanks _ _)) ?_)))
    split
    · exact h.finishBanks _ _
    · exact (h.finishBanks _ _).claim _ _

/-! ### The operations of `Queue` -/

theorem attempt (h : MemoryForm s) {f : State → State} (hf : ∀ s, MemoryForm s → MemoryForm (f s)) :
    MemoryForm (s.attempt f) :=
  .ite h (hf _ h.others).others

theorem settleTile (h : MemoryForm s) (tile key) : MemoryForm (s.settleTile tile key).2 := by
  unfold State.settleTile
  dsimp only
  refine ite_snd h ?_
  split
  · rename_i t e
    exact others (of_pair e (ite_snd h (h.makeRoom _)))
  · rename_i t e
    have ht := of_pair e (ite_snd h (h.makeRoom _))
    have hr := ht.readLines (tile * 4096) 4096 key
    exact ite_snd ht.others (ite_snd (.ite hr.others (.ite (hr.others.failArrival _) hr.others.others))
        (pair ((hr.others.setTile _ _ (by exact h.tile _)).settle _)))

theorem reclaimNow (h : MemoryForm s) (slice n) : MemoryForm (s.reclaimNow slice n) := by
  induction n generalizing s with
  | zero => exact h
  | succ n ih =>
    unfold State.reclaimNow
    refine .ite h (.ite h.others ?_)
    split
    · exact h.others
    · split
      · rename_i t e
        exact ih (of_pair e (h.settleTile _ _))
      · rename_i t e
        have ht := of_pair e (h.settleTile _ _)
        exact .ite ht (ih ((ht.modTile _ (by rfl)).postRas _ _ _))

theorem schedRead (h : MemoryForm s) (l n e) : MemoryForm (s.schedRead l n e).2 := by
  unfold State.schedRead
  dsimp only
  split
  · split
    · exact pair (h.hotCount _ _)
    · split
      · rename_i t e
        exact pair ((of_pair e (h.settleTile _ _)).meetWords _ _ _)
      · rename_i t e
        have ht := of_pair e (h.settleTile _ _)
        split
        · exact ht
        · exact pair (ht.undef _ _)
  · exact h

theorem schedWrite (h : MemoryForm s) (asid idx off e l n x add) :
    MemoryForm (s.schedWrite asid idx off e l n x add) := by
  unfold State.schedWrite
  dsimp only
  split
  · refine ite (h.postFault _ _ _ _ _ _ _ _) (ite (ite (h.reclaimNow _ _) h)
      (ite ((ite (h.reclaimNow _ _) h).append _ _) ?_))
    split
    · rename_i e
      exact (of_pair e ((ite (h.reclaimNow _ _) h).settleTile _ _)).write _ _ _ _ _ _ _ _
    · rename_i e
      have ht := of_pair e ((ite (h.reclaimNow _ _) h).settleTile _ _)
      exact ite ht (ite (ht.append _ _) (ht.postFault _ _ _ _ _ _ _ _))
  · exact h.write _ _ _ _ _ _ _ _

theorem schedLoc (h : MemoryForm s) (asid e off) : MemoryForm (s.schedLoc asid e off).2 :=
  ite_snd h.others (h.readPage _ _ _ _)

theorem tableWrite (h : MemoryForm s) (pa n x) : MemoryForm (s.tableWrite pa n x) :=
  ite h.others (((ite (h.reencrypt _) h).chanTake _ _ _).hbmWrite _ _ _).others

theorem schedWords (h : MemoryForm s) (asid e off n) : MemoryForm (s.schedWords asid e off n).2 := by
  unfold State.schedWords
  refine foldl_snd h (fun b x h => ?_) _
  split
  · rename_i e
    exact of_pair e (h.schedLoc _ _ _)
  · rename_i e
    exact (of_pair e (h.schedLoc _ _ _)).schedRead _ _ _

theorem schedStore (h : MemoryForm s) (asid idx e off n x) : MemoryForm (s.schedStore asid idx e off n x) := by
  unfold State.schedStore
  refine h.foldl (fun s x h => ?_) _
  split
  · rename_i e
    exact of_pair e (h.schedLoc _ _ _)
  · rename_i e
    exact (of_pair e (h.schedLoc _ _ _)).schedWrite _ _ _ _ _ _ _ _

theorem ring (h : MemoryForm s) (q) : MemoryForm (s.ring q) := ite h h.fresh.others

theorem execQueueBell (h : MemoryForm s) (queue) : OutForm (execQueueBell queue s) := .next (ite (h.ring _) h)

theorem execQueueSlotMap (h : MemoryForm s) (queue) : OutForm (execQueueSlotMap queue s) := by
  unfold Machine.execQueueSlotMap
  dsimp only
  refine .next (ite (h.choose _) ?_)
  split
  · exact ((h.choose _).readTable _ _).others
  · exact h.choose _

theorem releaseSlot (h : MemoryForm s) (q) : MemoryForm (s.releaseSlot q) := ite h h.others

theorem addGang (h : MemoryForm s) (b core idx l) : MemoryForm (s.addGang b core idx l) := by
  unfold State.addGang
  dsimp only
  exact ((((h.newThreads _ _).fresh.newShadow _ _).setGang _ _).modBlock _ (by rfl)).modCore _ (by rfl)

theorem startSlice (h : MemoryForm s) (core q) : MemoryForm (s.startSlice core q) := by
  unfold State.startSlice
  exact h.modCore _ (by rfl)

theorem addBlock (h : MemoryForm s) (lid core clu stk idx) : MemoryForm (s.addBlock lid core clu stk idx) := by
  have hc := h.choose (s.memHoles core (s.launch lid).need.mem).length
  have hm := bytesFrom_wf (hc.core core)
  unfold State.addBlock
  dsimp only
  refine foldl (ite (startSlice ?_ _ _) ?_) (fun _ _ h => h.addGang _ _ _ _) _
  · exact modLaunch (hc.fresh.setBlock _ _ (by exact hm _ _)) _ _
  · exact modLaunch (hc.fresh.setBlock _ _ (by exact hm _ _)) _ _

theorem addInstance (h : MemoryForm s) (lid cl clu stk n) {t : State}
    (e : s.addInstance lid cl clu stk n = some t) : MemoryForm t := by
  induction n generalizing s with
  | zero => exact Option.some.inj e ▸ h
  | succ n ih =>
    unfold State.addInstance at e
    dsimp only at e
    split at e
    · exact absurd e (by simp)
    · exact ih (h.addBlock _ _ _ _ _) e

theorem execClusterInstancePlace (h : MemoryForm s) (launch) : OutForm (execClusterInstancePlace launch s) := by
  unfold Machine.execClusterInstancePlace
  dsimp only
  refine .next (ite h ?_)
  split
  · exact h
  · split
    · exact h
    · rename_i t e
      obtain ⟨cl, -, ht⟩ := List.exists_of_findSome?_eq_some e
      exact (h.addInstance _ _ _ _ _ ht).modLaunch _ _

theorem report (h : MemoryForm s) (l status kind) : MemoryForm (s.report l status kind) := by
  have hs : MemoryForm (match (s.readEnt l.asid (l.doneH % 2 ^ 16)).checkIdx l.asid l.doneH l.doneO 32 rightW
      [kindTiled] 32 with
      | .ok e => (s.readEnt l.asid (l.doneH % 2 ^ 16)).schedStore l.asid l.doneH e l.doneO 4
          ((s.readEnt l.asid (l.doneH % 2 ^ 16)).recordOf l status kind)
      | .error _ => s.readEnt l.asid (l.doneH % 2 ^ 16)) := by
    split
    · exact (h.readEnt _ _).schedStore _ _ _ _ _ _
    · exact h.readEnt _ _
  unfold State.report
  dsimp only
  refine ite hs ?_
  split
  · split
    · rename_i t e
      exact (of_pair e ((MemoryForm.readEnt hs _ _).schedLoc _ _ _)).schedWrite _ _ _ _ _ _ _ _
    · rename_i t e
      exact of_pair e ((MemoryForm.readEnt hs _ _).schedLoc _ _ _)
  · exact MemoryForm.readEnt hs _ _

theorem execLaunchComplete (h : MemoryForm s) (launch) : OutForm (execLaunchComplete launch s) := by
  refine .next (ite h (h.attempt fun t ht => ?_))
  have hr := ht.report (s.launch launch) (if (s.launch launch).failed || (s.launch launch).blocks.any
      (fun b => (t.block b).failed) then 1 else 0) 0
  exact (MemoryForm.others (hr.ofBlocks _ fun kv hk => hr.blocks kv
      (List.mem_filter.mp hk).1)).modLaunch _ _ |>.releaseSlot _

theorem depMet (h : MemoryForm s) (p asid) : MemoryForm (s.depMet p asid).2 := by
  unfold State.depMet
  refine ite_snd h ?_
  split
  · exact h
  · split
    · rename_i e
      exact of_pair e (h.schedLoc _ _ _)
    · rename_i e
      exact (of_pair e (h.schedLoc _ _ _)).schedRead _ _ _

theorem condSkips (h : MemoryForm s) (p asid) : MemoryForm (s.condSkips p asid).2 := by
  unfold State.condSkips
  refine ite_snd h ?_
  split
  · exact h
  · split
    · rename_i e
      exact of_pair e (h.schedLoc _ _ _)
    · rename_i e
      exact (of_pair e (h.schedLoc _ _ _)).schedRead _ _ _

theorem takePacket (h : MemoryForm s) (q d p) : MemoryForm (s.takePacket q d p) := by
  unfold State.takePacket
  refine ite ((((h.tableWrite _ _ _).condSkips _ _).report _ _ _).releaseSlot _) ?_
  split
  · exact (((h.tableWrite _ _ _).condSkips _ _).report _ _ _).releaseSlot _
  · exact ((h.tableWrite _ _ _).condSkips _ _).fresh.setLaunch _ _

theorem examine (h : MemoryForm s) (q) : MemoryForm (s.examine q) := by
  unfold State.examine
  dsimp only
  refine ite (ite (h.readTable _ _) ((h.readTable _ _).others.post _ _))
      (ite (ite (h.readTable _ _) (h.readTable _ _).others) ?_)
  split
  · exact ((ite (h.readTable _ _) (h.readTable _ _).others).readEnt _ _).others.post _ _
  · exact ite (((ite (h.readTable _ _) (h.readTable _ _).others).readEnt _ _).schedWords _ _ _ _)
      (ite ((((((ite (h.readTable _ _) (h.readTable _ _).others).readEnt _ _).schedWords _ _ _ _).foldl
      (fun _ _ h => h.readEnt _ _) _).depMet _ _).takePacket _ _ _)
      (((((ite (h.readTable _ _) (h.readTable _ _).others).readEnt _ _).schedWords _ _ _ _).foldl
      (fun _ _ h => h.readEnt _ _) _).depMet _ _))

theorem execQueueExamine (h : MemoryForm s) (hwslot) : OutForm (execQueueExamine hwslot s) := by
  refine .next ?_
  split
  · exact h
  · exact ite h (h.others.attempt (fun _ h => h.examine _))

theorem execSliceExpiry (h : MemoryForm s) (core queue) : OutForm (execSliceExpiry core queue s) :=
  .next (ite (h.modCore _ (by rfl)) h)

theorem enqueue (h : MemoryForm s) (asid q p) : MemoryForm (s.enqueue asid q p).2 := by
  unfold State.enqueue
  dsimp only
  refine ite_snd (h.readTable _ _) (ite_snd (h.readTable _ _) ?_)
  split
  · exact (h.readTable _ _).readEnt _ _
  · exact ite_snd ((h.readTable _ _).readEnt _ _)
      (((((h.readTable _ _).readEnt _ _).schedStore _ _ _ _ _ _).tableWrite _ _ _).ring _)

theorem markKids (h : MemoryForm s) (gid at_) : MemoryForm (s.markKids gid at_) := h.others

theorem execQlaunch (h : MemoryForm s) (f) : OutForm (execQlaunch f s) :=
  .ite (.next h.retire) (.ite (.next ((h.hold _ _ _ _).latchClk _ _))
      (.ite (.next (h.illop _ _ _)) (.ite (.next (((ite ((ite
      (((h.bankFlush _ _ _ _).meetWords _ _ _).observeRecord _ _ _) h).release _).others
      (ite (((h.bankFlush _ _ _ _).meetWords _ _ _).observeRecord _ _ _) h)).hold _ _ _ _).latchClk _ _))
      (.ite (.next (((ite ((ite (((h.bankFlush _ _ _ _).meetWords _ _ _).observeRecord _ _ _) h).release _).others
      (ite (((h.bankFlush _ _ _ _).meetWords _ _ _).observeRecord _ _ _) h)).hold _ _ _ _).latchClk _ _))
      (.next (((ite (((ite ((ite (((h.bankFlush _ _ _ _).meetWords _ _ _).observeRecord _ _ _) h).release _).others
      (ite (((h.bankFlush _ _ _ _).meetWords _ _ _).observeRecord _ _ _) h)).others.enqueue _ _ _).markKids _ _)
      ((ite ((ite (((h.bankFlush _ _ _ _).meetWords _ _ _).observeRecord _ _ _) h).release _).others
      (ite
      (((h.bankFlush _ _ _ _).meetWords _ _ _).observeRecord _ _ _) h)).others.enqueue _ _ _)).others.result _ _ _).latchClk _ _).retire)))))

/-! ### The operations of `Tray` -/

theorem execContextLoad (h : MemoryForm s) (core block) : OutForm (execContextLoad core block s) :=
  .next (ite h (h.modBlock _ (by rfl)))

theorem gangOut (h : MemoryForm s) (gid) : MemoryForm (s.gangOut gid) := (h.clearLast _).modGang _ _

theorem blockOut (h : MemoryForm s) (b) : MemoryForm (s.blockOut b) := by
  unfold State.blockOut
  exact ((h.fresh.foldl (fun _ _ h => ite (h.gangOut _) h) _).modCore _ (by rfl)).modBlock _ (by rfl)

theorem reallocate (h : MemoryForm s) (core a) : MemoryForm (s.reallocate core a) := by
  unfold State.reallocate
  split
  · exact h
  · exact ite ((h.modCore _ (by rfl)).modGang _ _) (h.grant _ _ _)

theorem rewatch (h : MemoryForm s) (gid lane) : MemoryForm (s.rewatch gid lane).2 := by
  unfold State.rewatch
  dsimp only
  split
  · exact pair (h.modGang _ _)
  · exact pair (h.modGang _ _)
  · exact h

theorem gangIn (h : MemoryForm s) (core gid) : MemoryForm (s.gangIn core gid) := by
  unfold State.gangIn
  dsimp only
  exact ((((h.modGang _ _).acquire _).foldl_snd
      (fun _ _ h => by exact h.rewatch _ _) _).readAgain _ _).drainAcks _ _

theorem contextIn (h : MemoryForm s) (core bs) : MemoryForm (s.contextIn core bs) := by
  unfold State.contextIn
  dsimp only
  exact (((((h.foldl (fun _ _ h => (h.choose _).modBlock _ (by rfl)) _).foldl (fun _ _ h => h.startSlice _ _) _).foldl
      (fun _ _ h => h.gangIn _ _) _).foldl (fun _ _ h => h.foldl
      (fun _ _ h => h.reallocate _ _) _) _).modCore _ (by rfl)).iter (fun _ h => h.refill _) _

theorem execTraySwitch (h : MemoryForm s) (core) : OutForm (execTraySwitch core s) := by
  unfold Machine.execTraySwitch
  exact .next (ite h (((h.foldl (fun _ _ h => h.blockOut _) _).modCore _ (by rfl)).contextIn _ _))

theorem savePage (h : MemoryForm s) (asid page key) : MemoryForm (s.savePage asid page key).2 :=
  have hs := ite (h.modPage _ _ |>.reencrypt _) h
  ite_snd hs (ite_snd hs (((hs.others.putTileMem _ _ (listed_wf _ _)).touchLines _ _ _).chanTake _ _ _))

theorem saveImage (h : MemoryForm s) (b) : MemoryForm (s.saveImage b).2 :=
  h.foldl_snd (fun _ _ h => by exact ite_snd (h.others.savePage _ _ _) h) _

theorem loseSlab (h : MemoryForm s) (b q) : MemoryForm (s.loseSlab b q) := by
  unfold State.loseSlab
  dsimp only
  exact (h.undefSlab _ _).modSlab _ _ _

theorem execBackgroundSpill (h : MemoryForm s) (core) : OutForm (execBackgroundSpill core s) := by
  unfold Machine.execBackgroundSpill
  refine .next (h.foldl (fun s x h => (ite h ?_)) _)
  split
  · rename_i e
    exact (of_pair e (h.saveImage _)).postFault _ _ _ _ _ _ _ _
  · rename_i e
    exact ((of_pair e (h.saveImage _)).foldl (fun _ _ h => ite h (h.loseSlab _ _)) _).modBlock _ (by rfl)

/-! ### The operations of `Platform` -/

theorem execFaultRecordPost (h : MemoryForm s) (core) : OutForm (execFaultRecordPost core s) := by
  unfold Machine.execFaultRecordPost
  dsimp only
  refine .next ?_
  split
  · exact h
  · exact .ite h (((h.modCore _ (by rfl)).ofHost _ (memWrite_wf _ _ _ _ h.host)).setMg _ _)

theorem setWide (h : MemoryForm s) (base high x) : MemoryForm (s.setWide base high x) :=
  ite ((h.setMg _ _).setMg _ _) h.others

theorem settleCtl (h : MemoryForm s) (off) : MemoryForm (s.settleCtl off) := ite (h.hotSettle _) h

theorem execMgmtRegisterWrite (h : MemoryForm s) (off value) : OutForm (execMgmtRegisterWrite off value s) := by
  unfold Machine.execMgmtRegisterWrite
  refine .next (ite h (ite (h.setWide _ _ _) (ite (ite h (h.setMg _ _)) (ite (ite (h.setMg _ _) h) ?_))))
  split
  · exact (h.settleCtl _).setMg _ _
  · exact h

theorem execCorePolicyWrite (h : MemoryForm s) (core value) : OutForm (execCorePolicyWrite core value s) :=
  .next (ite h ((h.modCore _ (by rfl)).setMg _ _))

theorem execFrecConfigWrite (h : MemoryForm s) (off value) : OutForm (execFrecConfigWrite off value s) := by
  unfold Machine.execFrecConfigWrite
  refine .next (ite h ?_)
  split
  · exact h.setWide _ _ _
  · exact ite (h.setWide _ _ _) h
  · exact ite (((h.setMg _ _).setMg _ _).setMg _ _) h
  · exact h

theorem execKeyLoad (h : MemoryForm s) (keySlot) : OutForm (execKeyLoad keySlot s) :=
  .next (ite h (h.fresh.others.setMg _ _))

theorem execKeyErase (h : MemoryForm s) (keySlot) : OutForm (execKeyErase keySlot s) :=
  .next (ite h (h.fresh.others.setMg _ _))

theorem execXlatInv (h : MemoryForm s) (asid) : OutForm (execXlatInv asid s) := .next (ite h (h.setMg _ _))

theorem execXlatInvDone (h : MemoryForm s) (asid) : OutForm (execXlatInvDone asid s) := by
  refine .next (.ite h (setMg (others (h.ofCores _ ?_)) _ _))
  intro kv hk
  obtain ⟨x, hx, rfl⟩ := List.mem_map.mp hk
  exact h.cores x hx

theorem execPartCmd (h : MemoryForm s) (value) : OutForm (execPartCmd value s) :=
  .next (ite h (ite (h.setMg _ _) (ite (h.setMg _ _) (h.setMg _ _))))

theorem execPartitionRestitch (h : MemoryForm s) (part) : OutForm (execPartitionRestitch part s) :=
  .next (ite h (ite (h.setMg _ _) (ite ((ite (h.others.setMg _ _).others (h.others.setMg _ _)).setMg _ _)
      (ite (h.others.setMg _ _).others (h.others.setMg _ _)))))

theorem runImage (h : MemoryForm s) {image : Memory} (hi : Memory.wf image = true) :
    MemoryForm (s.runImage image) :=
  (h.ofImage _ hi).others.setMg _ _

theorem execBoot (h : MemoryForm s) : OutForm (execBoot s) :=
  .next (.ite h (.ite (h.runImage h.flash) (h.setMg _ _)))

theorem execBootCmdRecover (h : MemoryForm s) : OutForm (execBootCmdRecover s) := by
  refine .next (.ite h (.ite (h.runImage (wf_window _ _ _ h.host ?_)) (h.setMg _ _)))
  intro kv hk
  simp only [Bool.and_eq_true, decide_eq_true_eq] at hk
  exact hk.1

theorem execAttestRequest (h : MemoryForm s) : OutForm (execAttestRequest s) := .next (ite (h.setMg _ _) h)

theorem attest (h : MemoryForm s) : MemoryForm s.attest :=
  ((h.ofHost _ (memWrite_wf _ _ _ _ h.host)).setMg _ _).setMg _ _

theorem execSupplySag (h : MemoryForm s) (die) : OutForm (execSupplySag die s) := .next (ite h (h.others.countMg _))

theorem execSupplyRecovery (h : MemoryForm s) (die) : OutForm (execSupplyRecovery die s) := .next (ite h h.others)

theorem execMarginReplan (h : MemoryForm s) : OutForm (execMarginReplan s) := by
  unfold Machine.execMarginReplan
  dsimp only
  exact .next (ite ((h.undef _ _).choose _) (ite (((h.undef _ _).choose _).setMg _ _)
      ((((h.undef _ _).choose _).setMg _ _).post _ _)))

/-! ### The operations of `Issue` -/

theorem pass (h : MemoryForm s) (e) : MemoryForm (s.pass e) := h.others

theorem parkLong (h : MemoryForm s) (core) : MemoryForm (s.parkLong core) := h.others

theorem startBundle (h : MemoryForm s) (core slot gid wasForced) :
    MemoryForm (s.startBundle core slot gid wasForced) := by
  unfold State.startBundle
  split
  · exact h
  · exact ((h.modGang _ _).modCore _ (by rfl)).others

theorem execIssueChoice (h : MemoryForm s) (core slot) : OutForm (execIssueChoice core slot s) := by
  unfold Machine.execIssueChoice
  dsimp only
  refine .next (ite (h.parkLong _) ?_)
  split
  · exact (h.parkLong _).startBundle _ _ _ _
  · split
    · exact (h.parkLong _).startBundle _ _ _ _
    · exact h.parkLong _

theorem execStarvationForce (h : MemoryForm s) (gid) : OutForm (execStarvationForce gid s) :=
  .next (ite h (ite (h.startBundle _ _ _ _) h))

/-! ### The operations of `Lane` -/

theorem laneOp (h : MemoryForm s) (i res) : OutForm (laneOp i s res) :=
  .next ((ite h ((h.writeBack _ _ _ _ _ _).latchClk _ _)).finishArith _ _)

theorem execShfl (h : MemoryForm s) (f) : OutForm (execShfl f s) := h.laneOp _ _

theorem execVote (h : MemoryForm s) (f) : OutForm (execVote f s) := h.laneOp _ _

theorem execLred (h : MemoryForm s) (f) : OutForm (execLred f s) := h.laneOp _ _

theorem execLscan (h : MemoryForm s) (f) : OutForm (execLscan f s) := h.laneOp _ _

theorem execMatch (h : MemoryForm s) (f) : OutForm (execMatch f s) := h.laneOp _ _

theorem execVrd (h : MemoryForm s) (f) : OutForm (execVrd f s) :=
  .ite (.next (h.finishArith _ _)) (.ite (.next (h.illop _ _ _))
      (.next (((((ite_snd (h.undef _ _) h).writeBack _ _ _ _ _ _).latchClk _ _).modGang _ _).finishArith _ _)))

/-! ### The operations of `Dispatch` -/

theorem exec (h : MemoryForm s) (i) : OutForm (exec i s) := by
  unfold Machine.exec
  cases i with
  | add f | sub f | mul f | mulh f | mad f | neg f | abs f | min f | max f | and f | or f | xor f | andn f | shl f
    | shr f | sar f | clz f | popc f | bfx f | bfi f | setp f | plop f | p2v f | v2p f | fadd f | fsub f | fmul f
    | ffma f | fmin f | fmax f | fsetp f | frcp f | frsq f | fsqrt f | fex2 f | flg2 f | frnd f | fclass f | cvt f
    | hadd2 f | hmul2 f | hfma2 f | hmax2 f | pack f | unpk f | mov f => exact h.arith _ _ _
  | sel f => exact h.arithLane _ _ _
  | vrd f => exact h.execVrd _
  | rdsp f => exact h.execRdsp _
  | wrsp f => exact h.execWrsp _
  | shfl f => exact h.execShfl _
  | vote f => exact h.execVote _
  | lred f => exact h.execLred _
  | lscan f => exact h.execLscan _
  | match_ f => exact h.execMatch _
  | bra f => exact h.execBra _
  | brx f => exact h.execBrx _
  | call f => exact h.execCall _
  | ret f => exact h.execRet _
  | exit f => exact h.execExit _
  | pblk f => exact h.execPblk _
  | nop f => exact h.execNop _
  | brk f => exact h.execBrk _
  | trap f => exact h.execTrap _
  | mjoin f => exact h.execMjoin _
  | mleave f => exact h.execMleave _
  | mwait f => exact h.execMwait _
  | mpoll f => exact h.execMpoll _
  | mrd f => exact h.execMrd _
  | reform f => exact h.execReform _
  | bsync f => exact h.execBsync _
  | barv f => exact h.execBarv _
  | bwt f => exact h.execBwt _
  | nbatt f => exact h.execNbatt _
  | nbarv f => exact h.execNbarv _
  | nbwt f => exact h.execNbwt _
  | nbdet f => exact h.execNbdet _
  | twait f => exact h.execTwait _
  | waddr f => exact h.execWaddr _
  | xacq f => exact h.execXacq _
  | xrel f => exact h.execXrel _
  | region f => exact h.execRegion _
  | ppoint f => exact h.execPpoint _
  | tret f => exact h.execTret _
  | ld f => exact h.execLd _
  | st f => exact h.execSt _
  | spill f => exact h.execSpill _
  | fill f => exact h.execFill _
  | atom f => exact h.execAtom _
  | cas f => exact h.execCas _
  | red f => exact h.execRed _
  | phaseRel f => exact h.execPhaseRel _
  | phaseAcq f => exact h.execPhaseAcq _
  | phaseAr f => exact h.execPhaseAr _
  | pfence f => exact h.execPfence _
  | sbwait f => exact h.execSbwait _
  | tsync f => exact h.execTsync _
  | untaint f => exact h.execUntaint _
  | tfetch f => exact h.execTfetch _
  | tevict f => exact h.execTevict _
  | mdld f => exact h.execMdld _
  | mdst f => exact h.execMdst _
  | cp f => exact h.execCp _
  | cpq f => exact h.execCpq _
  | cpflag f => exact h.execCpflag _
  | cpcommit f => exact h.execCpcommit _
  | cpwait f => exact h.execCpwait _
  | cpst f => exact h.execCpst _
  | scfg f => exact h.execScfg _
  | mma f => exact h.execMma _
  | szero f => exact h.execSzero _
  | smovIn f => exact h.execSmovIn _
  | smovOut f => exact h.execSmovOut _
  | quant f => exact h.execQuant _
  | bexp f => exact h.execBexp _
  | swb f => exact h.execSwb _
  | samax f => exact h.execSamax _
  | bput f => exact h.execBput _
  | bputk f => exact h.execBputk _
  | bputv f => exact h.execBputv _
  | bcommit f => exact h.execBcommit _
  | bsquash f => exact h.execBsquash _
  | bcount f => exact h.execBcount _
  | bdrain f => exact h.execBdrain _
  | bnext f => exact h.execBnext _
  | bclose f => exact h.execBclose _
  | bstat f => exact h.execBstat _
  | xpost f => exact h.execXpost _
  | xbcast f => exact h.execXbcast _
  | xfence f => exact h.execXfence _
  | qlaunch f => exact h.execQlaunch _
  | issueChoice core slot => exact h.execIssueChoice _ _
  | starvationForce gid => exact h.execStarvationForce _
  | maskArrival gid lane => exact h.execMaskArrival _ _
  | barrierArrival gid lane bar => exact h.execBarrierArrival _ _ _
  | namedBarrierArrival gid name => exact h.execNamedBarrierArrival _ _
  | twaitExpiry gid lane => exact h.execTwaitExpiry _ _
  | waddrReread gid lane => exact h.execWaddrReread _ _
  | allocatorGrant core => exact h.execAllocatorGrant _
  | compactorMove core start target => exact h.execCompactorMove _ _ _
  | clearEngineGranule core => exact h.execClearEngineGranule _
  | sifterAgeCapExpiry core bin => exact h.execSifterAgeCapExpiry _ _
  | sifterBinDraw core bin => exact h.execSifterBinDraw _ _
  | gangEnd gid => exact h.execGangEnd _
  | loadPerform gid id => exact h.execLoadPerform _ _
  | storeAck gid => exact h.execStoreAck _
  | translationWalk core asid space va => exact h.execTranslationWalk _ _ _ _
  | memoryFaultPark gid => exact h.execMemoryFaultPark _
  | faultRecordPost core => exact h.execFaultRecordPost _
  | faultAckRetry core seq => exact h.execFaultAckRetry _ _
  | faultAckDeliver core seq => exact h.execFaultAckDeliver _ _
  | faultAckKill core seq => exact h.execFaultAckKill _ _
  | dbgResume core seq => exact h.execDbgResume _ _
  | traySwitch core => exact h.execTraySwitch _
  | contextLoad core block => exact h.execContextLoad _ _
  | backgroundSpill core => exact h.execBackgroundSpill _
  | sliceRequest slice src => exact h.execSliceRequest _ _
  | tileArrival tile => exact h.execTileArrival _
  | tileEviction tile => exact h.execTileEviction _
  | hotTilePromotion tile => exact h.execHotTilePromotion _
  | hotTileDecay slice => exact h.execHotTileDecay _
  | phaseCacheEviction core line => exact h.execPhaseCacheEviction _ _
  | hbmRequest chan idx => exact h.execHbmRequest _ _
  | pageReencrypt page => exact h.execPageReencrypt _
  | scrubLine line => exact h.execScrubLine _
  | copyChunk core id chunk => exact h.execCopyChunk _ _ _
  | copyComplete core id => exact h.execCopyComplete _ _
  | mmaHandover core idx => exact h.execMmaHandover _ _
  | mmaAccept core => exact h.execMmaAccept _
  | mmaComplete core => exact h.execMmaComplete _
  | bagAdmit bag src => exact h.execBagAdmit _ _
  | bagPlace bag put stack bank => exact h.execBagPlace _ _ _ _
  | bagSettle bag op steward => exact h.execBagSettle _ _ _
  | bagCut bag cursor bank => exact h.execBagCut _ _ _
  | bagClaim bag op rec => exact h.execBagClaim _ _ _
  | bagFree bag idx => exact h.execBagFree _ _
  | egressArbitration port idx => exact h.execEgressArbitration _ _
  | packetAgeSaturation pkt => exact h.execPacketAgeSaturation _
  | postDelivery pkt unit => exact h.execPostDelivery _ _
  | postAck pkt => exact h.execPostAck _
  | flitUncorr pkt => exact h.execFlitUncorr _
  | corruptHeader pkt => exact h.execCorruptHeader _
  | clusterReset cluster => exact h.execClusterReset _
  | partitionRestitch part => exact h.execPartitionRestitch _
  | queueBell queue => exact h.execQueueBell _
  | queueSlotMap queue => exact h.execQueueSlotMap _
  | queueExamine hwslot => exact h.execQueueExamine _
  | clusterInstancePlace launch => exact h.execClusterInstancePlace _
  | launchComplete launch => exact h.execLaunchComplete _
  | sliceExpiry core queue => exact h.execSliceExpiry _ _
  | boot => exact h.execBoot
  | bootCmdRecover => exact h.execBootCmdRecover
  | keyLoad keySlot => exact h.execKeyLoad _
  | keyErase keySlot => exact h.execKeyErase _
  | xlatInv asid => exact h.execXlatInv _
  | partCmd value => exact h.execPartCmd _
  | attestRequest => exact h.execAttestRequest
  | corePolicyWrite core value => exact h.execCorePolicyWrite _ _
  | frecConfigWrite off value => exact h.execFrecConfigWrite _ _
  | mgmtRegisterWrite off value => exact h.execMgmtRegisterWrite _ _
  | supplySag die => exact h.execSupplySag _
  | supplyRecovery die => exact h.execSupplyRecovery _
  | marginReplan => exact h.execMarginReplan
  | postanLinkDown port => exact h.execPostanLinkDown _
  | postanLinkUp port => exact h.execPostanLinkUp _
  | reservationBudgetRefill => exact h.execReservationBudgetRefill
  | xlatInvDone asid => exact h.execXlatInvDone _
  | fabricPortAccess src => exact h.execFabricPortAccess _

/-! ### The operations of `Run` -/

theorem readCode (h : MemoryForm s) (gid pc) : MemoryForm (s.readCode gid pc) := by
  unfold State.readCode
  refine ite h (foldl ?_ (fun _ _ h => (h.readLines _ _ _).chanTake _ _ _) _)
  split
  · exact ite (h.readEnt _ _) ((h.readEnt _ _).foldl (fun _ _ h => h.readPage _ _ _ _) _)
  · exact h.readEnt _ _

theorem meetRegs (h : MemoryForm s) (gid rd wr) : MemoryForm (s.meetRegs gid rd wr) :=
  ite h (h.others.iter (fun _ h => h.countMg _) _)

theorem opens (h : MemoryForm s) : MemoryForm (s.opens) := ((ite (h.acquire _) h).modGang _ _).readCode _ _

theorem occupy (h : MemoryForm s) (beats yield stall) : MemoryForm (s.occupy beats yield stall) := by
  unfold State.occupy
  exact (h.modCore _ (by rfl)).modGang _ _

theorem runIllegal (h : MemoryForm s) (c) : MemoryForm (s.runIllegal c) :=
  ((h.withdrawArm _).occupy _ _ _).illegal _ _ _ _

theorem runWord (h : MemoryForm s) (i) : OutForm (s.runWord i) := by
  unfold State.runWord
  dsimp only
  refine .ite (.next (((h.occupy _ _ _).withdrawArm _).illop _ _ _)) ?_
  split
  · exact (ite ((h.occupy _ _ _).meetRegs _ _ _) ((h.occupy _ _ _).meetRegs _ _ _)).exec _
  · split
    · exact .ite ((ite ((h.occupy _ _ _).meetRegs _ _ _) ((h.occupy _ _ _).meetRegs _ _ _)).exec _)
        (.next ((ite ((h.occupy _ _ _).meetRegs _ _ _) ((h.occupy _ _ _).meetRegs _ _ _)).takeTrap _ _ _ _ _ _ _))
    · exact .next ((ite ((h.occupy _ _ _).meetRegs _ _ _) ((h.occupy _ _ _).meetRegs _ _ _)).takeTrap _ _ _ _ _ _ _)

theorem runBundle (h : MemoryForm s) : OutForm (s.runBundle) := by
  unfold State.runBundle
  dsimp only
  split
  · exact .next ((h.others.opens.refetched _ _).runIllegal _)
  · exact (h.others.opens.refetched _ _).runWord _

theorem goOn (h : MemoryForm s) (gid k) : OutForm (s.goOn gid k) := by
  unfold State.goOn
  split
  · exact .next h
  · split
    · exact .next h
    · exact (h.modGang _ _).others.exec _

theorem runEvent (h : MemoryForm s) (e i) : OutForm (s.runEvent e i) := .ite (.next (h.pass _)) ((h.pass _).exec _)

theorem nextEvent (h : MemoryForm s) : OutForm (s.nextEvent) := by
  unfold State.nextEvent
  split <;> exact h.others.runEvent _ _

theorem deadlocks (h : MemoryForm s) : MemoryForm (s.deadlocks) := h.foldl (fun _ _ h => h.allocDeadlock _) _

theorem advanceMachine (h : MemoryForm s) : OutForm (s.advanceMachine) := by
  unfold State.advanceMachine
  dsimp only
  split
  · exact h.deadlocks.nextEvent
  · split
    · exact (h.deadlocks.choose _).goOn _ _
    · exact .next ((h.deadlocks.choose _).bankServe _)
    · exact .next (h.deadlocks.choose _).attest
    · exact (h.deadlocks.choose _).nextEvent

theorem step (h : MemoryForm s) : OutForm (step s) := by
  unfold Machine.step
  split
  · exact .fault _
  · exact .ite h.runBundle h.advanceMachine

end Operations
end MemoryForm

/-- Settles O8: every operation the step is made of keeps the form (`MemoryForm.step`). -/
theorem stepKeepsMemoryForm : Obligations.StepKeepsMemoryForm :=
  fun _ t h e => h.step t e

end Sys2Proof.Machine

/-! ## A step with no bundle at issue -/
namespace Sys2Proof.Machine

theorem step_of_err {s : State} {f : Fault} (h : s.err = some f) : step s = .fault f := by
  simp only [step, h]

theorem step_of_idle {s : State} (herr : s.err = none) (hiss : s.issuing = false) : step s = s.advanceMachine := by
  simp [step, herr, hiss]

theorem State.advanceMachine_of_no_moves {s : State} (h : s.deadlocks.moves = []) :
    s.advanceMachine = s.deadlocks.nextEvent := by
  simp only [State.advanceMachine, h]

theorem State.nextEvent_of_agenda {s : State} {e : Elapse} {i : Instr} {rest : List (Elapse × Instr)}
    (h : s.agenda = (e, i) :: rest) : s.nextEvent = { s with agenda := rest }.runEvent e i := by
  simp only [State.nextEvent, h]

theorem State.runEvent_of_event (s : State) (e : Elapse) {i : Instr} (h : i.isWord = false) :
    s.runEvent e i = exec i (s.pass e) := by
  simp [State.runEvent, h]

/-- With no gang queued for granules at any core there is no deadlock to trap. -/
theorem State.deadlocks_of_no_queue {s : State} (h : ∀ kv ∈ s.cores, kv.2.allocQ = []) : s.deadlocks = s := by
  have none_queued : s.cores.filter (fun kv => !kv.2.allocQ.isEmpty) = [] :=
    List.filter_eq_nil_iff.mpr fun kv hk => by simp [h kv hk]
  rw [State.deadlocks, none_queued, List.foldl_nil]

/-- With no move possible the step is the event that heads the agenda. -/
theorem step_of_agenda {s : State} {e : Elapse} {i : Instr} {rest : List (Elapse × Instr)} (herr : s.err = none)
    (hiss : s.issuing = false) (hmoves : s.deadlocks.moves = []) (hagenda : s.deadlocks.agenda = (e, i) :: rest)
    (hword : i.isWord = false) : step s = exec i ({ s.deadlocks with agenda := rest }.pass e) := by
  rw [step_of_idle herr hiss, State.advanceMachine_of_no_moves hmoves, State.nextEvent_of_agenda hagenda,
    State.runEvent_of_event _ _ hword]

/-- Settles O6, by the equations above: one for each function between `step` and the agenda's event. -/
theorem stepTakesTheAgendasEvent : Obligations.StepTakesTheAgendasEvent := fun _ _ _ _ =>
  ⟨step_of_agenda, State.deadlocks_of_no_queue, fun _ => step_of_err⟩

end Sys2Proof.Machine

/-! ## A byte map in canonical form is its reading -/
namespace Sys2Proof.Machine

/-- The first entry of a map in canonical form, at its key and below it. -/
theorem sfrom_cons {w lo k : Nat} {x : BitVec w} {t : Sparse w} (h : sfrom lo ((k, x) :: t) = true) :
    lo ≤ k ∧ x ≠ 0 ∧ sfrom (k + 1) t = true := by
  simpa [sfrom, and_assoc] using h

/-- Below its first key a map in canonical form reads zero. -/
theorem sget_of_lt {w lo a : Nat} {m : Sparse w} (h : sfrom lo m = true) (ha : a < lo) : sget m a = 0 := by
  induction m generalizing lo with
  | nil => rfl
  | cons kv t ih =>
    obtain ⟨k, x⟩ := kv
    obtain ⟨hk, -, ht⟩ := sfrom_cons h
    rw [sget, if_neg (by omega), ih ht (by omega)]

/-- Maps in canonical form that read alike have their first entry at the same key. -/
theorem first_key_le {w k j : Nat} {x y : BitVec w} {t u : Sparse w} {lo : Nat} (hm : sfrom lo ((k, x) :: t) = true)
    (hn : sfrom lo ((j, y) :: u) = true) (e : ∀ a, sget ((k, x) :: t) a = sget ((j, y) :: u) a) : j ≤ k := by
  obtain ⟨-, hx, -⟩ := sfrom_cons hm
  obtain ⟨-, hy, hu⟩ := sfrom_cons hn
  refine Nat.le_of_not_lt fun hlt => ?_
  have below : sget ((j, y) :: u) k = 0 := by rw [sget, if_neg (by omega), sget_of_lt hu (by omega)]
  exact hx (by rw [← below, ← e k, sget, if_pos rfl])

/-- Two maps in canonical form that read alike are one. -/
theorem eq_of_sget_eq {w : Nat} {m n : Sparse w} {lo : Nat} (hm : sfrom lo m = true) (hn : sfrom lo n = true)
    (e : ∀ a, sget m a = sget n a) : m = n := by
  induction m generalizing n lo with
  | nil =>
    cases n with
    | nil => rfl
    | cons kv u =>
      obtain ⟨k, x⟩ := kv
      obtain ⟨-, hx, -⟩ := sfrom_cons hn
      exact absurd (by rw [e k, sget, if_pos rfl] : sget [] k = x) (Ne.symm hx)
  | cons kv t ih =>
    obtain ⟨k, x⟩ := kv
    obtain ⟨-, hx, ht⟩ := sfrom_cons hm
    cases n with
    | nil => exact absurd ((by rw [sget, if_pos rfl] : x = sget ((k, x) :: t) k).trans (e k)) hx
    | cons jy u =>
      obtain ⟨j, y⟩ := jy
      obtain ⟨-, -, hu⟩ := sfrom_cons hn
      obtain rfl : k = j := Nat.le_antisymm (first_key_le hn hm fun a => (e a).symm) (first_key_le hm hn e)
      have hxy : x = y := by simpa [sget] using e k
      have tails : ∀ a, sget t a = sget u a := fun a => by
        by_cases ha : k = a
        · rw [sget_of_lt ht (by omega), sget_of_lt hu (by omega)]
        · simpa [sget, ha] using e a
      rw [hxy, ih ht hu tails]

/-- Settles O9: reset lists no byte, and maps in canonical form that read alike are one (`eq_of_sget_eq`). -/
theorem memoryFormAtReset : Obligations.MemoryFormAtReset :=
  ⟨⟨rfl, rfl, rfl, rfl, by simp [State.reset], by simp [State.reset], by simp [State.reset]⟩,
    fun _ _ hm hn e => eq_of_sget_eq hm hn e⟩

end Sys2Proof.Machine

/-! ## What `wrsp` writes (R6, R145, R202, R203, R308)

Outside the slab configurations `wrsp` leaves the state but for its own gang (`exec_wrsp_setGang`), and the gang it
leaves is `State.wrspGang`: the bundle moved on, the clock latched and one register written. -/

namespace Sys2Proof.Machine

/-! ### A word that moves on and latches the clock -/

/-- The gang of a word that only moved on and latched the clock. -/
def State.movedGang (s : State) (i : Instr) (e : Lanes) : Gang :=
  { s.me with threads := s.me.movedThreads s.cur.mask, clkh := s.clkhAfter i e }

theorem State.movedGang_thread (s : State) (i : Instr) (e : Lanes) {l : Nat} (hl : l < 32) :
    (s.movedGang i e).thread l = s.passed l :=
  Gang.movesOn_of (g := s.me) (m := s.cur.mask) rfl l hl

theorem State.modGang_setGang (s : State) (k : Nat) (g : Gang) (f : Gang → Gang) :
    (s.setGang k g).modGang k f = s.setGang k (f g) := by
  simp [State.modGang, State.setGang_setGang]

theorem State.retire_setGang (s : State) (g : Gang) :
    (s.setGang s.cur.gid g).retire = s.setGang s.cur.gid { g with threads := g.movedThreads s.cur.mask } :=
  (s.modGang_setGang _ g (·.modLanes s.cur.mask Thread.skip)).trans (congrArg (s.setGang s.cur.gid) (Gang.modLanes_eq g ..))

theorem State.retire_eq (s : State) :
    s.retire = s.setGang s.cur.gid { s.me with threads := s.me.movedThreads s.cur.mask } :=
  congrArg (s.setGang s.cur.gid) (Gang.modLanes_eq s.me s.cur.mask Thread.skip)

theorem State.latchClk_retire (s : State) (i : Instr) (e : Lanes) :
    (s.latchClk i e).retire = s.setGang s.cur.gid (s.movedGang i e) := by
  unfold State.latchClk State.movedGang State.clkhAfter
  by_cases h : Instr.readsClk i = true ∧ e ≠ 0 ∧ s.cur.snap = none
  · rw [if_pos (by simpa [and_assoc] using h), if_pos h, State.modGang, State.retire_setGang]
    have threads := Gang.movedThreads_congr (g := s.me)
      (h := { s.me with clkh := BitVec.ofNat 32 (s.cur.iss.clk / 2 ^ 32) }) rfl s.cur.mask
    exact congrArg (fun th => s.setGang s.cur.gid
      { s.me with threads := th, clkh := BitVec.ofNat 32 (s.cur.iss.clk / 2 ^ 32) }) threads
  · rw [if_neg (by simpa [and_assoc] using h), if_neg h, State.retire_eq]

/-- A word with no executing thread only moves on. -/
theorem goes_of_no_lanes {i : Instr} {s : State} (he : s.execLanes i.fields = 0) (hx : exec i s = .next s.retire) :
    Goes i (fun _ => none) s := by
  have hme : s.retire.me = { s.me with threads := s.me.movedThreads s.cur.mask } := by
    rw [State.retire_eq]; exact State.setGang_gang_same ..
  refine ⟨_, hx, OnlyGang.modGang s s.cur.gid (·.modLanes s.cur.mask Thread.skip), ?_, ?_, ?_, ?_, fun h => absurd he h, ?_, ?_⟩
  all_goals rw [hme]
  · rfl
  · exact Gang.goesTo_of _ rfl
  · intro c l _
    simp only [resultIn, he, if_true, Option.getD_none]
  · intro c
    simp only [he, if_true, List.not_mem_nil, if_false]
  · exact BitVec.or_zero.symm
  · simp only [State.clkhAfter, he, ne_eq, not_true_eq_false, false_and, and_false, if_false]

/-! ### The ends of waits -/

/-- Only threads and what waits had under way differ. -/
def Gang.SameButWaits (g h : Gang) : Prop :=
  ∃ th dr lo pe, h = { g with threads := th, drains := dr, loads := lo, pend := pe }

theorem Gang.SameButWaits.refl (g : Gang) : g.SameButWaits g := ⟨_, _, _, _, rfl⟩

theorem Gang.SameButWaits.trans {a b c : Gang} (hab : a.SameButWaits b) (hbc : b.SameButWaits c) : a.SameButWaits c := by
  obtain ⟨_, _, _, _, rfl⟩ := hab
  obtain ⟨_, _, _, _, rfl⟩ := hbc
  exact ⟨_, _, _, _, rfl⟩

theorem Gang.SameButWaits.foldl {step : Gang → Nat → Gang} (hstep : ∀ (g : Gang) l, g.SameButWaits (step g l)) (L : List Nat)
    (g : Gang) : g.SameButWaits (L.foldl step g) := by
  induction L generalizing g with
  | nil => exact .refl g
  | cons l t ih => exact (hstep g l).trans (ih _)

theorem Gang.foldl_of_unchanged {step : Gang → Nat → Gang} (hstep : ∀ g l, step g l = g) (L : List Nat) (g : Gang) :
    L.foldl step g = g := by
  induction L with
  | nil => rfl
  | cons l t ih => rw [List.foldl_cons, hstep, ih]

/-- A fold over lanes that changes each lane's own thread changes those threads. -/
theorem Gang.thread_foldl {step : Gang → Nat → Gang} {F : Nat → Thread → Thread}
    (hstep : ∀ g l j, (step g l).thread j = if j = l then F l (g.thread l) else g.thread j)
    {L : List Nat} (hn : L.Nodup) (g : Gang) (j : Nat) :
    (L.foldl step g).thread j = if j ∈ L then F j (g.thread j) else g.thread j := by
  induction L generalizing g with
  | nil => simp
  | cons l t ih =>
    obtain ⟨hl, ht⟩ := List.nodup_cons.mp hn
    rw [List.foldl_cons, ih ht, hstep]
    by_cases h : j = l
    · subst h; simp [hl]
    · simp [h]

theorem Gang.sameButWaits_modThread (g : Gang) (l : Nat) (f : Thread → Thread) : g.SameButWaits (g.modThread l f) :=
  ⟨_, _, _, _, rfl⟩

theorem Gang.sameButWaits_modLanes (g : Gang) (m : Lanes) (f : Thread → Thread) : g.SameButWaits (g.modLanes m f) :=
  .foldl (fun g l => Gang.sameButWaits_modThread g l f) _ g

theorem Gang.sameButWaits_endWait (g : Gang) (l : Nat) : g.SameButWaits (g.endWait l) := by
  unfold Gang.endWait
  refine .trans ?_ (Gang.sameButWaits_modThread _ l _)
  split
  · exact ⟨_, _, _, _, rfl⟩
  · exact ⟨_, _, _, _, rfl⟩
  · exact .refl g

theorem Gang.thread_endWait (g : Gang) (l j : Nat) :
    (g.endWait l).thread j = if j = l then { g.thread l with savedWait := .none } else g.thread j := by
  unfold Gang.endWait
  rw [Gang.thread_modThread]
  split <;> split <;> rfl

/-- A thread after every wait on mask register `m` has ended, the saved one of a thread in the handler included. -/
def Thread.endMask (m : Nat) (a : Thread) : Thread :=
  let a := if a.inTrap = true ∧ a.savedWait = .mask m then { a with savedWait := .none } else a
  if a.st = .waiting ∧ a.wait = .mask m then { a with st := .ready, wait := .none } else a

theorem Thread.endMask_not_waiting (m : Nat) (a : Thread) :
    ¬ ((a.endMask m).st = .waiting ∧ (a.endMask m).wait = .mask m) := by
  unfold Thread.endMask
  by_cases h : a.st = .waiting ∧ a.wait = .mask m
  · split <;> simp [h]
  · split <;> simp [h]

theorem Gang.sameButWaits_endMaskWaits (g : Gang) (m : Nat) : g.SameButWaits (g.endMaskWaits m) := by
  have saved := Gang.SameButWaits.foldl (step := Gang.endWait) Gang.sameButWaits_endWait
    (lanesOf (g.lanesWith (fun t => t.inTrap && t.savedWait == .mask m))) g
  exact (saved.trans (Gang.sameButWaits_modLanes _ _ Thread.wake)).trans ⟨_, _, _, _, rfl⟩

theorem Gang.thread_endMaskWaits (g : Gang) (m : Nat) {j : Nat} (hj : j < 32) :
    (g.endMaskWaits m).thread j = (g.thread j).endMask m := by
  have saved := Gang.thread_foldl (F := fun _ t => { t with savedWait := .none }) Gang.thread_endWait
    (nodup_lanesOf (g.lanesWith (fun t => t.inTrap && t.savedWait == .mask m))) g j
  simp only [mem_lanesOf, hj, true_and, Gang.getLsbD_lanesWith, decide_true, Bool.true_and, Bool.and_eq_true,
    beq_iff_eq] at saved
  change (Gang.modLanes _ _ Thread.wake).thread j = _
  rw [Gang.thread_modLanes, saved]
  simp only [hj, true_and, Gang.getLsbD_lanesWith, decide_true, Bool.true_and, Bool.and_eq_true, beq_iff_eq, saved]
  rfl

/-- With no thread waiting on the mask its release test changes nothing. -/
theorem Gang.checkRelease_of_no_waiter {g : Gang} {m : Nat}
    (h : ∀ j, j < 32 → ¬ ((g.thread j).st = .waiting ∧ (g.thread j).wait = .mask m)) : g.checkRelease m = g := by
  have none_waits : g.lanesWith (fun t => t.st == .waiting && t.wait == .mask m) = 0 := by
    refine BitVec.eq_of_getLsbD_eq fun j hj => ?_
    rw [Gang.getLsbD_lanesWith]
    simpa [hj] using h j hj
  unfold Gang.checkRelease
  simp only [none_waits, ne_eq, not_true_eq_false, and_false, if_false]

theorem Gang.checkRelease_endMaskWaits (g : Gang) (m : Nat) : (g.endMaskWaits m).checkRelease m = g.endMaskWaits m :=
  Gang.checkRelease_of_no_waiter fun j hj => by
    rw [Gang.thread_endMaskWaits g m hj]; exact Thread.endMask_not_waiting m _

/-! ### The registers -/

theorem trapOnly_iff (n : Nat) :
    trapOnly n = true ↔ (0x030 ≤ n ∧ n ≤ 0x03B) ∨ (0x040 ≤ n ∧ n ≤ 0x04B) ∨ n = 0x100 ∨ n = 0x102 := by
  simp [trapOnly, or_assoc]

theorem cfgOk_iff (x : Word) :
    cfgOk x = true ↔
      let ty := x.extractLsb' 21 5
      let rb := (x.extractLsb' 0 10).toNat
      (ty = tyF32 ∨ (0x10 ≤ ty.toNat ∧ ty.toNat ≤ 0x16)) ∧ rb % 4 = 0 ∧ 4 ≤ rb ∧ rb ≤ 512 ∧
        (ty ≠ tyF32 → rb % (4 * (ty.toNat - 14)) = 0) := by
  simp [cfgOk, tyBfp, tyBfpBits, and_assoc, Decidable.or_iff_not_imp_left]

/-- A gang after a write of one of its control registers, the slab configurations left out. -/
def Gang.setCtl (g : Gang) (n : Nat) (x : Word) : Gang :=
  match n with
  | 0x010 => { g with flags := g.flags &&& ~~~(x.setWidth 5), ten := x.extractLsb' 8 5 }
  | 0x012 => { g with chk := x.getLsbD 0 }
  | 0x013 => { g with ovf := g.ovf && !x.getLsbD 0, sbf := g.sbf && !x.getLsbD 1 }
  | 0x018 => { g with fabFail := (x.extractLsb' 24 8).toNat }
  | _ =>
    if trapOnly n then
      (if n < 0x040 then { g with mM := sset g.mM (n % 16) x } else { g with mA := sset g.mA (n % 16) x }).endMaskWaits (n % 16)
    else g

theorem Gang.setCtl_of_trapOnly (g : Gang) {n : Nat} (x : Word) (ht : trapOnly n = true) :
    g.setCtl n x = (if n < 0x040 then { g with mM := sset g.mM (n % 16) x }
      else { g with mA := sset g.mA (n % 16) x }).endMaskWaits (n % 16) := by
  unfold Gang.setCtl
  split
  · cases ht
  · cases ht
  · cases ht
  · cases ht
  · rw [if_pos ht]

theorem Gang.setCtl_other (g : Gang) {n : Nat} (x : Word) (ht : trapOnly n = false) (h10 : n ≠ 0x010) (h12 : n ≠ 0x012)
    (h13 : n ≠ 0x013) (h18 : n ≠ 0x018) : g.setCtl n x = g := by
  unfold Gang.setCtl
  split
  · exact absurd rfl h10
  · exact absurd rfl h12
  · exact absurd rfl h13
  · exact absurd rfl h18
  · simp [ht]

theorem State.setCtlGang_setGang (s : State) (k : Nat) (g : Gang) {n : Nat} (x : Word) (h : ¬ (0x050 ≤ n ∧ n ≤ 0x05F)) :
    (s.setGang k g).setCtlGang k n x = s.setGang k (g.setCtl n x) := by
  unfold State.setCtlGang
  split
  · exact State.modGang_setGang ..
  · exact State.modGang_setGang ..
  · exact State.modGang_setGang ..
  · exact State.modGang_setGang ..
  · rename_i h10 h12 h13 h18
    by_cases ht : trapOnly n = true
    · rw [if_pos ht, State.modGang_setGang, Gang.checkRelease_endMaskWaits, Gang.setCtl_of_trapOnly g x ht]
    · rw [if_neg ht, if_neg h, Gang.setCtl_other g x (by simpa using ht) h10 h12 h13 h18]

theorem Gang.setCtlThread_other (g : Gang) (l : Nat) {n : Nat} (x : Word) (h0 : n ≠ 0x100) (h2 : n ≠ 0x102) :
    g.setCtlThread l n x = g := by
  unfold Gang.setCtlThread
  split
  · exact absurd rfl h0
  · exact absurd rfl h2
  · rfl

theorem Gang.sameButWaits_setCtlThread (g : Gang) (l n : Nat) (x : Word) : g.SameButWaits (g.setCtlThread l n x) := by
  unfold Gang.setCtlThread
  split
  · exact (g.sameButWaits_endWait l).trans (Gang.sameButWaits_modThread _ l _)
  · exact g.sameButWaits_modThread l _
  · exact .refl g

theorem Gang.thread_setCtlThread_savedPc (g : Gang) (l : Nat) (x : Word) (j : Nat) :
    (g.setCtlThread l 0x100 x).thread j =
      if j = l then { g.thread l with savedPc := x, savedWait := .none, savedBlk := none } else g.thread j := by
  change ((g.endWait l).modThread l _).thread j = _
  rw [Gang.thread_modThread, Gang.thread_endWait, Gang.thread_endWait, if_pos rfl]
  split <;> rfl

theorem Gang.thread_setCtlThread_savedP (g : Gang) (l : Nat) (x : Word) (j : Nat) :
    (g.setCtlThread l 0x102 x).thread j = if j = l then { g.thread l with savedP := x.setWidth 7 } else g.thread j :=
  Gang.thread_modThread ..

/-- The gang that `wrsp` leaves, the slab configurations left out. -/
def State.wrspGang (s : State) (f : Fields) : Gang :=
  let e := s.execLanes f
  let g := s.movedGang (.wrsp f) e
  if f.ctlNum < 0x100 then g.setCtl f.ctlNum (s.readReg s.view (lowLane e) 0 f.a)
  else (lanesOf e).foldl (fun g l => g.setCtlThread l f.ctlNum (s.readReg s.view l 0 f.a)) g

theorem exec_wrsp_of_no_lanes {f : Fields} {s : State} (he : s.execLanes f = 0) : exec (.wrsp f) s = .next s.retire := by
  change execWrsp f s = _
  simp only [execWrsp, he, if_true]

theorem exec_wrsp_of_illegal {f : Fields} {s : State} (he : s.execLanes f ≠ 0)
    (h : (trapOnly f.ctlNum = true ∧ s.me.trap = false) ∨
      ((0x050 ≤ f.ctlNum ∧ f.ctlNum ≤ 0x05F) ∧ cfgOk (s.readReg s.view (lowLane (s.execLanes f)) 0 f.a) = false)) :
    exec (.wrsp f) s = .next (s.illop s.cur.gid s.cur.pc (s.execLanes f)) := by
  change execWrsp f s = _
  unfold execWrsp
  simp only
  rw [if_neg he, if_pos (by simpa [State.me] using h)]

theorem exec_wrsp_setGang {f : Fields} {s : State} (he : s.execLanes f ≠ 0)
    (ht : trapOnly f.ctlNum = true → s.me.trap = true) (hs : ¬ (0x050 ≤ f.ctlNum ∧ f.ctlNum ≤ 0x05F)) :
    exec (.wrsp f) s = .next (s.setGang s.cur.gid (s.wrspGang f)) := by
  have legal : ¬ ((trapOnly f.ctlNum && !(s.gang s.cur.gid).trap) || (decide (0x050 ≤ f.ctlNum ∧ f.ctlNum ≤ 0x05F) &&
      !cfgOk (s.readReg s.view (lowLane (s.execLanes f)) 0 f.a))) = true := by
    simpa [hs, State.me] using ht
  have no_slab : (cfgCode f.ctlNum).isEmpty = true := by rw [cfgCode, if_neg (by omega)]; rfl
  change execWrsp f s = _
  unfold execWrsp State.wrspGang
  simp only
  rw [if_neg he, if_neg legal]
  simp only [no_slab, if_true, State.latchClk_retire]
  congr 1
  split
  · exact State.setCtlGang_setGang s _ _ _ hs
  · exact State.modGang_setGang ..

/-! ### A write of the gang's own registers -/

/-- `wrsp` changes its gang as `g` says, with the threads `th`: the masks are written where the register is one of
theirs, and what waits had under way changes only where a handler's register is written. -/
def WrspGives (f : Fields) (s : State) (g : Gang → Gang) (th : Nat → Thread) : Prop :=
  let n := f.ctlNum
  let x := s.readReg s.view (lowLane (s.execLanes f)) 0 f.a
  ∃ t, exec (.wrsp f) s = .next t ∧ OnlyGang s.cur.gid s t ∧
    t.me = g { s.me with
      threads := t.me.threads, clkh := s.clkhAfter (.wrsp f) (s.execLanes f), drains := t.me.drains, loads := t.me.loads
      pend := t.me.pend, mM := t.me.mM, mA := t.me.mA } ∧
    (∀ k, sget t.me.mM k = if k = n % 16 ∧ 0x030 ≤ n ∧ n ≤ 0x03B then x else sget s.me.mM k) ∧
    (∀ k, sget t.me.mA k = if k = n % 16 ∧ 0x040 ≤ n ∧ n ≤ 0x04B then x else sget s.me.mA k) ∧
    (((0x030 ≤ n ∧ n ≤ 0x03B) ∨ (0x040 ≤ n ∧ n ≤ 0x04B) ∨ n = 0x100 ∨ n = 0x102) ∨
      (t.me.drains = s.me.drains ∧ t.me.loads = s.me.loads ∧ t.me.pend = s.me.pend)) ∧
    ∀ l, l < 32 → t.me.thread l = th l

section
variable {f : Fields} {s : State}

/-- A register that no handler's rule guards: threads move on, the masks and what is under way stay. -/
theorem wrspGives_of_plain {g : Gang → Gang} (he : s.execLanes f ≠ 0) (ht : trapOnly f.ctlNum = false)
    (hs : ¬ (0x050 ≤ f.ctlNum ∧ f.ctlNum ≤ 0x05F)) (hw : s.wrspGang f = g (s.movedGang (.wrsp f) (s.execLanes f)))
    (hg : ∀ a, (g a).threads = a.threads ∧ (g a).mM = a.mM ∧ (g a).mA = a.mA ∧ (g a).drains = a.drains ∧
      (g a).loads = a.loads ∧ (g a).pend = a.pend) : WrspGives f s g s.passed := by
  have hn := mt (trapOnly_iff f.ctlNum).mpr (by simp [ht])
  obtain ⟨hth, hM, hA, hd, hl, hp⟩ := hg (s.movedGang (.wrsp f) (s.execLanes f))
  refine ⟨_, exec_wrsp_setGang he (by simp [ht]) hs, ?_⟩
  rw [hw]
  have hme : (s.setGang s.cur.gid (g (s.movedGang (.wrsp f) (s.execLanes f)))).me =
      g (s.movedGang (.wrsp f) (s.execLanes f)) := State.setGang_gang_same ..
  refine ⟨by rw [OnlyGang, State.setGang_gang_same], ?_, fun k => ?_, fun k => ?_, .inr ⟨?_, ?_, ?_⟩, fun l hl => ?_⟩
  all_goals rw [hme]
  · rw [hth, hM, hA, hd, hl, hp]; rfl
  · rw [hM, if_neg (by omega)]; rfl
  · rw [hA, if_neg (by omega)]; rfl
  · exact hd
  · exact hl
  · exact hp
  · rw [Gang.thread, hth]; exact s.movedGang_thread _ _ hl

theorem wrspGives_of_setCtl {g : Gang → Gang} (he : s.execLanes f ≠ 0) {n : Nat} (hn : f.ctlNum = n) (hlt : n < 0x030)
    (hw : (s.movedGang (.wrsp f) (s.execLanes f)).setCtl n (s.readReg s.view (lowLane (s.execLanes f)) 0 f.a) =
      g (s.movedGang (.wrsp f) (s.execLanes f)))
    (hg : ∀ a, (g a).threads = a.threads ∧ (g a).mM = a.mM ∧ (g a).mA = a.mA ∧ (g a).drains = a.drains ∧
      (g a).loads = a.loads ∧ (g a).pend = a.pend) : WrspGives f s g s.passed := by
  subst hn
  refine wrspGives_of_plain he ?_ (by omega) ((if_pos (by omega)).trans hw) hg
  rw [← Bool.not_eq_true, trapOnly_iff]; omega

theorem wrspGives_of_flags (he : s.execLanes f ≠ 0) (hn : f.ctlNum = 0x010) :
    let x := s.readReg s.view (lowLane (s.execLanes f)) 0 f.a
    WrspGives f s (fun g => { g with flags := s.me.flags &&& ~~~(x.setWidth 5), ten := x.extractLsb' 8 5 }) s.passed :=
  wrspGives_of_setCtl he hn (by decide) rfl fun _ => ⟨rfl, rfl, rfl, rfl, rfl, rfl⟩

theorem wrspGives_of_chk (he : s.execLanes f ≠ 0) (hn : f.ctlNum = 0x012) :
    let x := s.readReg s.view (lowLane (s.execLanes f)) 0 f.a
    WrspGives f s (fun g => { g with chk := x.getLsbD 0 }) s.passed :=
  wrspGives_of_setCtl he hn (by decide) rfl fun _ => ⟨rfl, rfl, rfl, rfl, rfl, rfl⟩

theorem wrspGives_of_phaseOvf (he : s.execLanes f ≠ 0) (hn : f.ctlNum = 0x013) :
    let x := s.readReg s.view (lowLane (s.execLanes f)) 0 f.a
    WrspGives f s (fun g => { g with ovf := s.me.ovf && !x.getLsbD 0, sbf := s.me.sbf && !x.getLsbD 1 }) s.passed :=
  wrspGives_of_setCtl he hn (by decide) rfl fun _ => ⟨rfl, rfl, rfl, rfl, rfl, rfl⟩

theorem wrspGives_of_fabStat (he : s.execLanes f ≠ 0) (hn : f.ctlNum = 0x018) :
    let x := s.readReg s.view (lowLane (s.execLanes f)) 0 f.a
    WrspGives f s (fun g => { g with fabFail := (x.extractLsb' 24 8).toNat }) s.passed :=
  wrspGives_of_setCtl he hn (by decide) rfl fun _ => ⟨rfl, rfl, rfl, rfl, rfl, rfl⟩

theorem wrspGives_of_read_only (he : s.execLanes f ≠ 0) (ht : trapOnly f.ctlNum = false)
    (hs : ¬ (0x050 ≤ f.ctlNum ∧ f.ctlNum ≤ 0x05F)) (h10 : f.ctlNum ≠ 0x010) (h12 : f.ctlNum ≠ 0x012)
    (h13 : f.ctlNum ≠ 0x013) (h18 : f.ctlNum ≠ 0x018) : WrspGives f s (fun g => g) s.passed := by
  refine wrspGives_of_plain he ht hs ?_ fun _ => ⟨rfl, rfl, rfl, rfl, rfl, rfl⟩
  have hn := mt (trapOnly_iff f.ctlNum).mpr (by simp [ht])
  by_cases hlt : f.ctlNum < 0x100
  · exact (if_pos hlt).trans (Gang.setCtl_other _ _ ht h10 h12 h13 h18)
  · exact (if_neg hlt).trans (Gang.foldl_of_unchanged (fun g l => g.setCtlThread_other l _ (by omega) (by omega)) _ _)

/-- A register of trap state: the gang differs from the moved one in its masks, its threads and what waits had under way. -/
theorem wrspGives_of_trap {th : Nat → Thread} (he : s.execLanes f ≠ 0) (htrap : s.me.trap = true)
    (hn : trapOnly f.ctlNum = true) {M A : Sparse 32}
    (hw : Gang.SameButWaits { s.movedGang (.wrsp f) (s.execLanes f) with mM := M, mA := A } (s.wrspGang f))
    (hM : ∀ k, sget M k = if k = f.ctlNum % 16 ∧ 0x030 ≤ f.ctlNum ∧ f.ctlNum ≤ 0x03B then
      s.readReg s.view (lowLane (s.execLanes f)) 0 f.a else sget s.me.mM k)
    (hA : ∀ k, sget A k = if k = f.ctlNum % 16 ∧ 0x040 ≤ f.ctlNum ∧ f.ctlNum ≤ 0x04B then
      s.readReg s.view (lowLane (s.execLanes f)) 0 f.a else sget s.me.mA k)
    (hth : ∀ l, l < 32 → (s.wrspGang f).thread l = th l) : WrspGives f s (fun g => g) th := by
  have handlers := (trapOnly_iff f.ctlNum).mp hn
  refine ⟨_, exec_wrsp_setGang he (fun _ => htrap) (by omega), by rw [OnlyGang, State.setGang_gang_same], ?_⟩
  have hme : (s.setGang s.cur.gid (s.wrspGang f)).me = s.wrspGang f := State.setGang_gang_same ..
  rw [hme]
  obtain ⟨_, _, _, _, hw⟩ := hw
  refine ⟨?_, ?_, ?_, .inl handlers, hth⟩
  · rw [hw]; rfl
  · rw [hw]; exact hM
  · rw [hw]; exact hA

/-- A mask register's write ends every wait on the mask. -/
theorem wrspGives_of_endMaskWaits (he : s.execLanes f ≠ 0) (htrap : s.me.trap = true) (hn : trapOnly f.ctlNum = true)
    {M A : Sparse 32} (hw : s.wrspGang f = Gang.endMaskWaits
      { s.movedGang (.wrsp f) (s.execLanes f) with mM := M, mA := A } (f.ctlNum % 16))
    (hM : ∀ k, sget M k = if k = f.ctlNum % 16 ∧ 0x030 ≤ f.ctlNum ∧ f.ctlNum ≤ 0x03B then
      s.readReg s.view (lowLane (s.execLanes f)) 0 f.a else sget s.me.mM k)
    (hA : ∀ k, sget A k = if k = f.ctlNum % 16 ∧ 0x040 ≤ f.ctlNum ∧ f.ctlNum ≤ 0x04B then
      s.readReg s.view (lowLane (s.execLanes f)) 0 f.a else sget s.me.mA k) :
    WrspGives f s (fun g => g) (fun l => (s.passed l).endMask (f.ctlNum % 16)) := by
  refine wrspGives_of_trap he htrap hn (hw ▸ Gang.sameButWaits_endMaskWaits ..) hM hA fun l hl => ?_
  rw [hw, Gang.thread_endMaskWaits _ _ hl]
  exact congrArg (Thread.endMask _) (s.movedGang_thread (.wrsp f) (s.execLanes f) hl)

theorem wrspGives_of_mask (he : s.execLanes f ≠ 0) (htrap : s.me.trap = true)
    (hn : (0x030 ≤ f.ctlNum ∧ f.ctlNum ≤ 0x03B) ∨ (0x040 ≤ f.ctlNum ∧ f.ctlNum ≤ 0x04B)) :
    WrspGives f s (fun g => g) (fun l => (s.passed l).endMask (f.ctlNum % 16)) := by
  have ht : trapOnly f.ctlNum = true := (trapOnly_iff _).mpr (by omega)
  have hw : s.wrspGang f = _ := (if_pos (by omega)).trans (Gang.setCtl_of_trapOnly _ _ ht)
  rcases hn with hM | hA
  · refine wrspGives_of_endMaskWaits he htrap ht (hw.trans (by rw [if_pos (by omega)])) (fun k => ?_) (fun k => ?_)
    · simp only [sget_sset, hM, and_self, and_true]; rfl
    · rw [if_neg (by omega)]; rfl
  · refine wrspGives_of_endMaskWaits he htrap ht (hw.trans (by rw [if_neg (by omega)])) (fun k => ?_) (fun k => ?_)
    · rw [if_neg (by omega)]; rfl
    · simp only [sget_sset, hA, and_self, and_true]; rfl

/-- A thread-scope register of trap state: each executing thread changes as `F` says. -/
theorem wrspGives_of_thread {F : Nat → Thread → Thread} (he : s.execLanes f ≠ 0) (htrap : s.me.trap = true)
    (hn : f.ctlNum = 0x100 ∨ f.ctlNum = 0x102)
    (hF : ∀ (g : Gang) l j, (g.setCtlThread l f.ctlNum (s.readReg s.view l 0 f.a)).thread j =
      if j = l then F l (g.thread l) else g.thread j) :
    WrspGives f s (fun g => g) (fun l => if (s.execLanes f).getLsbD l then F l (s.passed l) else s.passed l) := by
  have hw : s.wrspGang f = _ := if_neg (by omega)
  refine wrspGives_of_trap he htrap ((trapOnly_iff _).mpr (by omega)) (M := s.me.mM) (A := s.me.mA)
    (hw ▸ .foldl (fun g l => Gang.sameButWaits_setCtlThread g l _ _) _ _) (fun k => ?_) (fun k => ?_) (fun l hl => ?_)
  · rw [if_neg (by omega)]
  · rw [if_neg (by omega)]
  · rw [hw, Gang.thread_foldl hF (nodup_lanesOf _), s.movedGang_thread _ _ hl]
    simp only [mem_lanesOf, hl, true_and]

end

theorem wrspGives_of_savedPc {f : Fields} {s : State} (he : s.execLanes f ≠ 0) (htrap : s.me.trap = true)
    (hn : f.ctlNum = 0x100) : WrspGives f s (fun g => g) (fun l => if (s.execLanes f).getLsbD l
      then { s.passed l with savedPc := s.readReg s.view l 0 f.a, savedWait := .none, savedBlk := none }
      else s.passed l) :=
  wrspGives_of_thread he htrap (.inl hn)
    (F := fun l t => { t with savedPc := s.readReg s.view l 0 f.a, savedWait := .none, savedBlk := none })
    fun g l j => by rw [hn]; exact g.thread_setCtlThread_savedPc ..

theorem wrspGives_of_savedP {f : Fields} {s : State} (he : s.execLanes f ≠ 0) (htrap : s.me.trap = true)
    (hn : f.ctlNum = 0x102) : WrspGives f s (fun g => g) (fun l => if (s.execLanes f).getLsbD l
      then { s.passed l with savedP := (s.readReg s.view l 0 f.a).setWidth 7 } else s.passed l) :=
  wrspGives_of_thread he htrap (.inr hn) (F := fun l t => { t with savedP := (s.readReg s.view l 0 f.a).setWidth 7 })
    fun g l j => by rw [hn]; exact g.thread_setCtlThread_savedP ..

/-! ### A slab configuration -/

theorem State.slabWritten_eq (s : State) (b : Nat) : s.slabWritten b = { s with gangs := (s.slabWritten b).gangs } := by
  unfold State.slabWritten
  generalize (s.block b).gangs = gs
  induction gs generalizing s with
  | nil => rfl
  | cons g t ih => rw [List.foldl_cons, ih]; rfl

theorem State.slabWritten_gang (s : State) (b j : Nat) :
    (s.slabWritten b).gang j = if j ∈ (s.block b).gangs then { s.gang j with ppValid := false } else s.gang j := by
  unfold State.slabWritten
  generalize (s.block b).gangs = gs
  induction gs generalizing s with
  | nil => simp
  | cons g t ih =>
    rw [List.foldl_cons, ih, State.modGang_gang]
    by_cases h : j = g
    · subst h; simp
    · simp [h]

/-- The gang whose word writes a slab's configuration: moved on, with the slab's write outstanding for 4 cycles. -/
def State.cfgGang (s : State) (f : Fields) : Gang :=
  let e := s.execLanes f
  { s.movedGang (.wrsp f) e with
    pend := (s.me.addPend [768 + (f.ctlNum - 0x050)] [] (some (s.lastBeat (.wrsp f) e + 4)) 0 s.cur.t false).pend }

/-- The block whose slab `k` is configured. -/
def Block.configure (k : Nat) (x : Word) (b : Block) : Block := { b with slab := kmod b.slab k (·.configure x) }

theorem State.setCtlGang_slab (s : State) (k : Nat) {n : Nat} (x : Word) (hs : 0x050 ≤ n ∧ n ≤ 0x05F) :
    s.setCtlGang k n x =
      (s.modBlock (s.gang k).block (Block.configure (n - 0x050) x)).slabWritten (s.gang k).block := by
  have ht : ¬ trapOnly n = true := by rw [trapOnly_iff]; omega
  unfold State.setCtlGang
  split
  · omega
  · omega
  · omega
  · omega
  · rw [if_neg ht, if_pos hs]; rfl

theorem State.movedGang_modGang (s : State) (i : Instr) (e : Lanes) {F : Gang → Gang}
    (hth : (F s.me).threads = s.me.threads) (hck : (F s.me).clkh = s.me.clkh) :
    (s.modGang s.cur.gid F).movedGang i e =
      { F s.me with threads := s.me.movedThreads s.cur.mask, clkh := s.clkhAfter i e } := by
  have hme : (s.modGang s.cur.gid F).me = F s.me := State.setGang_gang_same ..
  have clk : (s.modGang s.cur.gid F).clkhAfter i e = s.clkhAfter i e := by
    unfold State.clkhAfter
    rw [hme, hck]
    rfl
  rw [State.movedGang, hme, clk, State.modGang_cur, Gang.movedThreads_congr hth]

/-- The state after a slab's configuration. -/
def State.afterCfg (s : State) (f : Fields) : State :=
  ((s.setGang s.cur.gid (s.cfgGang f)).modBlock s.me.block
    (Block.configure (f.ctlNum - 0x050) (s.readReg s.view (lowLane (s.execLanes f)) 0 f.a))).slabWritten s.me.block

theorem exec_wrsp_slab {f : Fields} {s : State} (he : s.execLanes f ≠ 0) (hs : 0x050 ≤ f.ctlNum ∧ f.ctlNum ≤ 0x05F)
    (hc : cfgOk (s.readReg s.view (lowLane (s.execLanes f)) 0 f.a) = true) :
    exec (.wrsp f) s = .next (s.afterCfg f) := by
  have ht : trapOnly f.ctlNum = false := by rw [← Bool.not_eq_true, trapOnly_iff]; omega
  have code : cfgCode f.ctlNum = [768 + (f.ctlNum - 0x050)] := if_pos (by omega)
  change execWrsp f s = _
  unfold execWrsp
  simp only
  rw [if_neg he, if_neg (by simp [ht, hc]), if_pos (by omega), code]
  simp only [List.isEmpty_cons, Bool.false_eq_true, if_false, State.latchClk_retire]
  rw [State.movedGang_modGang s _ _ rfl rfl, State.modGang, State.setGang_cur, State.setGang_setGang,
    State.setCtlGang_slab _ _ _ hs, State.setGang_gang_same]
  rfl

theorem State.afterCfg_eq (s : State) (f : Fields) :
    s.afterCfg f = { s with gangs := (s.afterCfg f).gangs, blocks := (s.afterCfg f).blocks } := by
  unfold State.afterCfg
  rw [State.slabWritten_eq]
  rfl

theorem State.afterCfg_block (s : State) (f : Fields) (k : Nat) :
    (s.afterCfg f).block k = if k = s.me.block then Block.configure (f.ctlNum - 0x050)
      (s.readReg s.view (lowLane (s.execLanes f)) 0 f.a) (s.block s.me.block) else s.block k := by
  unfold State.afterCfg
  rw [State.slabWritten_eq]
  exact State.modBlock_block ..

/-- The gangs of the block lose PPOINT.LIVE.VALID (R181), and the gang of the word has its slab's write under way. -/
theorem State.afterCfg_gang (s : State) (f : Fields) (j : Nat) :
    (s.afterCfg f).gang j = if j ∈ (s.block s.me.block).gangs
      then { (if j = s.cur.gid then s.cfgGang f else s.gang j) with ppValid := false }
      else if j = s.cur.gid then s.cfgGang f else s.gang j := by
  unfold State.afterCfg
  rw [State.slabWritten_gang, State.modBlock_block, if_pos rfl]
  simp only [State.modBlock, State.setBlock_gang, State.setGang_gang]
  rfl

theorem State.afterCfg_me (s : State) (f : Fields) :
    (s.afterCfg f).me = { s.cfgGang f with ppValid := (s.afterCfg f).me.ppValid } := by
  have hcur : (s.afterCfg f).me = (s.afterCfg f).gang s.cur.gid := by
    rw [State.me, State.afterCfg_eq]
  rw [hcur, State.afterCfg_gang, if_pos rfl]
  split <;> rfl

theorem State.afterCfg_sameRegisters (s : State) (f : Fields) : SameRegisters s (s.afterCfg f) := by
  have regs : ∀ j, (if j = s.cur.gid then s.cfgGang f else s.gang j).regs = (s.gang j).regs := fun j => by
    split
    · next h => rw [h]; rfl
    · rfl
  intro j
  rw [State.afterCfg_gang]
  split
  · exact regs j
  · exact regs j

theorem State.afterCfg_slab (s : State) (f : Fields) (k : Nat) :
    kget ((s.afterCfg f).block s.me.block).slab k = if k = f.ctlNum - 0x050
      then (kget (s.block s.me.block).slab k).configure (s.readReg s.view (lowLane (s.execLanes f)) 0 f.a)
      else kget (s.block s.me.block).slab k := by
  rw [State.afterCfg_block, if_pos rfl]
  change kget (kset _ _ _) k = _
  rw [kget_kset]
  split
  · next h => rw [h]
  · rfl

theorem State.afterCfg_mem (s : State) (f : Fields) (k : Nat) : ((s.afterCfg f).block k).mem = (s.block k).mem := by
  rw [State.afterCfg_block]
  split
  · next h => rw [h]; rfl
  · rfl

theorem State.afterCfg_pend (s : State) (f : Fields) : ∃ p ∈ (s.afterCfg f).me.pend,
    p.reg = 768 + (f.ctlNum - 0x050) ∧ p.done = some (s.lastBeat (.wrsp f) (s.execLanes f) + 4) := by
  rw [State.afterCfg_me]
  exact ⟨_, List.mem_append_right _ (List.mem_singleton.mpr rfl), rfl, rfl⟩

theorem State.afterCfg_ppValid (s : State) (f : Fields) :
    ∀ g ∈ (s.block s.me.block).gangs, ((s.afterCfg f).gang g).ppValid = false := fun g hg => by
  rw [State.afterCfg_gang, if_pos hg]

theorem State.afterCfg_thread (s : State) (f : Fields) {l : Nat} (hl : l < 32) :
    (s.afterCfg f).me.thread l = s.passed l := by
  rw [State.afterCfg_me]
  exact s.movedGang_thread (.wrsp f) (s.execLanes f) hl

/-- Settles O33: the outcome of `wrsp` in each case (`exec_wrsp_of_no_lanes`, `exec_wrsp_of_illegal`,
`exec_wrsp_setGang`, `exec_wrsp_slab`), and what the gang and the slab then hold. -/
theorem controlWriteResults : Obligations.ControlWriteResults := by
  intro f s _ e n x y ty rb cfg handlers slab m b clk ends gives
  have trap_iff := trapOnly_iff n
  have cfg_iff := cfgOk_iff x
  refine ⟨fun he => goes_of_no_lanes he (exec_wrsp_of_no_lanes he),
    fun he hh htrap => exec_wrsp_of_illegal he (.inl ⟨trap_iff.mpr hh, htrap⟩),
    fun he hs hc => exec_wrsp_of_illegal he (.inr ⟨hs, Bool.eq_false_iff.mpr (mt cfg_iff.mp hc)⟩),
    fun he hn => wrspGives_of_flags he hn,
    fun he hn => wrspGives_of_chk he hn,
    fun he hn => wrspGives_of_phaseOvf he hn,
    fun he hn => wrspGives_of_fabStat he hn,
    fun he hh hs h10 h12 h13 h18 => wrspGives_of_read_only he (Bool.eq_false_iff.mpr (mt trap_iff.mp hh)) hs h10 h12 h13 h18,
    fun he htrap hn => wrspGives_of_mask he htrap hn, fun he htrap hn => wrspGives_of_savedPc he htrap hn,
    fun he htrap hn => wrspGives_of_savedP he htrap hn,
    fun he hs hc => ⟨_, exec_wrsp_slab he hs (cfg_iff.mpr hc), s.afterCfg_eq f, s.afterCfg_sameRegisters f,
      s.afterCfg_slab f, s.afterCfg_pend f, s.afterCfg_ppValid f, s.afterCfg_mem f, fun l hl => s.afterCfg_thread f hl⟩⟩

end Sys2Proof.Machine
